-- ==== Sys2Proof/Word.lean ====
section
/-! DEFINITION. The word types of the Taband: 32-bit registers and bytes (R15, R67). -/

namespace Sys2Proof

/-- A 32-bit word: a general register, a control register, a store datum (R67, R468). -/
abbrev Word := BitVec 32

/-- One byte of lap, spool, creel or host memory (R15). -/
abbrev Byte := BitVec 8

end Sys2Proof
end

