-- ==== Sys2Proof/Machine/Bits.lean ====
section
/-! DEFINITION. Bit fields of a word (R14), sign extension, and the sparse tables in which the state keeps what is
mostly at its reset value: a list of (key, value) pairs with rising keys, in which no entry equals what an unlisted
key reads as. -/

namespace Sys2Proof.Machine

/-- A bit range [hi:lo], both ends included (R14). -/
structure Bits where
  hi : Nat
  lo : Nat
  deriving DecidableEq, Repr

/-- The number of bits of a range. -/
def Bits.width (b : Bits) : Nat := b.hi + 1 - b.lo

/-- The value of a field of a number read as bits. -/
def natField (w : Nat) (b : Bits) : Nat := (w >>> b.lo) % 2 ^ b.width

/-- The value of a field of a word. -/
def getF (w : Word) (b : Bits) : Nat := natField w.toNat b

/-- A word with one field replaced; the value is taken modulo the field's range. -/
def setF (w : Word) (b : Bits) (v : Nat) : Word :=
  BitVec.ofNat 32 (w.toNat - natField w.toNat b * 2 ^ b.lo + (v % 2 ^ b.width) * 2 ^ b.lo)

/-- The mask of a field. -/
def maskF (b : Bits) : Nat := (2 ^ b.width - 1) * 2 ^ b.lo

/-- The low `n` bits of a natural number read as a two's complement value. -/
def signedOf (n v : Nat) : Int :=
  let m := v % 2 ^ n
  if m < 2 ^ (n - 1) then (m : Int) else (m : Int) - (2 ^ n : Nat)

/-- An integer reduced modulo `2^n`, as the bits that hold it. -/
def wrapTo (n : Nat) (x : Int) : Nat := (x % ((2 ^ n : Nat) : Int)).toNat

/-- A number to a word, wrapping. -/
def wordOf (n : Nat) : Word := BitVec.ofNat 32 n

/-- Bit `i` of a number. -/
def bitOf (n i : Nat) : Bool := n.testBit i

/-- 1 for true, 0 for false. -/
def b2n (b : Bool) : Nat := if b then 1 else 0

/-- The number of 1 bits among the low `n` bits. -/
def popCount : Nat → Nat → Nat
  | 0, _ => 0
  | n + 1, v => v % 2 + popCount n (v / 2)

/-- A counter of `bits` bits that saturates. -/
def satAdd (bits v d : Nat) : Nat := min (v + d) (2 ^ bits - 1)

/-- A sparse table. -/
abbrev Tbl (α : Type) := List (Nat × α)

/-- The value at a key, the default where the key is not listed. -/
def tget {α : Type} (d : Nat → α) : Tbl α → Nat → α
  | [], a => d a
  | (k, v) :: r, a => if k = a then v else tget d r a

/-- The table without a key. -/
def terase {α : Type} : Tbl α → Nat → Tbl α
  | [], _ => []
  | (k, v) :: r, a => if k = a then terase r a else (k, v) :: terase r a

/-- A pair put before the first larger key. -/
def tins {α : Type} : Tbl α → Nat → α → Tbl α
  | [], a, x => [(a, x)]
  | (k, v) :: r, a, x => if a < k then (a, x) :: (k, v) :: r else (k, v) :: tins r a x

/-- A write: the default value removes the entry, so that equal tables are equal data. -/
def tput {α : Type} [DecidableEq α] (d : Nat → α) (t : Tbl α) (a : Nat) (x : α) : Tbl α :=
  if x = d a then terase t a else tins (terase t a) a x

/-- The canonical form: keys strictly rising from above `lo`, no entry at its default. -/
def twfFrom {α : Type} [DecidableEq α] (d : Nat → α) : Option Nat → Tbl α → Bool
  | _, [] => true
  | lo, (k, v) :: r =>
    (match lo with | none => true | some l => decide (l < k)) && decide (v ≠ d k) && twfFrom d (some k) r

/-- The canonical form of a table. -/
def twf {α : Type} [DecidableEq α] (d : Nat → α) (t : Tbl α) : Bool := twfFrom d none t

/-- Element `i` of a list, a default beyond its end. -/
def nth {α : Type} (d : α) : List α → Nat → α
  | [], _ => d
  | x :: _, 0 => x
  | _ :: r, i + 1 => nth d r i

/-- A list with element `i` replaced. -/
def setNth {α : Type} : List α → Nat → α → List α
  | [], _, _ => []
  | _ :: r, 0, y => y :: r
  | x :: r, i + 1, y => x :: setNth r i y

/-- The first number below `n`, in rising order, that meets a condition. -/
def firstBelow (n : Nat) (p : Nat → Bool) : Option Nat := (List.range n).find? p

/-- A state transformed once per number of a list, in order. -/
def forEach {σ : Type} (l : List Nat) (f : Nat → σ → σ) (s : σ) : σ := l.foldl (fun s i => f i s) s

/-- The bytes of a number, least significant first (R15). -/
def bytesLE : Nat → Nat → List Byte
  | 0, _ => []
  | n + 1, v => BitVec.ofNat 8 v :: bytesLE n (v / 256)

/-- The number that bytes hold, least significant first (R15). -/
def leBytes : List Byte → Nat
  | [] => 0
  | b :: r => b.toNat + 256 * leBytes r

/-- A list cut to `n` elements and padded to `n` with a value. -/
def padTo {α : Type} (n : Nat) (x : α) (l : List α) : List α := (l.take n) ++ List.replicate (n - l.length) x

end Sys2Proof.Machine
end

