-- ==== Sys2Proof/Syntax.lean ====
section
/-! DEFINITION. The commands of the block: one constructor for each row of spec/opcode_table.json, with everything that
comes from outside as its operands (who writes, which instance, the value, the cell or flit received). -/

namespace Sys2Proof

/-- A whorl, WH0 to WH39 (R24). -/
abbrev WhorlNo := Fin 40

/-- A thread by its global number, whorl x 32 + thread (spec/02, before R33). -/
abbrev ThreadNo := Fin 1280

/-- A port or lane, P0 to P143 (R24). -/
abbrev PortNo := Fin 144

/-- A general register number (R67). -/
abbrev Reg := Fin 32

/-- An accumulator number (R69). -/
abbrev Acc := Fin 4

/-- The master a register write comes from: a thread's store, a host channel, a draft engine, or the debug port
(R16, R151, R467). -/
inductive Writer where
  | thread (g : ThreadNo)
  | host (c : Fin 8)
  | draft (e : Fin 8)
  | debugPort
  deriving DecidableEq, Repr

/-- A short operation of a pair as its 15 bits give it (R97). -/
structure ShortOp where
  op  : Fin 32
  rd  : Fin 16
  rs  : Fin 16
  sub : Fin 4
  deriving DecidableEq, Repr

/-- A cell (R196): the 16-byte header, bit 127 first, and the payload bytes. The link tag's verdict stands beside it in the
commands that receive it. -/
structure Cell where
  hdr : BitVec 128
  pay : List (BitVec 8)
  deriving DecidableEq, Repr

/-- What the link tag of a received cell shows (R207 to R210, R221): right under the current epoch, right under the
pending epoch only, right under epoch 0 only, the complement of the right tag, or wrong; in the last case, whether a
transit cell had already begun to leave (R28). -/
inductive TagCheck where
  | current | pending | zero | poisoned
  | bad (begun : Bool)
  deriving DecidableEq, Repr

/-- A remap register (R164). -/
inductive RemapRow where
  | creel (b : Fin 64) (s : Fin 8)
  | lap (n : WhorlNo) (b : Fin 8) (s : Fin 4)
  deriving DecidableEq, Repr

/-- What the host answers to a draft engine (R263, R266, R416): the 64 bytes of the command and of the command after it
where the list lies in host memory, and the bytes of each host source and destination element from the next one on;
none is an error response or a time-out, an element not listed has not been answered yet. -/
structure DraftHost where
  cmd  : Option (List (BitVec 8))
  next : Option (List (BitVec 8))
  src  : List (Option (List (BitVec 8)))
  dst  : List (Option (List (BitVec 8)))
  deriving DecidableEq, Repr

/-- A unit whose enable follows the common enable rule (R440). -/
inductive UnitSel where
  | link (p : PortNo) | bobbin (k : Fin 65536) | draft (e : Fin 8) | ply (u : Fin 16) | skein | snag | hap (c : Fin 8)
  deriving DecidableEq, Repr

/-- A signed object (R384): its header of 4,864 bytes, its body, and the certificate that follows the body of firmware. -/
structure SignedObj where
  hdr  : List (BitVec 8)
  body : List (BitVec 8)
  cert : List (BitVec 8) := []
  deriving DecidableEq, Repr

/-- An item of a JOBKEY command (R397, R398): a key package for a slot (world, KID, encapsulation, wrapped key), or the
erasure of a slot. -/
inductive SlotItem where
  | install (slot : Fin 4096) (z : Bool) (kid : Word) (encap wrapped : List (BitVec 8))
  | erase (slot : Fin 4096)
  deriving DecidableEq, Repr

/-- What puts the block into reset (R432). -/
inductive ResetCause where
  | pwrgood | rstN | command
  deriving DecidableEq, Repr

/-- The commands, in the order of the opcode table. -/
inductive Instr where
  -- spec/02: whorls and turns
  | slotTurn (n : WhorlNo)
  | shadowCheck (n : WhorlNo)
  | shadowSwap (n : WhorlNo)
  | slotWrite (who : Writer) (n : WhorlNo) (e : Fin 64) (val : Word)
  | slotHold (who : Writer) (n : WhorlNo) (hold : Bool)
  | threadStart (who : Writer) (g : ThreadNo) (nodon : Bool)
  | threadHalt (who : Writer) (g : ThreadNo) (nodon : Bool)
  | threadClrf (who : Writer) (g : ThreadNo) (nodon : Bool)
  | evpendClear (who : Writer) (g : ThreadNo) (val : Word)
  | deadlineArm (who : Writer) (g : ThreadNo) (val : Word)
  | deadlineFire (g : ThreadNo)
  | eventWake (g : ThreadNo)
  | unitEventPending (k : Fin 65536)
  | channelConfig (who : Writer) (n : WhorlNo) (c : Fin 64) (val : Word)
  | channelUnblock (g : ThreadNo)
  | xchanConfig (who : Writer) (n : WhorlNo) (x : Fin 16) (val : Word)
  | xchanArrive (n : WhorlNo) (x : Fin 16)
  | channelFlush (who : Writer) (n : WhorlNo) (ch : Fin 80)
  | frameAgeExpire (n : WhorlNo) (ch : Fin 80)
  | whorlGate (n : WhorlNo)
  | whorlWake (n : WhorlNo)
  | stall (n : WhorlNo)
  | quietWatch
  | notePop (who : Writer) (n : WhorlNo) (esc : Bool)
  | farLoadComplete (g : ThreadNo)
  | storeDrain (g : ThreadNo)
  | divideComplete (g : ThreadNo)
  -- spec/05: exceptions
  | exceptionEntry (g : ThreadNo)
  | asyncCauseTaken (g : ThreadNo)
  -- spec/03, spec/04: instructions
  | pair (g : ThreadNo) (a b : ShortOp)
  | add (g : ThreadNo) (rd rs1 rs2 : Reg)
  | addu (g : ThreadNo) (rd rs1 rs2 : Reg)
  | sub (g : ThreadNo) (rd rs1 rs2 : Reg)
  | subu (g : ThreadNo) (rd rs1 rs2 : Reg)
  | neg (g : ThreadNo) (rd rs1 : Reg)
  | and (g : ThreadNo) (rd rs1 rs2 : Reg)
  | or (g : ThreadNo) (rd rs1 rs2 : Reg)
  | xor (g : ThreadNo) (rd rs1 rs2 : Reg)
  | shl (g : ThreadNo) (rd rs1 rs2 : Reg)
  | shr (g : ThreadNo) (rd rs1 rs2 : Reg)
  | sra (g : ThreadNo) (rd rs1 rs2 : Reg)
  | sxb (g : ThreadNo) (rd rs1 : Reg)
  | sxh (g : ThreadNo) (rd rs1 : Reg)
  | zxb (g : ThreadNo) (rd rs1 : Reg)
  | zxh (g : ThreadNo) (rd rs1 : Reg)
  | ceq (g : ThreadNo) (rd rs1 rs2 : Reg)
  | cne (g : ThreadNo) (rd rs1 rs2 : Reg)
  | clt (g : ThreadNo) (rd rs1 rs2 : Reg)
  | cltu (g : ThreadNo) (rd rs1 rs2 : Reg)
  | cle (g : ThreadNo) (rd rs1 rs2 : Reg)
  | cleu (g : ThreadNo) (rd rs1 rs2 : Reg)
  | addd (g : ThreadNo) (rd rs1 rs2 : Reg)
  | subd (g : ThreadNo) (rd rs1 rs2 : Reg)
  | mul (g : ThreadNo) (rd rs1 rs2 : Reg)
  | mulu (g : ThreadNo) (rd rs1 rs2 : Reg)
  | mulh (g : ThreadNo) (rd rs1 rs2 : Reg)
  | mulhu (g : ThreadNo) (rd rs1 rs2 : Reg)
  | mulw (g : ThreadNo) (rd rs1 rs2 : Reg)
  | mulwu (g : ThreadNo) (rd rs1 rs2 : Reg)
  | div (g : ThreadNo) (rd rs1 rs2 : Reg)
  | divu (g : ThreadNo) (rd rs1 rs2 : Reg)
  | rem (g : ThreadNo) (rd rs1 rs2 : Reg)
  | addq (g : ThreadNo) (rd rs1 rs2 : Reg) (sat : Bool)
  | subq (g : ThreadNo) (rd rs1 rs2 : Reg) (sat : Bool)
  | mulq (g : ThreadNo) (rd rs1 rs2 : Reg) (sat : Bool)
  | addp (g : ThreadNo) (rd rs1 rs2 : Reg) (sat : Bool)
  | subp (g : ThreadNo) (rd rs1 rs2 : Reg) (sat : Bool)
  | mulp (g : ThreadNo) (rd rs1 rs2 : Reg) (sat : Bool)
  | aclr (g : ThreadNo) (a : Acc)
  | amov (g : ThreadNo) (a : Acc) (rs1 : Reg)
  | maci (g : ThreadNo) (a : Acc) (rs1 rs2 : Reg)
  | msui (g : ThreadNo) (a : Acc) (rs1 rs2 : Reg)
  | macu (g : ThreadNo) (a : Acc) (rs1 rs2 : Reg)
  | macq (g : ThreadNo) (a : Acc) (rs1 rs2 : Reg)
  | msuq (g : ThreadNo) (a : Acc) (rs1 rs2 : Reg)
  | macp (g : ThreadNo) (a : Acc) (rs1 rs2 : Reg)
  | ash (g : ThreadNo) (a : Acc) (imm : BitVec 15)
  | extq (g : ThreadNo) (rd : Reg) (a : Acc) (sat : Bool)
  | exth (g : ThreadNo) (rd : Reg) (a : Acc) (sat : Bool)
  | axl (g : ThreadNo) (rd : Reg) (a : Acc)
  | axh (g : ThreadNo) (rd : Reg) (a : Acc)
  | axg (g : ThreadNo) (rd : Reg) (a : Acc)
  | asat (g : ThreadNo) (rd : Reg) (a : Acc) (sat : Bool)
  | mfs (g : ThreadNo) (rd : Reg) (sr : Fin 32)
  | mts (g : ThreadNo) (sr : Fin 32) (rs1 : Reg)
  | wfe (g : ThreadNo) (rd rs1 : Reg)
  | sev (g : ThreadNo) (rs1 : Reg)
  | halt (g : ThreadNo)
  | brk (g : ThreadNo)
  | tbr (g : ThreadNo) (rd : Reg)
  | fence (g : ThreadNo)
  | scall (g : ThreadNo)
  | sret (g : ThreadNo)
  | eret (g : ThreadNo)
  | hspill (g : ThreadNo) (rs1 : Reg)
  | hfill (g : ThreadNo) (rs1 : Reg)
  | jr (g : ThreadNo) (rs1 : Reg)
  | callr (g : ThreadNo) (rs1 : Reg)
  | ret (g : ThreadNo)
  | addi (g : ThreadNo) (rd rs1 : Reg) (imm : BitVec 15)
  | addiu (g : ThreadNo) (rd rs1 : Reg) (imm : BitVec 15)
  | andi (g : ThreadNo) (rd rs1 : Reg) (imm : BitVec 15)
  | ori (g : ThreadNo) (rd rs1 : Reg) (imm : BitVec 15)
  | xori (g : ThreadNo) (rd rs1 : Reg) (imm : BitVec 15)
  | shli (g : ThreadNo) (rd rs1 : Reg) (k : Fin 32)
  | shri (g : ThreadNo) (rd rs1 : Reg) (k : Fin 32)
  | srai (g : ThreadNo) (rd rs1 : Reg) (k : Fin 32)
  | ceqi (g : ThreadNo) (rd rs1 : Reg) (imm : BitVec 15)
  | cnei (g : ThreadNo) (rd rs1 : Reg) (imm : BitVec 15)
  | clti (g : ThreadNo) (rd rs1 : Reg) (imm : BitVec 15)
  | cltui (g : ThreadNo) (rd rs1 : Reg) (imm : BitVec 15)
  | clei (g : ThreadNo) (rd rs1 : Reg) (imm : BitVec 15)
  | cleui (g : ThreadNo) (rd rs1 : Reg) (imm : BitVec 15)
  | li (g : ThreadNo) (rd : Reg) (imm : BitVec 20)
  | lui (g : ThreadNo) (rd : Reg) (imm : BitVec 20)
  | lb (g : ThreadNo) (rd rs1 : Reg) (imm : BitVec 15)
  | lbu (g : ThreadNo) (rd rs1 : Reg) (imm : BitVec 15)
  | lh (g : ThreadNo) (rd rs1 : Reg) (imm : BitVec 15)
  | lhu (g : ThreadNo) (rd rs1 : Reg) (imm : BitVec 15)
  | lw (g : ThreadNo) (rd rs1 : Reg) (imm : BitVec 15)
  | ld (g : ThreadNo) (rd rs1 : Reg) (imm : BitVec 15)
  | sb (g : ThreadNo) (rd rs1 : Reg) (imm : BitVec 15)
  | sh (g : ThreadNo) (rd rs1 : Reg) (imm : BitVec 15)
  | sw (g : ThreadNo) (rd rs1 : Reg) (imm : BitVec 15)
  | sd (g : ThreadNo) (rd rs1 : Reg) (imm : BitVec 15)
  | amadd (g : ThreadNo) (rd rs1 rs2 : Reg)
  | amswap (g : ThreadNo) (rd rs1 rs2 : Reg)
  | amcas (g : ThreadNo) (rd rs1 rs2 : Reg)
  | rep (g : ThreadNo) (intr : Bool) (reg : Option Reg) (imm : Fin 4096)
  | bz (g : ThreadNo) (rs1 : Reg) (off : BitVec 20)
  | bnz (g : ThreadNo) (rs1 : Reg) (off : BitVec 20)
  | j (g : ThreadNo) (off : BitVec 25)
  | call (g : ThreadNo) (off : BitVec 25)
  | chs (g : ThreadNo) (rs1 rs2 : Reg)
  | chse (g : ThreadNo) (rs1 rs2 : Reg)
  | chr (g : ThreadNo) (rd rs1 : Reg)
  | chts (g : ThreadNo) (rd rs1 rs2 : Reg) (fin : Bool)
  | chtr (g : ThreadNo) (rd rs1 : Reg)
  | chst (g : ThreadNo) (rd rs1 : Reg)
  | bdb (g : ThreadNo) (rs1 rs2 : Reg)
  | bpop (g : ThreadNo) (rd rs1 : Reg)
  | bpopRelease (g : ThreadNo) (rd rs1 : Reg)
  | balloc (g : ThreadNo) (rd rs1 : Reg)
  | bfree (g : ThreadNo) (rs1 : Reg)
  | bcrd (g : ThreadNo) (rd rs1 rs2 : Reg)
  | drgo (g : ThreadNo) (rd rs1 rs2 : Reg)
  | plygoPass (g : ThreadNo) (rd rs1 rs2 : Reg)
  | plygoPost (g : ThreadNo) (rd rs1 rs2 : Reg)
  | plygoArm (g : ThreadNo) (rd rs1 rs2 : Reg)
  | plygoAbort (g : ThreadNo) (rd rs1 rs2 : Reg)
  | sknOpen (g : ThreadNo) (rd rs1 rs2 : Reg)
  | sknEnter (g : ThreadNo) (rd rs1 rs2 : Reg)
  | sknSnap (g : ThreadNo) (rd rs1 rs2 : Reg)
  | sknDrain (g : ThreadNo) (rd rs1 rs2 : Reg)
  | sknClose (g : ThreadNo) (rd rs1 rs2 : Reg)
  | trf (g : ThreadNo) (rs1 : Reg)
  | pinw (g : ThreadNo) (rs1 rs2 : Reg)
  | pinr (g : ThreadNo) (rd rs1 : Reg)
  | pint (g : ThreadNo) (rs1 rs2 : Reg)
  | cxp (g : ThreadNo) (port : Fin 4) (rd rs1 rs2 : Reg) (fn : Fin 1024)
  | cxpResponse (g : ThreadNo) (val : Word)
  | cxpTimeout (g : ThreadNo)
  -- spec/06: memory
  | scrub (who : Writer) (val : Word)
  | rawRead (who : Writer) (val : Word)
  | rawWrite (who : Writer) (val : Word)
  | eccCountClear (who : Writer) (val : Word)
  | remapLock (who : Writer) (val : Word)
  | remapWrite (who : Writer) (row : RemapRow) (val : Word)
  -- spec/07: bobbins and the ledger
  | bobSetWrite (who : Writer) (k : Fin 65536)
  | bobSetRead (who : Writer) (k : Fin 65536)
  | bobSetClear (who : Writer) (k : Fin 65536)
  | bobbinEnable (who : Writer) (k : Fin 65536) (val : Word)
  | doorbell (who : Writer) (k : Fin 65536) (cnt : Fin 131072)
  | release (who : Writer) (k : Fin 65536) (cnt : Fin 131072)
  | doorbellArrive (g : ThreadNo)
  | txSlipFetch (k : Fin 65536) (host : Option (List (BitVec 8)))
  | txMessageStart (k : Fin 65536) (host : Option (List (BitVec 8)))
  | norouteRetry (k : Fin 65536) (host : Option (List (BitVec 8)))
  | cellFramed (p : PortNo)
  | retire (who : Writer) (val : Word)
  | grantAdjust (who : Writer) (val : Word)
  | ledgerOverride (who : Writer) (val : Word)
  | guaranteeBreak (who : Writer) (val : Word)
  | ledgerCheck
  -- spec/08: the wire
  | codewordReceived (p : PortNo) (syms : List (BitVec 10))
  | lossOfSignal (p : PortNo)
  | cellReceived (p : PortNo) (cell : Cell) (tag : TagCheck)
  | transitRelease (p : PortNo)
  | controlCellReceived (p : PortNo) (cell : Cell) (tag : TagCheck) (accepted : Bool)
  | nakReceived (p : PortNo) (cell : Cell) (tag : TagCheck)
  | creditBlock (p : PortNo) (cell : Cell) (tag : TagCheck)
  | creditReturnSend (p : PortNo)
  | syncReceived (p : PortNo) (cell : Cell) (tag : TagCheck)
  | syncRequest (p : PortNo)
  | replayTimeout (p : PortNo)
  | nakRepeat (p : PortNo)
  | keyExhaust (p : PortNo)
  | keyEraseRetrain (p : PortNo)
  | egressSlot (p : PortNo)
  | controlSend (who : Writer) (p : PortNo) (val : Word)
  | controlPop (who : Writer) (p : PortNo) (val : Word)
  | linkCounterClear (who : Writer) (p : PortNo) (val : Word)
  | linkEnable (who : Writer) (p : PortNo) (val : Word)
  | retrainTimeout (p : PortNo)
  | drainDone (p : PortNo)
  -- spec/09: forwarding and the reel
  | routeCommit (who : Writer) (d : Fin 4096) (val : Word)
  | messageComplete (c : Fin 16384)
  | landingSpaceFree (c : Fin 16384)
  | orderedLanding (c : Fin 16384)
  | stallTimerExpire (c : Fin 16384)
  | ctxHold (who : Writer) (c : Fin 16384)
  | ctxResend (who : Writer) (c : Fin 16384)
  | ctxAbort (who : Writer) (c : Fin 16384)
  | ackSend (src : Fin 4096)
  | ackReceived
  | routeCounterClear (who : Writer) (val : Word)
  | reelSwapRequest (who : Writer) (p : PortNo) (val : Word)
  | reelArm (who : Writer) (val : Word)
  | reelBoundary (p : PortNo)
  -- spec/10: draft engines
  | draftGoWrite (who : Writer) (e : Fin 8) (val : Word)
  | draftEnable (who : Writer) (e : Fin 8) (val : Word)
  | draftCopy (e : Fin 8) (h : DraftHost)
  | draftFill (e : Fin 8) (h : DraftHost)
  | draftPut (e : Fin 8) (h : DraftHost)
  | draftGet (e : Fin 8) (h : DraftHost)
  | plycopy (e : Fin 8) (h : DraftHost)
  | draftFence (e : Fin 8) (h : DraftHost)
  | draftEvent (e : Fin 8) (h : DraftHost)
  | draftLink (e : Fin 8) (h : DraftHost)
  | draftStop (e : Fin 8) (h : DraftHost)
  | serviceCommand (e : Fin 8) (h : DraftHost)
  | draftPause (who : Writer) (e : Fin 8)
  | draftResume (who : Writer) (e : Fin 8)
  | draftAbort (who : Writer) (e : Fin 8)
  | draftClrf (who : Writer) (e : Fin 8)
  | draftCounterClear (who : Writer) (e : Fin 8) (val : Word)
  -- spec/11: ply units
  | passComplete (u : Fin 16)
  | fenceRecorded (u : Fin 16) (j : Fin 64)
  | groupFlip (g : Fin 32)
  | groupDisarm (who : Writer) (g : Fin 32) (val : Word)
  | plyClrf (who : Writer) (u : Fin 16)
  | plyAbort (who : Writer) (u : Fin 16)
  | plyEnable (who : Writer) (u : Fin 16) (val : Word)
  | plyCounterClear (who : Writer) (u : Fin 16) (val : Word)
  | startingEnd (u : UnitSel)
  | stoppingEnd (u : UnitSel)
  -- spec/12: skein and fabric time
  | tbRateWrite (who : Writer) (val : Word)
  | tbSlew (who : Writer) (val : Word)
  | tbStep (who : Writer) (val : Word)
  | tbSnap (who : Writer) (val : Word)
  | tsinfoSend (p : PortNo)
  | tsinfoReceived (p : PortNo) (cell : Cell) (tag : TagCheck)
  | scheduledAction (j : Fin 32)
  | skeinCellReceived
  | skeinComplete (c : Fin 256)
  | skeinTimeout (c : Fin 256)
  | markerReceived (p : PortNo)
  | skeinEnable (who : Writer) (val : Word)
  -- spec/13: tensioner and Snag
  | gradientBlock (p : PortNo) (smm mse : Word) (grad : List Word)
  | tnsSwapRequest (who : Writer) (p : PortNo) (val : Word)
  | tnsSwap (p : PortNo)
  | revert (p : PortNo)
  | probationEnd (p : PortNo)
  | tnsRevertCmd (who : Writer) (p : PortNo) (val : Word)
  | txEqSwap (p : PortNo)
  | tnsCounterClear (who : Writer) (p : PortNo) (val : Word)
  | recalDue (p : PortNo)
  | ageingMeasure (who : Writer) (val : Word)
  | ageingDone (str ref : List Word)
  | snagEnable (who : Writer) (val : Word)
  | snagAudack (who : Writer) (val : Word)
  | snagReorderRelease (p : PortNo)
  | squelchEnd (p : PortNo)
  -- spec/14: the treadle network and the service pins
  | swfire (who : Writer) (w : Fin 2) (val : Word)
  | treadleEvent (c : Fin 256)
  | treadleEmit (c : Fin 256)
  | consumerAck (who : Writer) (c : Fin 256) (val : Word)
  | consumerConfig (who : Writer) (c : Fin 256) (val : Word)
  | groupControl (who : Writer) (g : Fin 32) (val : Word)
  | matrixWrite (who : Writer) (c : Fin 256) (w : Fin 16) (val : Word)
  | configCapture
  | pinEdge (i : Fin 96) (ext : Option Bool)
  | pinOutWrite (who : Writer) (w : Fin 3) (val : Word)
  | pinSet (who : Writer) (w : Fin 3) (val : Word)
  | pinClr (who : Writer) (w : Fin 3) (val : Word)
  | pinTgl (who : Writer) (w : Fin 3) (val : Word)
  | pinConfig (who : Writer) (i : Fin 96) (val : Word)
  | pinOwner (who : Writer) (i : Fin 96) (val : Word)
  | pinFlush (who : Writer) (i : Fin 16) (val : Word)
  | timedEdge (i : Fin 16)
  | pinCapture (i : Fin 16) (rising : Bool)
  | bankPower (k : Fin 6) (good : Bool)
  | sleepRequest (level : Bool)
  -- spec/15: security and roles
  | secSubmit (who : Writer) (n : WhorlNo) (val : Word)
  | hash
  | random
  | pubid
  | signId
  | verify
  | kemgen
  | encap
  | decap
  | deriveLink
  | hmac
  | openSession
  | unwrapSlot
  | erase
  | auditAppend
  | attestOp
  | grantRole
  | grantClear (who : Writer) (val : Word)
  | mailboxGo (who : Writer) (val : Word)
  | mailboxPost (who : Writer) (val : Word)
  | roleFrame (bob : Bool) (frame : List (BitVec 8))
  | sessionTimeout (role : Fin 4)
  | challenge
  | openRole
  | closeRole
  | attest
  | zload (obj : SignedObj) (areas : List (Nat × List (BitVec 8))) (threads : List ThreadNo)
  | jobkey (items : List SlotItem)
  | counters (addrs : List Word)
  | audexport (first : Nat)
  | debugOpen (sScope : Bool)
  | regw (l : List (Word × Word × Word))
  | worldmap (l : List (ThreadNo × Bool))
  | snagCommand (l : List (Word × Word × Word))
  | approve (objs : List SignedObj)
  | svncommit
  | march (fails : List (Nat × Nat))
  | restart
  | regwm (l : List (Word × Word × Word))
  | lgrovr (set v0 v1 v2 v3 : Word)
  | inskey (fp : List (BitVec 8))
  | shiplock
  -- spec/16: the host attach port
  | hreqRd (c : Fin 8) (hdr : BitVec 128)
  | hreqWr (c : Fin 8) (hdr be : BitVec 128) (data : List (BitVec 8))
  | hreqWrdb (c : Fin 8) (hdr be : BitVec 128) (data : List (BitVec 8))
  | hostCreditReturn (c : Fin 8) (hrsp dreq : Fin 4)
  | drspReceived (c : Fin 8) (hdr : BitVec 64) (data : List (BitVec 8))
  | writeFailureReport (c : Fin 8) (hdr : BitVec 64)
  | readTimeout (c : Fin 8) (tag : Fin 1024)
  | interruptRearm (who : Writer) (w : Fin 8) (val : Word)
  | interruptSoftwareFire (who : Writer) (w : Fin 8) (val : Word)
  | hapEnable (who : Writer) (c : Fin 8) (val : Word)
  | hclkLoss (runs : Bool)
  | hapCounterClear (who : Writer) (c : Fin 8) (val : Word)
  -- spec/17, spec/18: start-up, power, thermal sensing
  | resetEntry (cause : ResetCause)
  | supplyOutOfRange (dom : Fin 5) (good : Bool)
  | resetRelease
  | resetCommand (who : Writer) (val : Word)
  | quadPllLock (q : Fin 4)
  | powerRun (who : Writer)
  | powerDoze (who : Writer)
  | powerDeepSleep (who : Writer)
  | wake (w : Fin 4)
  | wclkDivider (who : Writer) (val : Word)
  | dividerSwitch
  | thermalConversion (t0 t1 t2 t3 t4 : BitVec 12)
  | bootVerify (fw appr : SignedObj) (image : List (BitVec 8)) (items : List (Fin 8 × List (BitVec 8)))
  -- spec/02, spec/05, spec/19: debug, and what the other rows leave
  | debugStop (who : Writer)
  | threadStopped (g : ThreadNo)
  | debugResume (who : Writer)
  | debugStep (who : Writer)
  | debugRegRead (who : Writer)
  | debugRegWrite (who : Writer) (val : Word)
  | debugMemRead (who : Writer)
  | debugMemWrite (who : Writer) (val : Word)
  | traceEnable (who : Writer) (val : Word)
  | registerWrite (who : Writer) (addr val : Word)
  | rclkEdge
  | laneStopsDead (p : PortNo)
  | farUnitComplete (g : ThreadNo)
  | vppOtpInRange (good : Bool)
  | lxSignalChange (k : Fin 64) (level : Bool)
  | illegalInstruction (g : ThreadNo) (word : Word)
  deriving DecidableEq, Repr

end Sys2Proof
end

