-- ==== Sys2Proof/Decode.lean ====
section
/-! DEFINITION. The decoder of Fosia instruction words, total on every word, rejecting by the DETAIL of cause 1 (R96 to
R107, R110, R112, R117, R123), and the reading of a command from table bits: the opcode table gives no row any bits. -/

namespace Sys2Proof

/-- Why a word is illegal: the DETAIL values of cause 1 (R123). -/
inductive Illegal where
  | major | cxpOff | function | reserved | oddPair | value | pairing
  deriving DecidableEq, Repr

/-- The DETAIL number. -/
def Illegal.detail : Illegal → Nat
  | .major => 1
  | .cxpOff => 2
  | .function => 3
  | .reserved => 4
  | .oddPair => 5
  | .value => 6
  | .pairing => 7

/-- The outcome of decoding. -/
inductive Decoded where
  | ok (i : Instr)
  | bad (e : Illegal)
  deriving DecidableEq, Repr

/-- Bits [hi:lo] of a word. -/
def bits (w hi lo : Nat) : Nat := w / 2 ^ lo % 2 ^ (hi + 1 - lo)

/-- The fields of a long word (R97). -/
structure Fields where
  g     : ThreadNo
  rd    : Reg
  rs1   : Reg
  rs2   : Reg
  code  : Nat
  s     : Bool
  imm15 : BitVec 15
  imm20 : BitVec 20
  off25 : BitVec 25
  deriving DecidableEq, Repr

/-- The fields of a word. -/
def fieldsOf (g : ThreadNo) (w : Nat) : Fields :=
  { g := g, rd := Fin.ofNat 32 (bits w 24 20), rs1 := Fin.ofNat 32 (bits w 19 15), rs2 := Fin.ofNat 32 (bits w 14 10),
    code := bits w 8 0, s := bits w 9 9 = 1, imm15 := BitVec.ofNat 15 w, imm20 := BitVec.ofNat 20 w,
    off25 := BitVec.ofNat 25 w }

/-- A decoded word after its checks, in the order of R117: reserved fields zero, pair registers even, values defined. -/
def checkedWord (reserved : Bool) (pairs : List Reg) (value : Bool) (i : Instr) : Decoded :=
  if !reserved then .bad .reserved
  else if !pairs.all (fun r => r.val % 2 = 0) then .bad .oddPair
  else if !value then .bad .value
  else .ok i

/-- A three-register word: fn[9] is reserved (R100). -/
def form3 (f : Fields) (i : Instr) : Decoded := checkedWord (!f.s) [] true i
/-- A word without rs2. -/
def form2 (f : Fields) (i : Instr) : Decoded := checkedWord (!f.s && f.rs2 == 0) [] true i

/-- Major 0x00 (R100). -/
def decode00 (f : Fields) : Decoded :=
  match f.code with
  | 0x001 => form3 f (.add f.g f.rd f.rs1 f.rs2)
  | 0x002 => form3 f (.addu f.g f.rd f.rs1 f.rs2)
  | 0x003 => form3 f (.sub f.g f.rd f.rs1 f.rs2)
  | 0x004 => form3 f (.subu f.g f.rd f.rs1 f.rs2)
  | 0x005 => form2 f (.neg f.g f.rd f.rs1)
  | 0x008 => form3 f (.and f.g f.rd f.rs1 f.rs2)
  | 0x009 => form3 f (.or f.g f.rd f.rs1 f.rs2)
  | 0x00A => form3 f (.xor f.g f.rd f.rs1 f.rs2)
  | 0x010 => form3 f (.shl f.g f.rd f.rs1 f.rs2)
  | 0x011 => form3 f (.shr f.g f.rd f.rs1 f.rs2)
  | 0x012 => form3 f (.sra f.g f.rd f.rs1 f.rs2)
  | 0x018 => form2 f (.sxb f.g f.rd f.rs1)
  | 0x019 => form2 f (.sxh f.g f.rd f.rs1)
  | 0x01A => form2 f (.zxb f.g f.rd f.rs1)
  | 0x01B => form2 f (.zxh f.g f.rd f.rs1)
  | 0x020 => form3 f (.ceq f.g f.rd f.rs1 f.rs2)
  | 0x021 => form3 f (.cne f.g f.rd f.rs1 f.rs2)
  | 0x022 => form3 f (.clt f.g f.rd f.rs1 f.rs2)
  | 0x023 => form3 f (.cltu f.g f.rd f.rs1 f.rs2)
  | 0x024 => form3 f (.cle f.g f.rd f.rs1 f.rs2)
  | 0x025 => form3 f (.cleu f.g f.rd f.rs1 f.rs2)
  | 0x030 => checkedWord (!f.s) [f.rd, f.rs1, f.rs2] true (.addd f.g f.rd f.rs1 f.rs2)
  | 0x031 => checkedWord (!f.s) [f.rd, f.rs1, f.rs2] true (.subd f.g f.rd f.rs1 f.rs2)
  | _ => .bad .function

/-- Major 0x01 (R100). -/
def decode01 (f : Fields) : Decoded :=
  match f.code with
  | 0x000 => form3 f (.mul f.g f.rd f.rs1 f.rs2)
  | 0x001 => form3 f (.mulu f.g f.rd f.rs1 f.rs2)
  | 0x002 => form3 f (.mulh f.g f.rd f.rs1 f.rs2)
  | 0x003 => form3 f (.mulhu f.g f.rd f.rs1 f.rs2)
  | 0x004 => checkedWord (!f.s) [f.rd] true (.mulw f.g f.rd f.rs1 f.rs2)
  | 0x005 => checkedWord (!f.s) [f.rd] true (.mulwu f.g f.rd f.rs1 f.rs2)
  | 0x010 => form3 f (.div f.g f.rd f.rs1 f.rs2)
  | 0x011 => form3 f (.divu f.g f.rd f.rs1 f.rs2)
  | 0x012 => form3 f (.rem f.g f.rd f.rs1 f.rs2)
  | _ => .bad .function

/-- An accumulator number in the low bits of a register field (R98). -/
def accOf (r : Reg) : Acc := Fin.ofNat 4 r.val
/-- The three bits above it are zero. -/
def accRes (r : Reg) : Bool := r.val < 4

/-- Major 0x02 (R101): fn[9] is S in the instructions that saturate. -/
def decode02 (f : Fields) : Decoded :=
  let acc3 := fun (i : Instr) => checkedWord (!f.s && accRes f.rd) [] true i
  match f.code with
  | 0x000 => .ok (.addq f.g f.rd f.rs1 f.rs2 f.s)
  | 0x001 => .ok (.subq f.g f.rd f.rs1 f.rs2 f.s)
  | 0x002 => .ok (.mulq f.g f.rd f.rs1 f.rs2 f.s)
  | 0x004 => .ok (.addp f.g f.rd f.rs1 f.rs2 f.s)
  | 0x005 => .ok (.subp f.g f.rd f.rs1 f.rs2 f.s)
  | 0x006 => .ok (.mulp f.g f.rd f.rs1 f.rs2 f.s)
  | 0x010 => checkedWord (!f.s && accRes f.rd && f.rs1 == 0 && f.rs2 == 0) [] true (.aclr f.g (accOf f.rd))
  | 0x011 => checkedWord (!f.s && accRes f.rd && f.rs2 == 0) [f.rs1] true (.amov f.g (accOf f.rd) f.rs1)
  | 0x012 => acc3 (.maci f.g (accOf f.rd) f.rs1 f.rs2)
  | 0x013 => acc3 (.msui f.g (accOf f.rd) f.rs1 f.rs2)
  | 0x014 => acc3 (.macu f.g (accOf f.rd) f.rs1 f.rs2)
  | 0x015 => acc3 (.macq f.g (accOf f.rd) f.rs1 f.rs2)
  | 0x016 => acc3 (.msuq f.g (accOf f.rd) f.rs1 f.rs2)
  | 0x017 => acc3 (.macp f.g (accOf f.rd) f.rs1 f.rs2)
  | 0x020 => checkedWord (accRes f.rs1 && f.rs2 == 0) [] true (.extq f.g f.rd (accOf f.rs1) f.s)
  | 0x021 => checkedWord (accRes f.rs1 && f.rs2 == 0) [] true (.exth f.g f.rd (accOf f.rs1) f.s)
  | 0x022 => checkedWord (!f.s && accRes f.rs1 && f.rs2 == 0) [] true (.axl f.g f.rd (accOf f.rs1))
  | 0x023 => checkedWord (!f.s && accRes f.rs1 && f.rs2 == 0) [] true (.axh f.g f.rd (accOf f.rs1))
  | 0x024 => checkedWord (!f.s && accRes f.rs1 && f.rs2 == 0) [] true (.axg f.g f.rd (accOf f.rs1))
  | 0x025 => checkedWord (accRes f.rs1 && f.rs2 == 0) [f.rd] true (.asat f.g f.rd (accOf f.rs1) f.s)
  | _ => .bad .function

/-- Major 0x03 (R102). MFS and MTS name special registers 0 to 16, and MTS not those marked none (R70, R117). -/
def decode03 (f : Fields) : Decoded :=
  let none3 := !f.s && f.rd == 0 && f.rs1 == 0 && f.rs2 == 0
  let rs1Only := !f.s && f.rd == 0 && f.rs2 == 0
  match f.code with
  | 0x000 => checkedWord (!f.s && f.rs2 == 0) (if f.rs1 = 13 then [f.rd] else []) (f.rs1.val ≤ 16) (.mfs f.g f.rd f.rs1)
  | 0x001 => checkedWord (!f.s && f.rs2 == 0) []
      (f.rd.val ≤ 15 && f.rd != 0 && f.rd != 12 && f.rd != 13 && f.rd != 14) (.mts f.g f.rd f.rs1)
  | 0x008 => form2 f (.wfe f.g f.rd f.rs1)
  | 0x009 => checkedWord rs1Only [] true (.sev f.g f.rs1)
  | 0x00A => checkedWord none3 [] true (.halt f.g)
  | 0x00B => checkedWord none3 [] true (.brk f.g)
  | 0x00C => checkedWord (!f.s && f.rs1 == 0 && f.rs2 == 0) [f.rd] true (.tbr f.g f.rd)
  | 0x010 => checkedWord none3 [] true (.fence f.g)
  | 0x018 => checkedWord none3 [] true (.scall f.g)
  | 0x019 => checkedWord none3 [] true (.sret f.g)
  | 0x01A => checkedWord none3 [] true (.eret f.g)
  | 0x020 => checkedWord rs1Only [] true (.hspill f.g f.rs1)
  | 0x021 => checkedWord rs1Only [] true (.hfill f.g f.rs1)
  | _ => .bad .function

/-- Major 0x04 (R102). -/
def decode04 (f : Fields) : Decoded :=
  match f.code with
  | 0x000 => checkedWord (!f.s && f.rd == 0 && f.rs2 == 0) [] true (.jr f.g f.rs1)
  | 0x001 => checkedWord (!f.s && f.rd == 0 && f.rs2 == 0) [] true (.callr f.g f.rs1)
  | 0x002 => checkedWord (!f.s && f.rd == 0 && f.rs1 == 0 && f.rs2 == 0) [] true (.ret f.g)
  | _ => .bad .function

/-- Major 0x22 (R102). -/
def decode22 (f : Fields) : Decoded :=
  match f.code with
  | 0x000 => form3 f (.amadd f.g f.rd f.rs1 f.rs2)
  | 0x001 => form3 f (.amswap f.g f.rd f.rs1 f.rs2)
  | 0x002 => form3 f (.amcas f.g f.rd f.rs1 f.rs2)
  | _ => .bad .function

/-- Majors 0x38 to 0x3B, the internal unit block (R110). In CHTS fn[9] is E. The operation of PLYGO and SKN and the REL
of BPOP stand in a register; the word decodes to the row of the operation numbered 0. -/
def decodeUnit (m : Nat) (f : Fields) : Decoded :=
  match m, f.code with
  | 0x38, 0x000 => checkedWord (!f.s && f.rd == 0) [] true (.chs f.g f.rs1 f.rs2)
  | 0x38, 0x001 => checkedWord (!f.s && f.rd == 0) [] true (.chse f.g f.rs1 f.rs2)
  | 0x38, 0x002 => form2 f (.chr f.g f.rd f.rs1)
  | 0x38, 0x003 => .ok (.chts f.g f.rd f.rs1 f.rs2 f.s)
  | 0x38, 0x004 => form2 f (.chtr f.g f.rd f.rs1)
  | 0x38, 0x005 => form2 f (.chst f.g f.rd f.rs1)
  | 0x39, 0x000 => checkedWord (!f.s && f.rd == 0) [] true (.bdb f.g f.rs1 f.rs2)
  | 0x39, 0x001 => form2 f (.bpop f.g f.rd f.rs1)
  | 0x39, 0x002 => form2 f (.balloc f.g f.rd f.rs1)
  | 0x39, 0x003 => checkedWord (!f.s && f.rd == 0 && f.rs2 == 0) [] true (.bfree f.g f.rs1)
  | 0x39, 0x004 => form3 f (.bcrd f.g f.rd f.rs1 f.rs2)
  | 0x3A, 0x000 => form3 f (.drgo f.g f.rd f.rs1 f.rs2)
  | 0x3A, 0x001 => form3 f (.plygoPass f.g f.rd f.rs1 f.rs2)
  | 0x3A, 0x002 => form3 f (.sknOpen f.g f.rd f.rs1 f.rs2)
  | 0x3B, 0x000 => checkedWord (!f.s && f.rd == 0 && f.rs2 == 0) [] true (.trf f.g f.rs1)
  | 0x3B, 0x001 => checkedWord (!f.s && f.rd == 0) [] true (.pinw f.g f.rs1 f.rs2)
  | 0x3B, 0x002 => form2 f (.pinr f.g f.rd f.rs1)
  | 0x3B, 0x003 => checkedWord (!f.s && f.rd == 0) [f.rs2] true (.pint f.g f.rs1 f.rs2)
  | _, _ => .bad .function

/-- An immediate shift: imm15[14:5] is reserved (R99). -/
def shiftImm (f : Fields) (i : Fin 32 → Instr) : Decoded :=
  checkedWord (f.imm15.toNat / 32 == 0) [] true (i (Fin.ofNat 32 f.imm15.toNat))

/-- REP (R104): rd reserved; imm15[14] I, [13] R, [12] reserved; the count's register or imm15[11:0], the other
reserved. -/
def decodeRep (f : Fields) : Decoded :=
  let v := f.imm15.toNat
  if bits v 13 13 = 1 then
    checkedWord (f.rd == 0 && bits v 12 0 == 0) [] true (.rep f.g (bits v 14 14 = 1) (some f.rs1) 0)
  else
    checkedWord (f.rd == 0 && f.rs1 == 0 && bits v 12 12 == 0) [] true
      (.rep f.g (bits v 14 14 = 1) none (Fin.ofNat 4096 v))

/-- A long word (R99, R117). `cxpOn` says which of the four coprocessor majors is enabled (R112). -/
def decodeLong (g : ThreadNo) (cxpOn : Fin 4 → Bool) (w : Nat) : Decoded :=
  let f := fieldsOf g w
  let cxp := fun (k : Fin 4) =>
    if cxpOn k then Decoded.ok (.cxp g k f.rd f.rs1 f.rs2 (Fin.ofNat 1024 w)) else .bad .cxpOff
  match bits w 30 25 with
  | 0x00 => decode00 f
  | 0x01 => decode01 f
  | 0x02 => decode02 f
  | 0x03 => decode03 f
  | 0x04 => decode04 f
  | 0x08 => .ok (.addi g f.rd f.rs1 f.imm15)
  | 0x09 => .ok (.addiu g f.rd f.rs1 f.imm15)
  | 0x0A => .ok (.andi g f.rd f.rs1 f.imm15)
  | 0x0B => .ok (.ori g f.rd f.rs1 f.imm15)
  | 0x0C => .ok (.xori g f.rd f.rs1 f.imm15)
  | 0x0D => shiftImm f (.shli g f.rd f.rs1)
  | 0x0E => shiftImm f (.shri g f.rd f.rs1)
  | 0x0F => shiftImm f (.srai g f.rd f.rs1)
  | 0x10 => .ok (.ceqi g f.rd f.rs1 f.imm15)
  | 0x11 => .ok (.cnei g f.rd f.rs1 f.imm15)
  | 0x12 => .ok (.clti g f.rd f.rs1 f.imm15)
  | 0x13 => .ok (.cltui g f.rd f.rs1 f.imm15)
  | 0x14 => .ok (.clei g f.rd f.rs1 f.imm15)
  | 0x15 => .ok (.cleui g f.rd f.rs1 f.imm15)
  | 0x16 => .ok (.li g f.rd f.imm20)
  | 0x17 => .ok (.lui g f.rd f.imm20)
  | 0x18 => .ok (.lb g f.rd f.rs1 f.imm15)
  | 0x19 => .ok (.lbu g f.rd f.rs1 f.imm15)
  | 0x1A => .ok (.lh g f.rd f.rs1 f.imm15)
  | 0x1B => .ok (.lhu g f.rd f.rs1 f.imm15)
  | 0x1C => .ok (.lw g f.rd f.rs1 f.imm15)
  | 0x1D => checkedWord true [f.rd] true (.ld g f.rd f.rs1 f.imm15)
  | 0x1E => .ok (.sb g f.rd f.rs1 f.imm15)
  | 0x1F => .ok (.sh g f.rd f.rs1 f.imm15)
  | 0x20 => .ok (.sw g f.rd f.rs1 f.imm15)
  | 0x21 => checkedWord true [f.rd] true (.sd g f.rd f.rs1 f.imm15)
  | 0x22 => decode22 f
  | 0x23 => checkedWord (accRes f.rd && f.rs1 == 0) [] (-32 ≤ f.imm15.toInt ∧ f.imm15.toInt ≤ 31)
      (.ash g (accOf f.rd) f.imm15)
  | 0x24 => decodeRep f
  | 0x25 => .ok (.bz g f.rd f.imm20)
  | 0x26 => .ok (.bnz g f.rd f.imm20)
  | 0x27 => .ok (.j g f.off25)
  | 0x28 => .ok (.call g f.off25)
  | 0x38 => decodeUnit 0x38 f
  | 0x39 => decodeUnit 0x39 f
  | 0x3A => decodeUnit 0x3A f
  | 0x3B => decodeUnit 0x3B f
  | 0x3C => cxp 0
  | 0x3D => cxp 1
  | 0x3E => cxp 2
  | 0x3F => cxp 3
  | _ => .bad .major

/-- The 15 bits of a short operation (R97). -/
def shortOf (v : Nat) : ShortOp :=
  { op := Fin.ofNat 32 (bits v 14 10), rd := Fin.ofNat 16 (bits v 9 6), rs := Fin.ofNat 16 (bits v 5 2),
    sub := Fin.ofNat 4 (bits v 1 0) }

/-- The reserved fields of a short operation are zero (R106). -/
def ShortOp.resOk (o : ShortOp) : Bool :=
  match o.op.val with
  | 0x00 => o.rd == 0 && o.rs == 0 && o.sub == 0
  | 0x1D => o.rd == 0 && o.rs == 0
  | 0x0C | 0x0D | 0x0E | 0x0F | 0x10 | 0x11 | 0x12 | 0x13 | 0x14 => true
  | 0x17 | 0x18 | 0x19 | 0x1A | 0x1B | 0x1C | 0x1E | 0x1F => true
  | _ => o.sub == 0

/-- The general registers a short operation reads (R106). -/
def ShortOp.reads (o : ShortOp) : List (Fin 16) :=
  match o.op.val with
  | 0x00 | 0x11 | 0x1D => []
  | 0x01 | 0x0C | 0x0D | 0x0E | 0x0F | 0x10 | 0x13 | 0x14 | 0x1E => [o.rs]
  | _ => [o.rd, o.rs]

/-- The general register it writes. -/
def ShortOp.writes (o : ShortOp) : Option (Fin 16) :=
  match o.op.val with
  | 0x00 | 0x17 | 0x18 | 0x19 | 0x1A | 0x1B | 0x1C | 0x1D | 0x1F => none
  | _ => if o.rd = 0 then none else some o.rd

/-- The accumulator it writes; it reads no other. -/
def ShortOp.accW (o : ShortOp) : Option (Fin 4) := if 0x17 ≤ o.op.val ∧ o.op.val ≤ 0x1D then some o.sub else none

/-- LWS or SWS. -/
def ShortOp.isMem (o : ShortOp) : Bool := o.op.val == 0x1E || o.op.val == 0x1F

/-- The pairing rules of R107 between two short operations. -/
def pairRule (a b : ShortOp) : Bool :=
  (match a.writes with
    | none => true
    | some r => !b.reads.contains r && b.writes != some r) &&
  (match a.accW with
    | none => true
    | some x => b.accW != some x) &&
  !(a.isMem && b.isMem)

/-- A pair's checks in the order of R107. -/
def pairCheck (a b : ShortOp) : Option Illegal :=
  if !(a.resOk && b.resOk) then some .reserved
  else if !pairRule a b then some .pairing
  else none

/-- A word (R96). -/
def decodeWord (g : ThreadNo) (cxpOn : Fin 4 → Bool) (w : Nat) : Decoded :=
  if bits w 31 31 = 0 then decodeLong g cxpOn w
  else
    let a := shortOf (bits w 30 16)
    let b := shortOf (bits w 15 1)
    if w % 2 = 1 then .bad .reserved
    else match pairCheck a b with
      | some e => .bad e
      | none => .ok (.pair g a b)

/-! ### The encoder (R97 to R112) -/

/-- The formats of R97. -/
def wL (major rd rs1 rs2 fn : Nat) : Nat := major * 2 ^ 25 + rd * 2 ^ 20 + rs1 * 2 ^ 15 + rs2 * 2 ^ 10 + fn
def wI (major rd rs1 imm : Nat) : Nat := major * 2 ^ 25 + rd * 2 ^ 20 + rs1 * 2 ^ 15 + imm
def wB (major r v : Nat) : Nat := major * 2 ^ 25 + r * 2 ^ 20 + v
def wJ (major off : Nat) : Nat := major * 2 ^ 25 + off
/-- S or E, bit fn[9] (R98). -/
def fn9 (b : Bool) : Nat := if b then 512 else 0
/-- A short operation's 15 bits. -/
def ShortOp.word (o : ShortOp) : Nat := o.op.val * 2 ^ 10 + o.rd.val * 2 ^ 6 + o.rs.val * 4 + o.sub.val
/-- An encoding that needs a condition on its operands. -/
def encIf (c : Bool) (g : ThreadNo) (w : Nat) : Option (ThreadNo × Nat) := if c then some (g, w) else none
/-- A register that may name a pair (R98). -/
def even5 (r : Reg) : Bool := r.val % 2 = 0

/-- The word of an instruction and the thread that issues it; none for a command that is no word of its own, and for operands that
no word encodes. PLYGO, SKN and BPOP encode as the row of the operation numbered 0 (R110). -/
def encodeWord : Instr → Option (ThreadNo × Nat)
  | .add g a b c => some (g, wL 0x0 a b c 0x1)
  | .addu g a b c => some (g, wL 0x0 a b c 0x2)
  | .sub g a b c => some (g, wL 0x0 a b c 0x3)
  | .subu g a b c => some (g, wL 0x0 a b c 0x4)
  | .and g a b c => some (g, wL 0x0 a b c 0x8)
  | .or g a b c => some (g, wL 0x0 a b c 0x9)
  | .xor g a b c => some (g, wL 0x0 a b c 0xa)
  | .shl g a b c => some (g, wL 0x0 a b c 0x10)
  | .shr g a b c => some (g, wL 0x0 a b c 0x11)
  | .sra g a b c => some (g, wL 0x0 a b c 0x12)
  | .ceq g a b c => some (g, wL 0x0 a b c 0x20)
  | .cne g a b c => some (g, wL 0x0 a b c 0x21)
  | .clt g a b c => some (g, wL 0x0 a b c 0x22)
  | .cltu g a b c => some (g, wL 0x0 a b c 0x23)
  | .cle g a b c => some (g, wL 0x0 a b c 0x24)
  | .cleu g a b c => some (g, wL 0x0 a b c 0x25)
  | .mul g a b c => some (g, wL 0x1 a b c 0x0)
  | .mulu g a b c => some (g, wL 0x1 a b c 0x1)
  | .mulh g a b c => some (g, wL 0x1 a b c 0x2)
  | .mulhu g a b c => some (g, wL 0x1 a b c 0x3)
  | .div g a b c => some (g, wL 0x1 a b c 0x10)
  | .divu g a b c => some (g, wL 0x1 a b c 0x11)
  | .rem g a b c => some (g, wL 0x1 a b c 0x12)
  | .amadd g a b c => some (g, wL 0x22 a b c 0x0)
  | .amswap g a b c => some (g, wL 0x22 a b c 0x1)
  | .amcas g a b c => some (g, wL 0x22 a b c 0x2)
  | .bcrd g a b c => some (g, wL 0x39 a b c 0x4)
  | .drgo g a b c => some (g, wL 0x3a a b c 0x0)
  | .plygoPass g a b c => some (g, wL 0x3a a b c 0x1)
  | .sknOpen g a b c => some (g, wL 0x3a a b c 0x2)
  | .neg g a b => some (g, wL 0x0 a b 0 0x5)
  | .sxb g a b => some (g, wL 0x0 a b 0 0x18)
  | .sxh g a b => some (g, wL 0x0 a b 0 0x19)
  | .zxb g a b => some (g, wL 0x0 a b 0 0x1a)
  | .zxh g a b => some (g, wL 0x0 a b 0 0x1b)
  | .wfe g a b => some (g, wL 0x3 a b 0 0x8)
  | .chr g a b => some (g, wL 0x38 a b 0 0x2)
  | .chtr g a b => some (g, wL 0x38 a b 0 0x4)
  | .chst g a b => some (g, wL 0x38 a b 0 0x5)
  | .bpop g a b => some (g, wL 0x39 a b 0 0x1)
  | .balloc g a b => some (g, wL 0x39 a b 0 0x2)
  | .pinr g a b => some (g, wL 0x3b a b 0 0x2)
  | .addi g a b k => some (g, wI 0x8 a b k.toNat)
  | .addiu g a b k => some (g, wI 0x9 a b k.toNat)
  | .andi g a b k => some (g, wI 0xa a b k.toNat)
  | .ori g a b k => some (g, wI 0xb a b k.toNat)
  | .xori g a b k => some (g, wI 0xc a b k.toNat)
  | .ceqi g a b k => some (g, wI 0x10 a b k.toNat)
  | .cnei g a b k => some (g, wI 0x11 a b k.toNat)
  | .clti g a b k => some (g, wI 0x12 a b k.toNat)
  | .cltui g a b k => some (g, wI 0x13 a b k.toNat)
  | .clei g a b k => some (g, wI 0x14 a b k.toNat)
  | .cleui g a b k => some (g, wI 0x15 a b k.toNat)
  | .lb g a b k => some (g, wI 0x18 a b k.toNat)
  | .lbu g a b k => some (g, wI 0x19 a b k.toNat)
  | .lh g a b k => some (g, wI 0x1a a b k.toNat)
  | .lhu g a b k => some (g, wI 0x1b a b k.toNat)
  | .lw g a b k => some (g, wI 0x1c a b k.toNat)
  | .sb g a b k => some (g, wI 0x1e a b k.toNat)
  | .sh g a b k => some (g, wI 0x1f a b k.toNat)
  | .sw g a b k => some (g, wI 0x20 a b k.toNat)
  | .addd g a b c => encIf (even5 a && even5 b && even5 c) g (wL 0 a b c 0x30)
  | .subd g a b c => encIf (even5 a && even5 b && even5 c) g (wL 0 a b c 0x31)
  | .mulw g a b c => encIf (even5 a) g (wL 1 a b c 4)
  | .mulwu g a b c => encIf (even5 a) g (wL 1 a b c 5)
  | .addq g a b c s => some (g, wL 2 a b c (fn9 s + 0))
  | .subq g a b c s => some (g, wL 2 a b c (fn9 s + 1))
  | .mulq g a b c s => some (g, wL 2 a b c (fn9 s + 2))
  | .addp g a b c s => some (g, wL 2 a b c (fn9 s + 4))
  | .subp g a b c s => some (g, wL 2 a b c (fn9 s + 5))
  | .mulp g a b c s => some (g, wL 2 a b c (fn9 s + 6))
  | .aclr g a => some (g, wL 2 a 0 0 0x10)
  | .amov g a b => encIf (even5 b) g (wL 2 a b 0 0x11)
  | .maci g a b c => some (g, wL 2 a b c 0x12)
  | .msui g a b c => some (g, wL 2 a b c 0x13)
  | .macu g a b c => some (g, wL 2 a b c 0x14)
  | .macq g a b c => some (g, wL 2 a b c 0x15)
  | .msuq g a b c => some (g, wL 2 a b c 0x16)
  | .macp g a b c => some (g, wL 2 a b c 0x17)
  | .extq g a b s => some (g, wL 2 a b 0 (fn9 s + 0x20))
  | .exth g a b s => some (g, wL 2 a b 0 (fn9 s + 0x21))
  | .axl g a b => some (g, wL 2 a b 0 0x22)
  | .axh g a b => some (g, wL 2 a b 0 0x23)
  | .axg g a b => some (g, wL 2 a b 0 0x24)
  | .asat g a b s => encIf (even5 a) g (wL 2 a b 0 (fn9 s + 0x25))
  | .ash g a k => encIf (decide (-32 ≤ k.toInt) && decide (k.toInt ≤ 31)) g (wI 0x23 a 0 k.toNat)
  | .mfs g a sr => encIf (decide (sr.val ≤ 16) && (sr.val ≠ 13 || even5 a)) g (wL 3 a sr 0 0)
  | .mts g sr b => encIf (decide (sr.val ≤ 15) && sr.val ≠ 0 && sr.val ≠ 12 && sr.val ≠ 13 && sr.val ≠ 14) g (wL 3 sr b 0 1)
  | .sev g b => some (g, wL 3 0 b 0 9)
  | .halt g => some (g, wL 3 0 0 0 0xA)
  | .brk g => some (g, wL 3 0 0 0 0xB)
  | .tbr g a => encIf (even5 a) g (wL 3 a 0 0 0xC)
  | .fence g => some (g, wL 3 0 0 0 0x10)
  | .scall g => some (g, wL 3 0 0 0 0x18)
  | .sret g => some (g, wL 3 0 0 0 0x19)
  | .eret g => some (g, wL 3 0 0 0 0x1A)
  | .hspill g b => some (g, wL 3 0 b 0 0x20)
  | .hfill g b => some (g, wL 3 0 b 0 0x21)
  | .jr g b => some (g, wL 4 0 b 0 0)
  | .callr g b => some (g, wL 4 0 b 0 1)
  | .ret g => some (g, wL 4 0 0 0 2)
  | .shli g a b k => some (g, wI 0xD a b k)
  | .shri g a b k => some (g, wI 0xE a b k)
  | .srai g a b k => some (g, wI 0xF a b k)
  | .li g a k => some (g, wB 0x16 a k.toNat)
  | .lui g a k => some (g, wB 0x17 a k.toNat)
  | .ld g a b k => encIf (even5 a) g (wI 0x1D a b k.toNat)
  | .sd g a b k => encIf (even5 a) g (wI 0x21 a b k.toNat)
  | .rep g i none k => some (g, wI 0x24 0 0 ((if i then 2 ^ 14 else 0) + k.val))
  | .rep g i (some r) k => encIf (k.val = 0) g (wI 0x24 0 r ((if i then 2 ^ 14 else 0) + 2 ^ 13))
  | .bz g a k => some (g, wB 0x25 a k.toNat)
  | .bnz g a k => some (g, wB 0x26 a k.toNat)
  | .j g k => some (g, wJ 0x27 k.toNat)
  | .call g k => some (g, wJ 0x28 k.toNat)
  | .chs g b c => some (g, wL 0x38 0 b c 0)
  | .chse g b c => some (g, wL 0x38 0 b c 1)
  | .chts g a b c s => some (g, wL 0x38 a b c (fn9 s + 3))
  | .bdb g b c => some (g, wL 0x39 0 b c 0)
  | .bfree g b => some (g, wL 0x39 0 b 0 3)
  | .trf g b => some (g, wL 0x3B 0 b 0 0)
  | .pinw g b c => some (g, wL 0x3B 0 b c 1)
  | .pint g b c => encIf (even5 c) g (wL 0x3B 0 b c 3)
  | .cxp g p a b c k => some (g, wL (0x3C + p.val) a b c k)
  | .pair g a b => if pairCheck a b = none then some (g, 2 ^ 31 + a.word * 2 ^ 16 + b.word * 2) else none
  | _ => none

/-- The command that table bits spell: the opcode table of this hardware gives no row any bits, so no word spells one. -/
def decodeTableWord (_nbits _w : Nat) : Option Instr := none

end Sys2Proof
end

