-- ==== Sys2Proof/Config.lean ====
section
/-! DEFINITION. What the spec leaves to the implementation or to chance, as constants without a body: no proof can see a
value of them, so a statement holds whatever they are. A step that uses one takes it at the state's counter of free
values and advances the counter, so that two uses are never known to be equal. -/

namespace Sys2Proof.Config

/-- An unspecified 32-bit value (R474: general registers at START; R165: contents of a spare row; R21: reset x). -/
opaque freeWord : Nat → BitVec 32

/-- An unspecified accumulator value at START (R474). -/
opaque freeAcc : Nat → BitVec 80

/-- An unspecified byte. -/
opaque freeByte : Nat → BitVec 8

/-- How far into a WCLK cycle an event outside that clock falls, in units of 2^-40 ns (R475). -/
opaque subCycle : Nat → Nat

/-- The time between a superframe's choice or decoding and the crossing of its first bit at the balls, in units of 2^-40 ns (R309). -/
opaque crossing : Nat → Nat

/-- Byte `i` of the SHA-384 digest of a byte string (R383). The spec names the function and does not define its value. -/
opaque sha384Byte : List (BitVec 8) → Nat → BitVec 8

/-- Byte `i` of what a cryptographic primitive returns: operation number, inputs, a number that is fresh at each use of a
random source (0 for a function of its inputs). -/
opaque cryptoByte : Nat → List (BitVec 8) → Nat → Nat → BitVec 8

/-- The verdict of a cryptographic check (a signature, a MAC, an unwrap tag): operation number and inputs. -/
opaque cryptoOk : Nat → List (BitVec 8) → Bool

/-- The number of devices of the system less one (R6: at most 4,096 devices). The spec names a configured size (R173) and gives
it no register. -/
opaque systemLast : Fin 4096

/-- The number of devices of the system (R6, R173, DETAIL 5). -/
def systemDevices : Nat := systemLast.val + 1

/-- Byte `i` of the boot ROM (R435): the spec does not give its contents. -/
opaque romByte : Nat → BitVec 8

/-- Byte `i` of the Shoxon root certificate in the mill ROM (R380): the spec does not give its contents. -/
opaque rootByte : Nat → BitVec 8

/-- The system identifier of the device's endorsement (R380). -/
opaque sysidByte : Nat → BitVec 8

end Sys2Proof.Config
end

