-- ==== Sys2Proof/Machine/Flags.lean ====
section
/-! DEFINITION. The status fields of a thread (st, fx, ecause: R72, R73, R123) and every flag computation of the
integer, Q-format and accumulator instructions (R69, R75, R79, R80). -/

namespace Sys2Proof.Machine

/-- The fields of st (R72). -/
def stFATAL : Bits := ⟨9, 9⟩
def stHU : Bits := ⟨8, 8⟩
def stHT : Bits := ⟨7, 7⟩
def stSAT : Bits := ⟨6, 6⟩
def stOVE : Bits := ⟨5, 5⟩
def stDZE : Bits := ⟨4, 4⟩
def stEX : Bits := ⟨3, 3⟩
def stW : Bits := ⟨2, 2⟩
def stLV : Bits := ⟨1, 1⟩
def stIM : Bits := ⟨0, 0⟩

/-- The fields of fx (R73). -/
def fxAOF : Bits := ⟨5, 5⟩
def fxQS : Bits := ⟨4, 4⟩
def fxSE : Bits := ⟨2, 2⟩
def fxRM : Bits := ⟨1, 0⟩

/-- A one-bit field of a word is 1. -/
def isOn (w : Word) (b : Bits) : Bool := getF w b ≠ 0

/-- st at START, with W from the world map (R72): DZE, LV and IM set. -/
def stStart (z : Bool) : Word := wordOf (0x13 + 4 * b2n z)

/-- fx at START (R73): SE set. -/
def fxStart : Word := 4

/-- ecause as entry writes it (R123). -/
def ecauseWord (code detail : Nat) (async : Bool) : Word :=
  wordOf (detail % 256 * 2 ^ 24 + 128 * b2n async + code % 64)

/-- The signed range of `b` bits holds a value (R75). -/
def inRange (b : Nat) (x : Int) : Bool := decide (-(2 ^ (b - 1) : Nat) ≤ x) && decide (x < (2 ^ (b - 1) : Nat))

/-- sat(x, b) of R75. -/
def satInt (x : Int) (b : Nat) : Int := max (-(2 ^ (b - 1) : Nat)) (min x ((2 ^ (b - 1) : Nat) - 1))

/-- The rounding modes of fx.RM (R73). -/
inductive RMode where
  | rne | rna | rtz | floor
  deriving DecidableEq, Repr

/-- The mode that a two-bit code names. -/
def rmodeOf : Nat → RMode
  | 0 => .rne
  | 1 => .rna
  | 2 => .rtz
  | _ => .floor

/-- round_to of R79. -/
def roundTo (x : Int) (n : Nat) (m : RMode) : Int :=
  if n = 0 then x
  else
    let q : Int := x / (2 ^ n : Nat)
    let r : Int := x % (2 ^ n : Nat)
    let h : Int := (2 ^ (n - 1) : Nat)
    match m with
    | .floor => q
    | .rtz => if x < 0 ∧ r ≠ 0 then q + 1 else q
    | .rna => if r > h ∨ (r = h ∧ x ≥ 0) then q + 1 else q
    | .rne => if r > h ∨ (r = h ∧ q % 2 = 1) then q + 1 else q

/-- The rounding mode in force. -/
def rmOf (fx : Word) : RMode := rmodeOf (getF fx fxRM)

/-- A sticky flag set. -/
def setOn (w : Word) (b : Bits) : Word := setF w b 1

/-- fit of R80: the value as the bits that hold it, and fx after it. -/
def fit (fx : Word) (v : Int) (b : Nat) (s : Bool) : Nat × Word :=
  if s || isOn fx fxSE then
    let o := satInt v b
    (wrapTo b o, if o = v then fx else setOn fx fxQS)
  else (wrapTo b v, fx)

/-- A signed-checked result (R75): none for cause 8, else the bits and fx. -/
def checked (st fx : Word) (b : Nat) (x : Int) : Option (Nat × Word) :=
  if inRange b x then some (wrapTo b x, fx)
  else if isOn st stOVE then none
  else if isOn st stSAT then some (wrapTo b (satInt x b), setOn fx fxQS)
  else some (wrapTo b x, fx)

/-- A sum into an accumulator (R69): modulo 2^80, with AOF when the true sum leaves the range. -/
def accSum (fx : Word) (x : Int) : BitVec 80 × Word :=
  (BitVec.ofNat 80 (wrapTo 80 x), if inRange 80 x then fx else setOn fx fxAOF)

end Sys2Proof.Machine
end

