-- ==== Sys2Proof/Machine/RegTable.lean ====
section
/-! DEFINITION. The register map of control space, transcribed from the register tables of spec/02 to spec/19:
one row per register (its name, its address, its instances, its fields with access code and reset value), the
address of every register, and the bit range of every field. Rules R16 to R21 say what the access codes do. -/

namespace Sys2Proof.Machine

/-- The registers of control space, by the names of the spec's register tables. -/
inductive RegName where
  | whlStatus | whlSlotctl | whlSlotst | whlRound | whlQwatch | whlNote | whlNotectl | whlNotest | whlEsc
  | whlEscctl | whlEscst | whlSlot | whlSlota | whlTctl | whlTstat | whlTpc | whlEvpend | whlDllo | whlDlhi
  | whlTshare | whlTuse | whlTexc | whlChcfg | whlChsts | whlChctl | whlXcfg | whlXsts | whlXctl | whlEvsrc
  | memRgnbase | memRgnlim | memRgnattr | memCpbase | memCplim | memCpattr | memEccst | memCelog | memUelog
  | memUemst | memEccctl | memScrub | memRawaddr | memRawlo | memRawhi | memRawchk | memRawctl | memCremap
  | memLremap | memRemapctl | bobDb | bobBctl | bobStage | bobSetcmd | bobSetst | bobStatus | bobRetire
  | bobRetidx | bobPart | bobPscnt | bobLwlo | bobLwhi | bobLwsz | bobLwq | lgrBase | lgrStatus | lgrVidx
  | lgrAdjset | lgrAdjamt | lgrGstat | lgrOvrset | lgrOvrval | lgrOvrcmd | lgrPattr | lnkCtl | lnkState
  | lnkStatus | lnkCfg | lnkTxnext | lnkTxack | lnkEseq | lnkScnttx | lnkScntrx | lnkRply | lnkCnt
  | lnkCntclr | lnkCrtx | lnkCrrx | lnkCtxbuf | lnkCtxhdr | lnkCtxhdr2 | lnkCtxcmd | lnkCrxst | lnkCrxctl
  | lnkCrxbuf | rteCandlo | rteCandhi | rtePatlo | rtePathi | rteStep | rteId | rteStatus | rteCfg | rteRq
  | rteLrsv | rteRbase | rteStallbob | rteCtxcmd | rtePcfg | rteCnt | rteCntclr | reelCfg | reelPer
  | reelCfgtb | reelCfgcmd | reelCfgst | reelAper | reelEseq | reelEseqa | reelAbase | reelSbase | reelPctl
  | reelPst | reelTq | reelTsnap | drfCtl | drfOwn | drfStatus | drfListlo | drfListhi | drfGo | drfCmd
  | drfFcmd | drfFdet | drfFidx | drfFidx2 | drfFaddr | drfCur | drfDone | drfStgbase | drfStgsz | drfSvcctl
  | drfSvcwlo | drfSvcwhi | drfEvw | drfCnt | drfCntclr | plyCtl | plyOwn | plyStatus | plyDone | plyFdet
  | plyFaddr | plyCmd | plyEvw | plyFence | plyCnt | plyCntclr | plyRba | plyRbb | plyRbsz | plyRbst
  | plyCgctl | plyCgb | plyCgf | plyCgcnt | plyGstat | sknCtl | sknStatus | sknTbctl | sknTbs | sknInc0
  | sknInc1 | sknSlew | sknSlewn | sknStep | sknTcfg | sknTstat | sknTqual | sknTsnew | sknCbase
  | sknSnapbase | sknCnt | sknAsym | sknTsh | sknTsin | sknSchlo | sknSchhi | sknScha | sknCst | tnsMain
  | tnsPend | tnsPrev | tnsShd | tnsCtl | tnsSt | tnsGseq | tnsGrad | tnsSmm | tnsMse | tnsEbits | tnsRsnap
  | tnsClr | tnsAgec | tnsDuet | tnsTxa | tnsTxp | tnsAgectl | tnsRostr | tnsRoref | tnsRobase | sngEcfg
  | sngEpat | sngEprob | sngElim | sngEcnt | sngSeed | sngSkip | sngCtl | sngAudack | sngSt | trdStatus
  | trdSwfire | trdPlat | trdPcfg | trdPworld | trdCworld | trdGctl | trdCcfg | trdCst | trdCack | trdCap
  | trdCapst | trdMat | pinStatus | pinOut | pinSet | pinClr | pinTgl | pinIn | pinConfl | pinIdef | pinBank
  | pinCfg | pinOwn | pinTctl | pinTqst | pinTcap | secStatus | secGrant | secCmddone | secSvn | secBootcnt
  | secSvcb | secOpdb | secOpst | secMbxin | secMbxout | secMbxctl | secMbxrsp | secAudseq | secAudhead
  | secAudctr | secAudbase | secKslot0 | secKslot1 | hapCtl | hapStatus | hapTagq | hapCnt | hapCntclr
  | hapGstat | hapCfg | hapWin | hapMch | hapIaddr | hapIaddrh | hapIdata | hapIctl | hapIarm | hapIfire
  | cxpCfg | cxpCnt | pwrCtl | pwrStatus | pwrWake | pwrWcnt | clkWdiv | clkStatus | rstCause | rstCmd
  | pwrTemp | pwrTalrm | dbgStatus | dbgTsel | dbgCmd | dbgRsel | dbgRdata | dbgMaddr | dbgMdata | dbgTrcctl
  | dbgTrcst | dbgTrc0 | dbgTrc1 | dbgTrc2 | dbgTrc3
  deriving DecidableEq, Repr

/-- The access codes of R16. -/
inductive Access where
  | rw | ro | wo | w1c | w1s | rws | rwi | rwm
  deriving DecidableEq, Repr

/-- How a field of a read-write code behaves (R17). -/
inductive FieldKind where
  | plain | command | setOnly
  deriving DecidableEq, Repr

/-- One field of a register: its bits, its access code, its reset value and its kind. -/
structure Field where
  bits : Bits
  acc  : Access
  rst  : Nat
  kind : FieldKind := .plain
  deriving DecidableEq, Repr

/-- One register of the map: its first address, its instances as (count, stride) pairs, its fields. Bits that no
field lists are reserved. -/
structure RegRow where
  name : RegName
  base : Nat
  dims : List (Nat × Nat)
  flds : List Field
  deriving DecidableEq, Repr

/-- The registers of the WHL block. -/
def rowsWhl : List RegRow := [
  ⟨.whlStatus, 0x40000000, [(40, 0x10000)],
    [⟨⟨3, 3⟩, .ro, 0, .plain⟩, ⟨⟨2, 2⟩, .w1c, 0, .plain⟩, ⟨⟨1, 1⟩, .w1c, 0, .plain⟩, ⟨⟨0, 0⟩, .w1c, 0, .plain⟩]⟩,
  ⟨.whlSlotctl, 0x40000004, [(40, 0x10000)],
    [⟨⟨0, 0⟩, .rws, 0, .plain⟩]⟩,
  ⟨.whlSlotst, 0x40000008, [(40, 0x10000)],
    [⟨⟨16, 16⟩, .ro, 0, .plain⟩, ⟨⟨13, 8⟩, .ro, 0, .plain⟩, ⟨⟨2, 1⟩, .ro, 0, .plain⟩, ⟨⟨0, 0⟩, .w1c, 0, .plain⟩]⟩,
  ⟨.whlRound, 0x4000000C, [(40, 0x10000)],
    [⟨⟨31, 0⟩, .ro, 0, .plain⟩]⟩,
  ⟨.whlQwatch, 0x40270020, [],
    [⟨⟨31, 16⟩, .ro, 0, .plain⟩, ⟨⟨1, 1⟩, .w1c, 0, .plain⟩, ⟨⟨0, 0⟩, .rws, 1, .plain⟩]⟩,
  ⟨.whlNote, 0x40000040, [(40, 0x10000), (4, 0x4)],
    [⟨⟨31, 0⟩, .ro, 0, .plain⟩]⟩,
  ⟨.whlNotectl, 0x40000050, [(40, 0x10000)],
    [⟨⟨0, 0⟩, .wo, 0, .plain⟩]⟩,
  ⟨.whlNotest, 0x40000054, [(40, 0x10000)],
    [⟨⟨31, 24⟩, .ro, 0, .plain⟩, ⟨⟨7, 0⟩, .ro, 0, .plain⟩]⟩,
  ⟨.whlEsc, 0x40270060, [(4, 0x4)],
    [⟨⟨31, 0⟩, .ro, 0, .plain⟩]⟩,
  ⟨.whlEscctl, 0x40270070, [],
    [⟨⟨0, 0⟩, .wo, 0, .plain⟩]⟩,
  ⟨.whlEscst, 0x40270074, [],
    [⟨⟨31, 24⟩, .ro, 0, .plain⟩, ⟨⟨7, 0⟩, .ro, 0, .plain⟩]⟩,
  ⟨.whlSlot, 0x40000100, [(40, 0x10000), (64, 0x4)],
    [⟨⟨7, 7⟩, .rws, 1, .plain⟩, ⟨⟨4, 0⟩, .rws, 0, .plain⟩]⟩,
  ⟨.whlSlota, 0x40000200, [(40, 0x10000), (64, 0x4)],
    [⟨⟨7, 7⟩, .ro, 1, .plain⟩, ⟨⟨4, 0⟩, .ro, 0, .plain⟩]⟩,
  ⟨.whlTctl, 0x40000400, [(40, 0x10000), (32, 0x40)],
    [⟨⟨3, 3⟩, .wo, 0, .plain⟩, ⟨⟨2, 2⟩, .rws, 0, .plain⟩, ⟨⟨1, 1⟩, .wo, 0, .plain⟩, ⟨⟨0, 0⟩, .wo, 0, .plain⟩]⟩,
  ⟨.whlTstat, 0x40000404, [(40, 0x10000), (32, 0x40)],
    [⟨⟨31, 16⟩, .ro, 0, .plain⟩, ⟨⟨10, 8⟩, .ro, 0, .plain⟩, ⟨⟨6, 4⟩, .ro, 0, .plain⟩, ⟨⟨2, 0⟩, .ro, 0, .plain⟩]⟩,
  ⟨.whlTpc, 0x40000408, [(40, 0x10000), (32, 0x40)],
    [⟨⟨31, 2⟩, .rws, 0, .plain⟩]⟩,
  ⟨.whlEvpend, 0x4000040C, [(40, 0x10000), (32, 0x40)],
    [⟨⟨31, 0⟩, .w1c, 0, .plain⟩]⟩,
  ⟨.whlDllo, 0x40000410, [(40, 0x10000), (32, 0x40)],
    [⟨⟨31, 0⟩, .rw, 0xFFFFFFFF, .plain⟩]⟩,
  ⟨.whlDlhi, 0x40000414, [(40, 0x10000), (32, 0x40)],
    [⟨⟨31, 0⟩, .rw, 0xFFFFFFFF, .plain⟩]⟩,
  ⟨.whlTshare, 0x40000418, [(40, 0x10000), (32, 0x40)],
    [⟨⟨27, 16⟩, .rws, 0, .plain⟩, ⟨⟨11, 0⟩, .rws, 0, .plain⟩]⟩,
  ⟨.whlTuse, 0x4000041C, [(40, 0x10000), (32, 0x40)],
    [⟨⟨27, 16⟩, .ro, 0, .plain⟩, ⟨⟨11, 0⟩, .ro, 0, .plain⟩]⟩,
  ⟨.whlTexc, 0x40000420, [(40, 0x10000), (32, 0x40)],
    [⟨⟨2, 2⟩, .rws, 0, .plain⟩, ⟨⟨1, 1⟩, .w1c, 0, .plain⟩, ⟨⟨0, 0⟩, .ro, 0, .plain⟩]⟩,
  ⟨.whlChcfg, 0x40001000, [(40, 0x10000), (64, 0x10)],
    [⟨⟨23, 16⟩, .rws, 0x10, .plain⟩, ⟨⟨10, 6⟩, .rws, 0, .plain⟩, ⟨⟨5, 1⟩, .rws, 0, .plain⟩, ⟨⟨0, 0⟩, .rws, 0, .plain⟩]⟩,
  ⟨.whlChsts, 0x40001004, [(40, 0x10000), (64, 0x10)],
    [⟨⟨7, 7⟩, .ro, 0, .plain⟩, ⟨⟨6, 6⟩, .ro, 0, .plain⟩, ⟨⟨5, 5⟩, .w1c, 0, .plain⟩, ⟨⟨4, 4⟩, .w1c, 0, .plain⟩, ⟨⟨3, 3⟩, .ro, 0, .plain⟩, ⟨⟨2, 0⟩, .ro, 0, .plain⟩]⟩,
  ⟨.whlChctl, 0x40001008, [(40, 0x10000), (64, 0x10)],
    [⟨⟨0, 0⟩, .wo, 0, .plain⟩]⟩,
  ⟨.whlXcfg, 0x40001400, [(40, 0x10000), (16, 0x10)],
    [⟨⟨31, 24⟩, .rws, 0x10, .plain⟩, ⟨⟨16, 13⟩, .rws, 0, .plain⟩, ⟨⟨12, 7⟩, .rws, 0, .plain⟩, ⟨⟨6, 2⟩, .rws, 0, .plain⟩, ⟨⟨1, 1⟩, .rws, 0, .plain⟩, ⟨⟨0, 0⟩, .rws, 0, .plain⟩]⟩,
  ⟨.whlXsts, 0x40001404, [(40, 0x10000), (16, 0x10)],
    [⟨⟨9, 9⟩, .ro, 0, .plain⟩, ⟨⟨8, 8⟩, .ro, 0, .plain⟩, ⟨⟨7, 7⟩, .ro, 0, .plain⟩, ⟨⟨6, 6⟩, .w1c, 0, .plain⟩, ⟨⟨5, 5⟩, .w1c, 0, .plain⟩, ⟨⟨4, 4⟩, .ro, 0, .plain⟩, ⟨⟨3, 0⟩, .ro, 0, .plain⟩]⟩,
  ⟨.whlXctl, 0x40001408, [(40, 0x10000), (16, 0x10)],
    [⟨⟨0, 0⟩, .wo, 0, .plain⟩]⟩,
  ⟨.whlEvsrc, 0x40002000, [(40, 0x10000), (32, 0x80), (32, 0x4)],
    [⟨⟨31, 31⟩, .rws, 0, .plain⟩, ⟨⟨19, 16⟩, .rws, 0, .plain⟩, ⟨⟨15, 0⟩, .rws, 0, .plain⟩]⟩]

/-- The registers of the MEM block. -/
def rowsMem : List RegRow := [
  ⟨.memRgnbase, 0x4E000000, [(216, 0x100), (8, 0x20)],
    [⟨⟨31, 12⟩, .rws, 0, .plain⟩]⟩,
  ⟨.memRgnlim, 0x4E000004, [(216, 0x100), (8, 0x20)],
    [⟨⟨31, 12⟩, .rws, 0, .plain⟩]⟩,
  ⟨.memRgnattr, 0x4E000008, [(216, 0x100), (8, 0x20)],
    [⟨⟨8, 8⟩, .rws, 0, .plain⟩, ⟨⟨6, 6⟩, .rws, 0, .plain⟩, ⟨⟨5, 5⟩, .rws, 0, .plain⟩, ⟨⟨4, 4⟩, .rws, 0, .plain⟩, ⟨⟨3, 3⟩, .rws, 0, .plain⟩, ⟨⟨2, 2⟩, .rws, 0, .plain⟩, ⟨⟨1, 1⟩, .rws, 0, .plain⟩, ⟨⟨0, 0⟩, .rws, 0, .plain⟩]⟩,
  ⟨.memCpbase, 0x4E030000, [(32, 0x10)],
    [⟨⟨31, 16⟩, .rwi, 0, .plain⟩]⟩,
  ⟨.memCplim, 0x4E030004, [(32, 0x10)],
    [⟨⟨31, 16⟩, .rwi, 0, .plain⟩]⟩,
  ⟨.memCpattr, 0x4E030008, [(32, 0x10)],
    [⟨⟨31, 31⟩, .rwi, 0, .plain⟩, ⟨⟨13, 8⟩, .rwi, 0, .plain⟩, ⟨⟨3, 0⟩, .rwi, 0, .plain⟩]⟩,
  ⟨.memEccst, 0x4E010000, [],
    [⟨⟨31, 16⟩, .ro, 0, .plain⟩, ⟨⟨15, 8⟩, .ro, 0, .plain⟩, ⟨⟨4, 4⟩, .w1c, 0, .plain⟩, ⟨⟨3, 3⟩, .w1c, 0, .plain⟩, ⟨⟨2, 2⟩, .w1c, 0, .plain⟩, ⟨⟨1, 1⟩, .w1c, 0, .plain⟩, ⟨⟨0, 0⟩, .w1c, 0, .plain⟩]⟩,
  ⟨.memCelog, 0x4E010004, [],
    [⟨⟨31, 0⟩, .ro, 0, .plain⟩]⟩,
  ⟨.memUelog, 0x4E010008, [],
    [⟨⟨31, 0⟩, .ro, 0, .plain⟩]⟩,
  ⟨.memUemst, 0x4E01000C, [],
    [⟨⟨7, 0⟩, .ro, 0, .plain⟩]⟩,
  ⟨.memEccctl, 0x4E010010, [],
    [⟨⟨0, 0⟩, .wo, 0, .plain⟩]⟩,
  ⟨.memScrub, 0x4E010020, [],
    [⟨⟨31, 2⟩, .wo, 0, .plain⟩]⟩,
  ⟨.memRawaddr, 0x4E010040, [],
    [⟨⟨31, 2⟩, .rws, 0, .plain⟩]⟩,
  ⟨.memRawlo, 0x4E010044, [],
    [⟨⟨31, 0⟩, .rws, 0, .plain⟩]⟩,
  ⟨.memRawhi, 0x4E010048, [],
    [⟨⟨31, 0⟩, .rws, 0, .plain⟩]⟩,
  ⟨.memRawchk, 0x4E01004C, [],
    [⟨⟨7, 0⟩, .rws, 0, .plain⟩]⟩,
  ⟨.memRawctl, 0x4E010050, [],
    [⟨⟨1, 1⟩, .wo, 0, .plain⟩, ⟨⟨0, 0⟩, .wo, 0, .plain⟩]⟩,
  ⟨.memCremap, 0x4E020000, [(64, 0x20), (8, 0x4)],
    [⟨⟨31, 31⟩, .rws, 0, .plain⟩, ⟨⟨30, 30⟩, .ro, 0, .plain⟩, ⟨⟨10, 0⟩, .rws, 0, .plain⟩]⟩,
  ⟨.memLremap, 0x4E021000, [(40, 0x80), (8, 0x10), (4, 0x4)],
    [⟨⟨31, 31⟩, .rws, 0, .plain⟩, ⟨⟨30, 30⟩, .ro, 0, .plain⟩, ⟨⟨6, 0⟩, .rws, 0, .plain⟩]⟩,
  ⟨.memRemapctl, 0x4E023000, [],
    [⟨⟨2, 2⟩, .w1c, 0, .plain⟩, ⟨⟨1, 1⟩, .w1c, 0, .plain⟩, ⟨⟨0, 0⟩, .w1s, 0, .plain⟩]⟩]

/-- The registers of the BOB block. -/
def rowsBob : List RegRow := [
  ⟨.bobDb, 0x41000000, [(65536, 0x4)],
    [⟨⟨31, 31⟩, .wo, 0, .plain⟩, ⟨⟨16, 0⟩, .wo, 0, .plain⟩]⟩,
  ⟨.bobBctl, 0x41040000, [(65536, 0x4)],
    [⟨⟨5, 5⟩, .w1c, 0, .plain⟩, ⟨⟨4, 4⟩, .ro, 0, .plain⟩, ⟨⟨3, 3⟩, .ro, 0, .plain⟩, ⟨⟨2, 1⟩, .ro, 0, .plain⟩, ⟨⟨0, 0⟩, .rws, 0, .plain⟩]⟩,
  ⟨.bobStage, 0x41080000, [(8, 0x4)],
    [⟨⟨31, 0⟩, .rws, 0, .plain⟩]⟩,
  ⟨.bobSetcmd, 0x41080020, [],
    [⟨⟨17, 16⟩, .wo, 0, .plain⟩, ⟨⟨15, 0⟩, .wo, 0, .plain⟩]⟩,
  ⟨.bobSetst, 0x41080024, [],
    [⟨⟨1, 1⟩, .w1c, 0, .plain⟩, ⟨⟨0, 0⟩, .ro, 0, .plain⟩]⟩,
  ⟨.bobStatus, 0x41080028, [],
    [⟨⟨0, 0⟩, .w1c, 0, .plain⟩]⟩,
  ⟨.bobRetire, 0x41080030, [],
    [⟨⟨15, 0⟩, .rws, 0, .plain⟩]⟩,
  ⟨.bobRetidx, 0x41080034, [],
    [⟨⟨31, 0⟩, .wo, 0, .plain⟩]⟩,
  ⟨.bobPart, 0x41080100, [(40, 0x4)],
    [⟨⟨31, 16⟩, .rwi, 0, .plain⟩, ⟨⟨15, 0⟩, .rwi, 0, .plain⟩]⟩,
  ⟨.bobPscnt, 0x41080200, [(40, 0x4)],
    [⟨⟨15, 0⟩, .rwi, 0, .plain⟩]⟩,
  ⟨.bobLwlo, 0x41081000, [(256, 0x10)],
    [⟨⟨31, 8⟩, .rws, 0, .plain⟩]⟩,
  ⟨.bobLwhi, 0x41081004, [(256, 0x10)],
    [⟨⟨31, 31⟩, .rws, 0, .plain⟩, ⟨⟨19, 0⟩, .rws, 0, .plain⟩]⟩,
  ⟨.bobLwsz, 0x41081008, [(256, 0x10)],
    [⟨⟨23, 0⟩, .rws, 0, .plain⟩]⟩,
  ⟨.bobLwq, 0x4108100C, [(256, 0x10)],
    [⟨⟨7, 0⟩, .rws, 0, .plain⟩]⟩]

/-- The registers of the LGR block. -/
def rowsLgr : List RegRow := [
  ⟨.lgrBase, 0x41100000, [],
    [⟨⟨31, 16⟩, .rwi, 0, .plain⟩]⟩,
  ⟨.lgrStatus, 0x41100008, [],
    [⟨⟨31, 16⟩, .ro, 0, .plain⟩, ⟨⟨4, 4⟩, .w1c, 0, .plain⟩, ⟨⟨3, 3⟩, .w1c, 0, .plain⟩, ⟨⟨2, 2⟩, .ro, 0, .plain⟩, ⟨⟨1, 1⟩, .w1c, 0, .plain⟩, ⟨⟨0, 0⟩, .w1c, 0, .plain⟩]⟩,
  ⟨.lgrVidx, 0x4110000C, [],
    [⟨⟨12, 0⟩, .ro, 0, .plain⟩]⟩,
  ⟨.lgrAdjset, 0x41100010, [],
    [⟨⟨12, 0⟩, .rws, 0, .plain⟩]⟩,
  ⟨.lgrAdjamt, 0x41100014, [],
    [⟨⟨31, 0⟩, .wo, 0, .plain⟩]⟩,
  ⟨.lgrGstat, 0x41100020, [],
    [⟨⟨31, 31⟩, .ro, 1, .plain⟩, ⟨⟨4, 4⟩, .rws, 0, .setOnly⟩, ⟨⟨3, 3⟩, .rws, 0, .setOnly⟩, ⟨⟨2, 2⟩, .ro, 0, .plain⟩, ⟨⟨1, 1⟩, .ro, 0, .plain⟩]⟩,
  ⟨.lgrOvrset, 0x41100030, [],
    [⟨⟨12, 0⟩, .rwm, 0, .plain⟩]⟩,
  ⟨.lgrOvrval, 0x41100034, [(4, 0x4)],
    [⟨⟨31, 0⟩, .rwm, 0, .plain⟩]⟩,
  ⟨.lgrOvrcmd, 0x41100044, [],
    [⟨⟨0, 0⟩, .rwm, 0, .command⟩]⟩,
  ⟨.lgrPattr, 0x41110000, [(4096, 0x4)],
    [⟨⟨1, 1⟩, .rws, 0, .plain⟩, ⟨⟨0, 0⟩, .rws, 0, .plain⟩]⟩]

/-- The registers of the LNK block. -/
def rowsLnk : List RegRow := [
  ⟨.lnkCtl, 0x42000000, [(144, 0x10000)],
    [⟨⟨7, 7⟩, .rws, 0, .plain⟩, ⟨⟨6, 6⟩, .rws, 1, .plain⟩, ⟨⟨5, 5⟩, .rws, 0, .plain⟩, ⟨⟨4, 4⟩, .ro, 0, .plain⟩, ⟨⟨3, 3⟩, .ro, 0, .plain⟩, ⟨⟨2, 1⟩, .ro, 0, .plain⟩, ⟨⟨0, 0⟩, .rws, 0, .plain⟩]⟩,
  ⟨.lnkState, 0x42000004, [(144, 0x10000)],
    [⟨⟨27, 16⟩, .ro, 0, .plain⟩, ⟨⟨15, 15⟩, .ro, 0, .plain⟩, ⟨⟨11, 11⟩, .ro, 0, .plain⟩, ⟨⟨10, 10⟩, .ro, 0, .plain⟩, ⟨⟨9, 9⟩, .ro, 0, .plain⟩, ⟨⟨8, 8⟩, .ro, 0, .plain⟩, ⟨⟨7, 6⟩, .ro, 0, .plain⟩, ⟨⟨5, 4⟩, .ro, 0, .plain⟩, ⟨⟨3, 3⟩, .ro, 0, .plain⟩, ⟨⟨2, 0⟩, .ro, 0, .plain⟩]⟩,
  ⟨.lnkStatus, 0x42000008, [(144, 0x10000)],
    [⟨⟨10, 10⟩, .w1c, 0, .plain⟩, ⟨⟨9, 9⟩, .w1c, 0, .plain⟩, ⟨⟨8, 8⟩, .w1c, 0, .plain⟩, ⟨⟨7, 7⟩, .w1c, 0, .plain⟩, ⟨⟨6, 6⟩, .w1c, 0, .plain⟩, ⟨⟨5, 5⟩, .w1c, 0, .plain⟩, ⟨⟨4, 4⟩, .w1c, 0, .plain⟩, ⟨⟨3, 3⟩, .w1c, 0, .plain⟩, ⟨⟨2, 2⟩, .w1c, 0, .plain⟩, ⟨⟨1, 1⟩, .w1c, 0, .plain⟩, ⟨⟨0, 0⟩, .w1c, 0, .plain⟩]⟩,
  ⟨.lnkCfg, 0x4200000C, [(144, 0x10000)],
    [⟨⟨31, 24⟩, .rws, 0x64, .plain⟩, ⟨⟨23, 20⟩, .rws, 8, .plain⟩, ⟨⟨19, 12⟩, .rws, 0x20, .plain⟩, ⟨⟨11, 8⟩, .rws, 2, .plain⟩, ⟨⟨7, 0⟩, .rws, 0x10, .plain⟩]⟩,
  ⟨.lnkTxnext, 0x42000010, [(144, 0x10000)],
    [⟨⟨19, 0⟩, .ro, 0, .plain⟩]⟩,
  ⟨.lnkTxack, 0x42000014, [(144, 0x10000)],
    [⟨⟨19, 0⟩, .ro, 0, .plain⟩]⟩,
  ⟨.lnkEseq, 0x42000018, [(144, 0x10000)],
    [⟨⟨19, 0⟩, .ro, 0, .plain⟩]⟩,
  ⟨.lnkScnttx, 0x4200001C, [(144, 0x10000)],
    [⟨⟨31, 0⟩, .ro, 0, .plain⟩]⟩,
  ⟨.lnkScntrx, 0x42000020, [(144, 0x10000)],
    [⟨⟨31, 0⟩, .ro, 0, .plain⟩]⟩,
  ⟨.lnkRply, 0x42000024, [(144, 0x10000)],
    [⟨⟨9, 0⟩, .ro, 0, .plain⟩]⟩,
  ⟨.lnkCnt, 0x42000100, [(144, 0x10000), (9, 0x4)],
    [⟨⟨31, 0⟩, .ro, 0, .plain⟩]⟩,
  ⟨.lnkCntclr, 0x42000140, [(144, 0x10000)],
    [⟨⟨0, 0⟩, .wo, 0, .plain⟩]⟩,
  ⟨.lnkCrtx, 0x42000160, [(144, 0x10000), (7, 0x4)],
    [⟨⟨23, 0⟩, .ro, 0, .plain⟩]⟩,
  ⟨.lnkCrrx, 0x42000180, [(144, 0x10000), (7, 0x4)],
    [⟨⟨23, 0⟩, .ro, 0, .plain⟩]⟩,
  ⟨.lnkCtxbuf, 0x42000400, [(144, 0x10000), (64, 0x4)],
    [⟨⟨31, 0⟩, .rws, 0, .plain⟩]⟩,
  ⟨.lnkCtxhdr, 0x42000500, [(144, 0x10000)],
    [⟨⟨31, 16⟩, .rws, 0, .plain⟩, ⟨⟨15, 9⟩, .rws, 0, .plain⟩, ⟨⟨8, 8⟩, .rws, 0, .plain⟩, ⟨⟨7, 0⟩, .rws, 0, .plain⟩]⟩,
  ⟨.lnkCtxhdr2, 0x42000504, [(144, 0x10000)],
    [⟨⟨6, 0⟩, .rws, 0, .plain⟩]⟩,
  ⟨.lnkCtxcmd, 0x42000508, [(144, 0x10000)],
    [⟨⟨1, 1⟩, .ro, 0, .plain⟩, ⟨⟨0, 0⟩, .wo, 0, .plain⟩]⟩,
  ⟨.lnkCrxst, 0x42000510, [(144, 0x10000)],
    [⟨⟨11, 8⟩, .ro, 0, .plain⟩, ⟨⟨4, 0⟩, .ro, 0, .plain⟩]⟩,
  ⟨.lnkCrxctl, 0x42000514, [(144, 0x10000)],
    [⟨⟨0, 0⟩, .wo, 0, .plain⟩]⟩,
  ⟨.lnkCrxbuf, 0x42001000, [(144, 0x10000), (16, 0x200), (68, 0x4)],
    [⟨⟨31, 0⟩, .ro, 0, .plain⟩]⟩]

/-- The registers of the RTE block. -/
def rowsRte : List RegRow := [
  ⟨.rteCandlo, 0x43000000, [(4096, 0x10)],
    [⟨⟨31, 0⟩, .rws, 0xFFFFFFFF, .plain⟩]⟩,
  ⟨.rteCandhi, 0x43000004, [(4096, 0x10)],
    [⟨⟨31, 0⟩, .rws, 0xFFFFFFFF, .plain⟩]⟩,
  ⟨.rtePatlo, 0x43000008, [(4096, 0x10)],
    [⟨⟨29, 0⟩, .rws, 0, .plain⟩]⟩,
  ⟨.rtePathi, 0x4300000C, [(4096, 0x10)],
    [⟨⟨31, 31⟩, .rws, 0, .plain⟩, ⟨⟨23, 20⟩, .rws, 0xF, .plain⟩, ⟨⟨17, 0⟩, .rws, 0, .plain⟩]⟩,
  ⟨.rteStep, 0x43010000, [(4096, 0x4)],
    [⟨⟨3, 0⟩, .ro, 0, .plain⟩]⟩,
  ⟨.rteId, 0x43020000, [],
    [⟨⟨31, 31⟩, .ro, 0, .plain⟩, ⟨⟨11, 0⟩, .rwi, 0, .plain⟩]⟩,
  ⟨.rteStatus, 0x43020004, [],
    [⟨⟨7, 7⟩, .w1c, 0, .plain⟩, ⟨⟨6, 6⟩, .w1c, 0, .plain⟩, ⟨⟨5, 5⟩, .w1c, 0, .plain⟩, ⟨⟨4, 4⟩, .w1c, 0, .plain⟩, ⟨⟨3, 3⟩, .w1c, 0, .plain⟩, ⟨⟨2, 2⟩, .w1c, 0, .plain⟩, ⟨⟨1, 1⟩, .w1c, 0, .plain⟩, ⟨⟨0, 0⟩, .w1c, 0, .plain⟩]⟩,
  ⟨.rteCfg, 0x43020008, [],
    [⟨⟨31, 24⟩, .rws, 0x32, .plain⟩, ⟨⟨23, 16⟩, .rws, 0x10, .plain⟩, ⟨⟨15, 12⟩, .rws, 8, .plain⟩, ⟨⟨10, 8⟩, .rws, 4, .plain⟩, ⟨⟨6, 0⟩, .rws, 0x1F, .plain⟩]⟩,
  ⟨.rteRq, 0x4302000C, [],
    [⟨⟨7, 0⟩, .rwi, 0, .plain⟩]⟩,
  ⟨.rteLrsv, 0x43020010, [],
    [⟨⟨27, 0⟩, .rws, 0x2222222, .plain⟩]⟩,
  ⟨.rteRbase, 0x43020014, [],
    [⟨⟨31, 16⟩, .rwi, 0, .plain⟩]⟩,
  ⟨.rteStallbob, 0x43020100, [(36, 0x4)],
    [⟨⟨31, 31⟩, .rws, 0, .plain⟩, ⟨⟨15, 0⟩, .rws, 0, .plain⟩]⟩,
  ⟨.rteCtxcmd, 0x43020200, [],
    [⟨⟨31, 30⟩, .wo, 0, .plain⟩, ⟨⟨13, 0⟩, .wo, 0, .plain⟩]⟩,
  ⟨.rtePcfg, 0x43021000, [(144, 0x4)],
    [⟨⟨31, 30⟩, .rwi, 0, .plain⟩, ⟨⟨7, 0⟩, .rwi, 0, .plain⟩]⟩,
  ⟨.rteCnt, 0x43022000, [(13, 0x4)],
    [⟨⟨31, 0⟩, .ro, 0, .plain⟩]⟩,
  ⟨.rteCntclr, 0x43022040, [],
    [⟨⟨0, 0⟩, .wo, 0, .plain⟩]⟩]

/-- The registers of the REEL block. -/
def rowsReel : List RegRow := [
  ⟨.reelCfg, 0x43800000, [],
    [⟨⟨11, 0⟩, .rws, 0xFF, .plain⟩]⟩,
  ⟨.reelPer, 0x43800004, [],
    [⟨⟨19, 0⟩, .rws, 0x1597, .plain⟩]⟩,
  ⟨.reelCfgtb, 0x43800008, [(2, 0x4)],
    [⟨⟨31, 0⟩, .rws, 0, .plain⟩]⟩,
  ⟨.reelCfgcmd, 0x43800010, [],
    [⟨⟨0, 0⟩, .wo, 0, .plain⟩]⟩,
  ⟨.reelCfgst, 0x43800014, [],
    [⟨⟨27, 16⟩, .ro, 0xFF, .plain⟩, ⟨⟨1, 1⟩, .ro, 0, .plain⟩, ⟨⟨0, 0⟩, .w1c, 0, .plain⟩]⟩,
  ⟨.reelAper, 0x43800018, [],
    [⟨⟨19, 0⟩, .ro, 0x1597, .plain⟩]⟩,
  ⟨.reelEseq, 0x43810000, [(144, 0x400), (64, 0x4)],
    [⟨⟨3, 3⟩, .rws, 0, .plain⟩, ⟨⟨2, 0⟩, .rws, 0, .plain⟩]⟩,
  ⟨.reelEseqa, 0x43810100, [(144, 0x400), (64, 0x4)],
    [⟨⟨3, 3⟩, .ro, 0, .plain⟩, ⟨⟨2, 0⟩, .ro, 0, .plain⟩]⟩,
  ⟨.reelAbase, 0x43810200, [(144, 0x400)],
    [⟨⟨31, 6⟩, .ro, 0, .plain⟩]⟩,
  ⟨.reelSbase, 0x43810204, [(144, 0x400)],
    [⟨⟨31, 6⟩, .rws, 0, .plain⟩]⟩,
  ⟨.reelPctl, 0x43810208, [(144, 0x400)],
    [⟨⟨2, 2⟩, .rws, 0, .plain⟩, ⟨⟨1, 1⟩, .rws, 0, .plain⟩, ⟨⟨0, 0⟩, .w1s, 0, .plain⟩]⟩,
  ⟨.reelPst, 0x4381020C, [(144, 0x400)],
    [⟨⟨27, 16⟩, .ro, 0, .plain⟩, ⟨⟨3, 3⟩, .ro, 0, .plain⟩, ⟨⟨2, 2⟩, .ro, 0, .plain⟩, ⟨⟨1, 1⟩, .w1c, 0, .plain⟩]⟩,
  ⟨.reelTq, 0x43810300, [(144, 0x400), (7, 0x4)],
    [⟨⟨15, 0⟩, .ro, 0, .plain⟩]⟩,
  ⟨.reelTsnap, 0x43810320, [(144, 0x400), (5, 0x4)],
    [⟨⟨31, 0⟩, .ro, 0, .plain⟩]⟩]

/-- The registers of the DRF block. -/
def rowsDrf : List RegRow := [
  ⟨.drfCtl, 0x44000000, [(8, 0x1000)],
    [⟨⟨4, 4⟩, .ro, 0, .plain⟩, ⟨⟨3, 3⟩, .ro, 0, .plain⟩, ⟨⟨2, 1⟩, .ro, 0, .plain⟩, ⟨⟨0, 0⟩, .rws, 0, .plain⟩]⟩,
  ⟨.drfOwn, 0x44000004, [(8, 0x1000)],
    [⟨⟨2, 2⟩, .rwi, 0, .plain⟩, ⟨⟨1, 0⟩, .rwi, 1, .plain⟩]⟩,
  ⟨.drfStatus, 0x44000008, [(8, 0x1000)],
    [⟨⟨15, 12⟩, .ro, 0, .plain⟩, ⟨⟨11, 11⟩, .ro, 0, .plain⟩, ⟨⟨10, 8⟩, .ro, 0, .plain⟩, ⟨⟨1, 1⟩, .w1c, 0, .plain⟩, ⟨⟨0, 0⟩, .w1c, 0, .plain⟩]⟩,
  ⟨.drfListlo, 0x44000010, [(8, 0x1000)],
    [⟨⟨31, 6⟩, .rw, 0, .plain⟩]⟩,
  ⟨.drfListhi, 0x44000014, [(8, 0x1000)],
    [⟨⟨20, 20⟩, .rw, 0, .plain⟩, ⟨⟨19, 0⟩, .rw, 0, .plain⟩]⟩,
  ⟨.drfGo, 0x44000018, [(8, 0x1000)],
    [⟨⟨0, 0⟩, .wo, 0, .plain⟩]⟩,
  ⟨.drfCmd, 0x4400001C, [(8, 0x1000)],
    [⟨⟨3, 3⟩, .wo, 0, .plain⟩, ⟨⟨2, 2⟩, .wo, 0, .plain⟩, ⟨⟨1, 1⟩, .wo, 0, .plain⟩, ⟨⟨0, 0⟩, .wo, 0, .plain⟩]⟩,
  ⟨.drfFcmd, 0x44000020, [(8, 0x1000), (2, 0x4)],
    [⟨⟨31, 0⟩, .ro, 0, .plain⟩]⟩,
  ⟨.drfFdet, 0x44000028, [(8, 0x1000)],
    [⟨⟨7, 0⟩, .ro, 0, .plain⟩]⟩,
  ⟨.drfFidx, 0x4400002C, [(8, 0x1000)],
    [⟨⟨31, 16⟩, .ro, 0, .plain⟩, ⟨⟨15, 0⟩, .ro, 0, .plain⟩]⟩,
  ⟨.drfFidx2, 0x44000030, [(8, 0x1000)],
    [⟨⟨15, 0⟩, .ro, 0, .plain⟩]⟩,
  ⟨.drfFaddr, 0x44000034, [(8, 0x1000), (2, 0x4)],
    [⟨⟨31, 0⟩, .ro, 0, .plain⟩]⟩,
  ⟨.drfCur, 0x44000040, [(8, 0x1000), (2, 0x4)],
    [⟨⟨31, 0⟩, .ro, 0, .plain⟩]⟩,
  ⟨.drfDone, 0x44000048, [(8, 0x1000), (2, 0x4)],
    [⟨⟨31, 0⟩, .ro, 0, .plain⟩]⟩,
  ⟨.drfStgbase, 0x44000050, [(8, 0x1000)],
    [⟨⟨31, 12⟩, .rws, 0, .plain⟩]⟩,
  ⟨.drfStgsz, 0x44000054, [(8, 0x1000)],
    [⟨⟨8, 0⟩, .rws, 0, .plain⟩]⟩,
  ⟨.drfSvcctl, 0x44000060, [(8, 0x1000)],
    [⟨⟨31, 31⟩, .rws, 0, .plain⟩, ⟨⟨30, 16⟩, .rws, 0, .plain⟩, ⟨⟨15, 0⟩, .rws, 0, .plain⟩]⟩,
  ⟨.drfSvcwlo, 0x44000064, [(8, 0x1000)],
    [⟨⟨31, 12⟩, .rws, 0, .plain⟩]⟩,
  ⟨.drfSvcwhi, 0x44000068, [(8, 0x1000)],
    [⟨⟨31, 12⟩, .rws, 0, .plain⟩]⟩,
  ⟨.drfEvw, 0x44000070, [(8, 0x1000)],
    [⟨⟨5, 0⟩, .rws, 0x27, .plain⟩]⟩,
  ⟨.drfCnt, 0x44000080, [(8, 0x1000), (6, 0x4)],
    [⟨⟨31, 0⟩, .ro, 0, .plain⟩]⟩,
  ⟨.drfCntclr, 0x440000A0, [(8, 0x1000)],
    [⟨⟨0, 0⟩, .wo, 0, .plain⟩]⟩]

/-- The registers of the PLY block. -/
def rowsPly : List RegRow := [
  ⟨.plyCtl, 0x45000000, [(16, 0x1000)],
    [⟨⟨4, 4⟩, .ro, 0, .plain⟩, ⟨⟨3, 3⟩, .ro, 0, .plain⟩, ⟨⟨2, 1⟩, .ro, 0, .plain⟩, ⟨⟨0, 0⟩, .rws, 0, .plain⟩]⟩,
  ⟨.plyOwn, 0x45000004, [(16, 0x1000)],
    [⟨⟨2, 2⟩, .rws, 0, .plain⟩, ⟨⟨1, 0⟩, .rwi, 1, .plain⟩]⟩,
  ⟨.plyStatus, 0x45000008, [(16, 0x1000)],
    [⟨⟨31, 28⟩, .ro, 0, .plain⟩, ⟨⟨19, 18⟩, .ro, 0, .plain⟩, ⟨⟨17, 16⟩, .ro, 0, .plain⟩, ⟨⟨7, 7⟩, .w1c, 0, .plain⟩, ⟨⟨6, 6⟩, .w1c, 0, .plain⟩, ⟨⟨5, 5⟩, .w1c, 0, .plain⟩, ⟨⟨4, 4⟩, .w1c, 0, .plain⟩, ⟨⟨3, 3⟩, .w1c, 0, .plain⟩, ⟨⟨2, 2⟩, .w1c, 0, .plain⟩, ⟨⟨0, 0⟩, .w1c, 0, .plain⟩]⟩,
  ⟨.plyDone, 0x45000010, [(16, 0x1000)],
    [⟨⟨31, 0⟩, .ro, 0, .plain⟩]⟩,
  ⟨.plyFdet, 0x45000014, [(16, 0x1000)],
    [⟨⟨7, 0⟩, .ro, 0, .plain⟩]⟩,
  ⟨.plyFaddr, 0x45000018, [(16, 0x1000)],
    [⟨⟨31, 0⟩, .ro, 0, .plain⟩]⟩,
  ⟨.plyCmd, 0x4500001C, [(16, 0x1000)],
    [⟨⟨1, 1⟩, .wo, 0, .plain⟩, ⟨⟨0, 0⟩, .wo, 0, .plain⟩]⟩,
  ⟨.plyEvw, 0x45000020, [(16, 0x1000)],
    [⟨⟨5, 0⟩, .rws, 0x26, .plain⟩]⟩,
  ⟨.plyFence, 0x45000100, [(16, 0x1000), (64, 0x4)],
    [⟨⟨31, 24⟩, .ro, 0, .plain⟩, ⟨⟨23, 16⟩, .ro, 0, .plain⟩, ⟨⟨15, 0⟩, .ro, 0, .plain⟩]⟩,
  ⟨.plyCnt, 0x45000200, [(16, 0x1000), (5, 0x4)],
    [⟨⟨31, 0⟩, .ro, 0, .plain⟩]⟩,
  ⟨.plyCntclr, 0x45000220, [(16, 0x1000)],
    [⟨⟨0, 0⟩, .wo, 0, .plain⟩]⟩,
  ⟨.plyRba, 0x45010000, [(64, 0x10)],
    [⟨⟨31, 6⟩, .rws, 0, .plain⟩]⟩,
  ⟨.plyRbb, 0x45010004, [(64, 0x10)],
    [⟨⟨31, 6⟩, .rws, 0, .plain⟩]⟩,
  ⟨.plyRbsz, 0x45010008, [(64, 0x10)],
    [⟨⟨31, 31⟩, .rwi, 0, .plain⟩, ⟨⟨20, 0⟩, .rws, 0, .plain⟩]⟩,
  ⟨.plyRbst, 0x4501000C, [(64, 0x10)],
    [⟨⟨17, 17⟩, .ro, 0, .plain⟩, ⟨⟨16, 16⟩, .ro, 0, .plain⟩, ⟨⟨15, 0⟩, .ro, 0, .plain⟩]⟩,
  ⟨.plyCgctl, 0x45011000, [(32, 0x40)],
    [⟨⟨31, 31⟩, .rwi, 0, .plain⟩, ⟨⟨30, 30⟩, .w1c, 0, .plain⟩, ⟨⟨29, 29⟩, .rw, 0, .plain⟩, ⟨⟨28, 28⟩, .rw, 0, .plain⟩, ⟨⟨27, 27⟩, .ro, 0, .plain⟩, ⟨⟨21, 16⟩, .rw, 0x26, .plain⟩, ⟨⟨15, 0⟩, .rw, 0, .plain⟩]⟩,
  ⟨.plyCgb, 0x45011004, [(32, 0x40), (2, 0x4)],
    [⟨⟨31, 31⟩, .rw, 0, .plain⟩, ⟨⟨29, 24⟩, .rw, 0, .plain⟩, ⟨⟨23, 23⟩, .rw, 0, .plain⟩, ⟨⟨21, 16⟩, .rw, 0, .plain⟩, ⟨⟨15, 15⟩, .rw, 0, .plain⟩, ⟨⟨13, 8⟩, .rw, 0, .plain⟩, ⟨⟨7, 7⟩, .rw, 0, .plain⟩, ⟨⟨5, 0⟩, .rw, 0, .plain⟩]⟩,
  ⟨.plyCgf, 0x45011010, [(32, 0x40), (8, 0x4)],
    [⟨⟨31, 31⟩, .rw, 0, .plain⟩, ⟨⟨27, 24⟩, .rw, 0, .plain⟩, ⟨⟨23, 16⟩, .rw, 0, .plain⟩, ⟨⟨15, 0⟩, .rw, 0, .plain⟩]⟩,
  ⟨.plyCgcnt, 0x45011030, [(32, 0x40)],
    [⟨⟨31, 0⟩, .ro, 0, .plain⟩]⟩,
  ⟨.plyGstat, 0x45012000, [],
    [⟨⟨0, 0⟩, .w1c, 0, .plain⟩]⟩]

/-- The registers of the SKN block. -/
def rowsSkn : List RegRow := [
  ⟨.sknCtl, 0x46000000, [],
    [⟨⟨4, 4⟩, .ro, 0, .plain⟩, ⟨⟨3, 3⟩, .ro, 0, .plain⟩, ⟨⟨2, 1⟩, .ro, 0, .plain⟩, ⟨⟨0, 0⟩, .rws, 0, .plain⟩]⟩,
  ⟨.sknStatus, 0x46000004, [],
    [⟨⟨31, 28⟩, .ro, 0, .plain⟩, ⟨⟨3, 3⟩, .w1c, 0, .plain⟩, ⟨⟨2, 2⟩, .w1c, 0, .plain⟩, ⟨⟨1, 1⟩, .w1c, 0, .plain⟩, ⟨⟨0, 0⟩, .w1c, 0, .plain⟩]⟩,
  ⟨.sknTbctl, 0x46000008, [],
    [⟨⟨1, 1⟩, .wo, 0, .plain⟩, ⟨⟨0, 0⟩, .wo, 0, .plain⟩]⟩,
  ⟨.sknTbs, 0x46000010, [(3, 0x4)],
    [⟨⟨31, 0⟩, .ro, 0, .plain⟩]⟩,
  ⟨.sknInc0, 0x46000020, [],
    [⟨⟨31, 0⟩, .rws, 0x66666666, .plain⟩]⟩,
  ⟨.sknInc1, 0x46000024, [],
    [⟨⟨11, 0⟩, .rws, 0x666, .plain⟩]⟩,
  ⟨.sknSlew, 0x46000028, [],
    [⟨⟨31, 0⟩, .rws, 0, .plain⟩]⟩,
  ⟨.sknSlewn, 0x4600002C, [],
    [⟨⟨23, 0⟩, .rws, 0, .plain⟩]⟩,
  ⟨.sknStep, 0x46000030, [(3, 0x4)],
    [⟨⟨31, 0⟩, .rws, 0, .plain⟩]⟩,
  ⟨.sknTcfg, 0x46000040, [],
    [⟨⟨31, 31⟩, .rwi, 0, .plain⟩, ⟨⟨15, 8⟩, .rws, 4, .plain⟩, ⟨⟨0, 0⟩, .rws, 0, .plain⟩]⟩,
  ⟨.sknTstat, 0x46000044, [],
    [⟨⟨31, 24⟩, .rws, 0xFF, .plain⟩, ⟨⟨19, 8⟩, .rws, 0, .plain⟩, ⟨⟨6, 4⟩, .rws, 7, .plain⟩, ⟨⟨2, 2⟩, .rws, 0, .plain⟩, ⟨⟨0, 0⟩, .rws, 0, .plain⟩]⟩,
  ⟨.sknTqual, 0x46000048, [],
    [⟨⟨15, 0⟩, .rws, 0, .plain⟩]⟩,
  ⟨.sknTsnew, 0x46000050, [(5, 0x4)],
    [⟨⟨31, 0⟩, .w1c, 0, .plain⟩]⟩,
  ⟨.sknCbase, 0x46000068, [],
    [⟨⟨31, 16⟩, .rwi, 0, .plain⟩]⟩,
  ⟨.sknSnapbase, 0x4600006C, [],
    [⟨⟨31, 16⟩, .rwi, 0, .plain⟩]⟩,
  ⟨.sknCnt, 0x46000080, [(4, 0x4)],
    [⟨⟨31, 0⟩, .ro, 0, .plain⟩]⟩,
  ⟨.sknAsym, 0x46001000, [(144, 0x4)],
    [⟨⟨31, 0⟩, .rwi, 0, .plain⟩]⟩,
  ⟨.sknTsh, 0x46010000, [(144, 0x100), (16, 0x10), (4, 0x4)],
    [⟨⟨31, 0⟩, .ro, 0, .plain⟩]⟩,
  ⟨.sknTsin, 0x46020000, [(144, 0x20), (8, 0x4)],
    [⟨⟨31, 0⟩, .ro, 0, .plain⟩]⟩,
  ⟨.sknSchlo, 0x46030000, [(32, 0x10)],
    [⟨⟨31, 0⟩, .rws, 0, .plain⟩]⟩,
  ⟨.sknSchhi, 0x46030004, [(32, 0x10)],
    [⟨⟨31, 0⟩, .rws, 0, .plain⟩]⟩,
  ⟨.sknScha, 0x46030008, [(32, 0x10)],
    [⟨⟨31, 31⟩, .rws, 0, .plain⟩, ⟨⟨30, 30⟩, .w1c, 0, .plain⟩, ⟨⟨27, 24⟩, .rws, 0, .plain⟩, ⟨⟨15, 0⟩, .rws, 0, .plain⟩]⟩,
  ⟨.sknCst, 0x46040000, [(256, 0x4)],
    [⟨⟨31, 28⟩, .ro, 0, .plain⟩, ⟨⟨16, 16⟩, .ro, 0, .plain⟩, ⟨⟨15, 0⟩, .ro, 0, .plain⟩]⟩]

/-- The registers of the TNS block. -/
def rowsTns : List RegRow := [
  ⟨.tnsMain, 0x47000000, [(144, 0x1000), (8, 0x4)],
    [⟨⟨31, 0⟩, .ro, 0, .plain⟩]⟩,
  ⟨.tnsPend, 0x47000020, [(144, 0x1000), (8, 0x4)],
    [⟨⟨31, 0⟩, .rws, 0, .plain⟩]⟩,
  ⟨.tnsPrev, 0x47000040, [(144, 0x1000), (8, 0x4)],
    [⟨⟨31, 0⟩, .ro, 0, .plain⟩]⟩,
  ⟨.tnsShd, 0x47000060, [(144, 0x1000), (8, 0x4)],
    [⟨⟨31, 0⟩, .rws, 0, .plain⟩]⟩,
  ⟨.tnsCtl, 0x47000080, [(144, 0x1000)],
    [⟨⟨31, 16⟩, .rws, 0x70, .plain⟩, ⟨⟨15, 12⟩, .rws, 6, .plain⟩, ⟨⟨11, 8⟩, .rws, 0xC, .plain⟩, ⟨⟨6, 4⟩, .rws, 3, .plain⟩, ⟨⟨3, 3⟩, .w1s, 0, .plain⟩, ⟨⟨2, 2⟩, .rws, 0, .plain⟩, ⟨⟨1, 1⟩, .wo, 0, .plain⟩, ⟨⟨0, 0⟩, .w1s, 0, .plain⟩]⟩,
  ⟨.tnsSt, 0x47000084, [(144, 0x1000)],
    [⟨⟨7, 7⟩, .ro, 0, .plain⟩, ⟨⟨6, 6⟩, .ro, 0, .plain⟩, ⟨⟨5, 5⟩, .ro, 0, .plain⟩, ⟨⟨4, 4⟩, .ro, 0, .plain⟩, ⟨⟨3, 3⟩, .ro, 0, .plain⟩, ⟨⟨2, 2⟩, .w1c, 0, .plain⟩, ⟨⟨1, 1⟩, .w1c, 0, .plain⟩, ⟨⟨0, 0⟩, .w1c, 0, .plain⟩]⟩,
  ⟨.tnsGseq, 0x47000088, [(144, 0x1000)],
    [⟨⟨15, 0⟩, .ro, 0, .plain⟩]⟩,
  ⟨.tnsGrad, 0x470000A0, [(144, 0x1000), (8, 0x4)],
    [⟨⟨31, 0⟩, .ro, 0, .plain⟩]⟩,
  ⟨.tnsSmm, 0x470000C0, [(144, 0x1000)],
    [⟨⟨31, 0⟩, .ro, 0, .plain⟩]⟩,
  ⟨.tnsMse, 0x470000C4, [(144, 0x1000)],
    [⟨⟨31, 0⟩, .ro, 0, .plain⟩]⟩,
  ⟨.tnsEbits, 0x470000C8, [(144, 0x1000)],
    [⟨⟨31, 0⟩, .ro, 0, .plain⟩]⟩,
  ⟨.tnsRsnap, 0x470000CC, [(144, 0x1000)],
    [⟨⟨31, 0⟩, .ro, 0, .plain⟩]⟩,
  ⟨.tnsClr, 0x470000D0, [(144, 0x1000)],
    [⟨⟨0, 0⟩, .wo, 0, .plain⟩]⟩,
  ⟨.tnsAgec, 0x470000D4, [(144, 0x1000)],
    [⟨⟨31, 0⟩, .ro, 0, .plain⟩]⟩,
  ⟨.tnsDuet, 0x470000D8, [(144, 0x1000)],
    [⟨⟨15, 0⟩, .rws, 0xE10, .plain⟩]⟩,
  ⟨.tnsTxa, 0x470000E0, [(144, 0x1000)],
    [⟨⟨20, 0⟩, .ro, 0x1F0000, .plain⟩]⟩,
  ⟨.tnsTxp, 0x470000E4, [(144, 0x1000)],
    [⟨⟨20, 16⟩, .rws, 0x1F, .plain⟩, ⟨⟨14, 10⟩, .rws, 0, .plain⟩, ⟨⟨9, 5⟩, .rws, 0, .plain⟩, ⟨⟨4, 0⟩, .rws, 0, .plain⟩]⟩,
  ⟨.tnsAgectl, 0x47100000, [],
    [⟨⟨2, 2⟩, .w1c, 0, .plain⟩, ⟨⟨1, 1⟩, .ro, 0, .plain⟩, ⟨⟨0, 0⟩, .wo, 0, .plain⟩]⟩,
  ⟨.tnsRostr, 0x47100100, [(64, 0x4)],
    [⟨⟨23, 0⟩, .ro, 0, .plain⟩]⟩,
  ⟨.tnsRoref, 0x47100200, [(64, 0x4)],
    [⟨⟨23, 0⟩, .ro, 0, .plain⟩]⟩,
  ⟨.tnsRobase, 0x47100300, [(64, 0x4)],
    [⟨⟨31, 0⟩, .ro, 0, .plain⟩]⟩]

/-- The registers of the SNG block. -/
def rowsSng : List RegRow := [
  ⟨.sngEcfg, 0x48000000, [(144, 0x100), (4, 0x20)],
    [⟨⟨31, 31⟩, .rwi, 0, .plain⟩, ⟨⟨30, 28⟩, .rwi, 0, .plain⟩, ⟨⟨27, 27⟩, .rwi, 0, .plain⟩, ⟨⟨23, 16⟩, .rwi, 0, .plain⟩, ⟨⟨15, 0⟩, .rwi, 0, .plain⟩]⟩,
  ⟨.sngEpat, 0x48000004, [(144, 0x100), (4, 0x20), (2, 0x4)],
    [⟨⟨31, 0⟩, .rwi, 0, .plain⟩]⟩,
  ⟨.sngEprob, 0x4800000C, [(144, 0x100), (4, 0x20)],
    [⟨⟨23, 0⟩, .rwi, 0, .plain⟩]⟩,
  ⟨.sngElim, 0x48000010, [(144, 0x100), (4, 0x20)],
    [⟨⟨31, 0⟩, .rwi, 0, .plain⟩]⟩,
  ⟨.sngEcnt, 0x48000014, [(144, 0x100), (4, 0x20)],
    [⟨⟨31, 0⟩, .ro, 0, .plain⟩]⟩,
  ⟨.sngSeed, 0x48000080, [(144, 0x100)],
    [⟨⟨31, 0⟩, .rwi, 1, .plain⟩]⟩,
  ⟨.sngSkip, 0x48000084, [(144, 0x100)],
    [⟨⟨31, 0⟩, .ro, 0, .plain⟩]⟩,
  ⟨.sngCtl, 0x48010000, [],
    [⟨⟨4, 4⟩, .ro, 0, .plain⟩, ⟨⟨3, 3⟩, .ro, 0, .plain⟩, ⟨⟨2, 1⟩, .ro, 0, .plain⟩, ⟨⟨0, 0⟩, .rwi, 0, .plain⟩]⟩,
  ⟨.sngAudack, 0x48010004, [],
    [⟨⟨31, 0⟩, .rws, 0, .plain⟩]⟩,
  ⟨.sngSt, 0x48010008, [],
    [⟨⟨1, 1⟩, .ro, 0, .plain⟩, ⟨⟨0, 0⟩, .w1c, 0, .plain⟩]⟩]

/-- The registers of the TRD block. -/
def rowsTrd : List RegRow := [
  ⟨.trdStatus, 0x49000000, [],
    [⟨⟨1, 1⟩, .w1c, 0, .plain⟩, ⟨⟨0, 0⟩, .w1c, 0, .plain⟩]⟩,
  ⟨.trdSwfire, 0x49000010, [(2, 0x4)],
    [⟨⟨31, 0⟩, .wo, 0, .plain⟩]⟩,
  ⟨.trdPlat, 0x49000100, [(16, 0x4)],
    [⟨⟨31, 0⟩, .w1c, 0, .plain⟩]⟩,
  ⟨.trdPcfg, 0x49000200, [(64, 0x4)],
    [⟨⟨1, 0⟩, .rws, 0, .plain⟩]⟩,
  ⟨.trdPworld, 0x49000400, [(16, 0x4)],
    [⟨⟨31, 0⟩, .rwi, 0, .plain⟩]⟩,
  ⟨.trdCworld, 0x49000440, [(8, 0x4)],
    [⟨⟨31, 0⟩, .rwi, 0, .plain⟩]⟩,
  ⟨.trdGctl, 0x49000800, [(32, 0x4)],
    [⟨⟨20, 12⟩, .rws, 0, .plain⟩, ⟨⟨11, 11⟩, .rws, 0, .plain⟩, ⟨⟨10, 2⟩, .rws, 0, .plain⟩, ⟨⟨1, 1⟩, .rws, 0, .plain⟩, ⟨⟨0, 0⟩, .rws, 1, .plain⟩]⟩,
  ⟨.trdCcfg, 0x49001000, [(256, 0x10)],
    [⟨⟨23, 16⟩, .rw, 0x40, .plain⟩, ⟨⟨12, 4⟩, .rw, 0, .plain⟩, ⟨⟨3, 3⟩, .rw, 0, .plain⟩, ⟨⟨2, 2⟩, .rw, 0, .plain⟩, ⟨⟨1, 1⟩, .rw, 0, .plain⟩, ⟨⟨0, 0⟩, .rw, 0, .plain⟩]⟩,
  ⟨.trdCst, 0x49001004, [(256, 0x10)],
    [⟨⟨7, 7⟩, .ro, 0, .plain⟩, ⟨⟨6, 6⟩, .w1c, 0, .plain⟩, ⟨⟨5, 5⟩, .w1c, 0, .plain⟩, ⟨⟨4, 1⟩, .ro, 0, .plain⟩, ⟨⟨0, 0⟩, .ro, 0, .plain⟩]⟩,
  ⟨.trdCack, 0x49001008, [(256, 0x10)],
    [⟨⟨0, 0⟩, .wo, 0, .plain⟩]⟩,
  ⟨.trdCap, 0x49002000, [(16, 0x10), (2, 0x4)],
    [⟨⟨31, 0⟩, .ro, 0, .plain⟩]⟩,
  ⟨.trdCapst, 0x49002008, [(16, 0x10)],
    [⟨⟨1, 1⟩, .w1c, 0, .plain⟩, ⟨⟨0, 0⟩, .w1c, 0, .plain⟩]⟩,
  ⟨.trdMat, 0x49010000, [(256, 0x40), (16, 0x4)],
    [⟨⟨31, 0⟩, .rw, 0, .plain⟩]⟩]

/-- The registers of the PIN block. -/
def rowsPin : List RegRow := [
  ⟨.pinStatus, 0x4A000000, [],
    [⟨⟨1, 1⟩, .w1c, 0, .plain⟩, ⟨⟨0, 0⟩, .w1c, 0, .plain⟩]⟩,
  ⟨.pinOut, 0x4A000010, [(3, 0x4)],
    [⟨⟨31, 0⟩, .rw, 0xFFFFFFFF, .plain⟩]⟩,
  ⟨.pinSet, 0x4A000020, [(3, 0x4)],
    [⟨⟨31, 0⟩, .wo, 0, .plain⟩]⟩,
  ⟨.pinClr, 0x4A000030, [(3, 0x4)],
    [⟨⟨31, 0⟩, .wo, 0, .plain⟩]⟩,
  ⟨.pinTgl, 0x4A000040, [(3, 0x4)],
    [⟨⟨31, 0⟩, .wo, 0, .plain⟩]⟩,
  ⟨.pinIn, 0x4A000050, [(3, 0x4)],
    [⟨⟨31, 0⟩, .ro, 0, .plain⟩]⟩,
  ⟨.pinConfl, 0x4A000060, [(6, 0x4)],
    [⟨⟨31, 0⟩, .ro, 0, .plain⟩]⟩,
  ⟨.pinIdef, 0x4A000080, [(6, 0x4)],
    [⟨⟨31, 0⟩, .rws, 0, .plain⟩]⟩,
  ⟨.pinBank, 0x4A0000A0, [(6, 0x4)],
    [⟨⟨8, 8⟩, .ro, 0, .plain⟩, ⟨⟨1, 0⟩, .rwi, 3, .plain⟩]⟩,
  ⟨.pinCfg, 0x4A000100, [(96, 0x4)],
    [⟨⟨24, 24⟩, .rw, 0, .plain⟩, ⟨⟨23, 16⟩, .rw, 0, .plain⟩, ⟨⟨15, 8⟩, .rw, 0, .plain⟩, ⟨⟨7, 7⟩, .rw, 0, .plain⟩, ⟨⟨6, 6⟩, .rw, 0, .plain⟩, ⟨⟨5, 4⟩, .rw, 1, .plain⟩, ⟨⟨3, 2⟩, .rw, 1, .plain⟩, ⟨⟨1, 0⟩, .rw, 0, .plain⟩]⟩,
  ⟨.pinOwn, 0x4A000300, [(64, 0x4)],
    [⟨⟨7, 2⟩, .rwi, 0, .plain⟩, ⟨⟨1, 1⟩, .rwi, 0, .plain⟩, ⟨⟨0, 0⟩, .rwi, 0, .plain⟩]⟩,
  ⟨.pinOwn, 0x4A000410, [(4, 0x20), (4, 0x4)],
    [⟨⟨7, 2⟩, .rwi, 0, .plain⟩, ⟨⟨1, 1⟩, .rwi, 0, .plain⟩, ⟨⟨0, 0⟩, .rwi, 0, .plain⟩]⟩,
  ⟨.pinTctl, 0x4A000400, [(16, 0x20)],
    [⟨⟨9, 9⟩, .wo, 0, .plain⟩, ⟨⟨8, 3⟩, .rw, 0x27, .plain⟩, ⟨⟨2, 2⟩, .rw, 0, .plain⟩, ⟨⟨1, 0⟩, .rw, 0, .plain⟩]⟩,
  ⟨.pinTqst, 0x4A000404, [(16, 0x20)],
    [⟨⟨5, 5⟩, .w1c, 0, .plain⟩, ⟨⟨4, 4⟩, .w1c, 0, .plain⟩, ⟨⟨3, 3⟩, .w1c, 0, .plain⟩, ⟨⟨2, 0⟩, .ro, 0, .plain⟩]⟩,
  ⟨.pinTcap, 0x4A000408, [(16, 0x20), (2, 0x4)],
    [⟨⟨31, 0⟩, .ro, 0, .plain⟩]⟩]

/-- The registers of the SEC block. -/
def rowsSec : List RegRow := [
  ⟨.secStatus, 0x4B000000, [],
    [⟨⟨7, 6⟩, .ro, 2, .plain⟩, ⟨⟨5, 5⟩, .ro, 0, .plain⟩, ⟨⟨3, 3⟩, .ro, 0, .plain⟩, ⟨⟨2, 2⟩, .ro, 0, .plain⟩, ⟨⟨1, 1⟩, .ro, 0, .plain⟩, ⟨⟨0, 0⟩, .w1c, 0, .plain⟩]⟩,
  ⟨.secGrant, 0x4B000004, [],
    [⟨⟨2, 2⟩, .ro, 0, .plain⟩, ⟨⟨1, 1⟩, .ro, 0, .plain⟩, ⟨⟨0, 0⟩, .ro, 0, .plain⟩]⟩,
  ⟨.secCmddone, 0x4B000008, [],
    [⟨⟨0, 0⟩, .rws, 0, .command⟩]⟩,
  ⟨.secSvn, 0x4B000010, [],
    [⟨⟨15, 0⟩, .ro, 0, .plain⟩]⟩,
  ⟨.secBootcnt, 0x4B000014, [],
    [⟨⟨31, 0⟩, .ro, 0, .plain⟩]⟩,
  ⟨.secSvcb, 0x4B000018, [],
    [⟨⟨31, 31⟩, .rws, 0, .plain⟩, ⟨⟨15, 0⟩, .rws, 0, .plain⟩]⟩,
  ⟨.secOpdb, 0x4B000100, [(40, 0x4)],
    [⟨⟨31, 6⟩, .rws, 0, .plain⟩]⟩,
  ⟨.secOpst, 0x4B000200, [(40, 0x4)],
    [⟨⟨4, 4⟩, .w1c, 0, .plain⟩, ⟨⟨3, 0⟩, .ro, 0, .plain⟩]⟩,
  ⟨.secMbxin, 0x4B001000, [(1024, 0x4)],
    [⟨⟨31, 0⟩, .rw, 0, .plain⟩]⟩,
  ⟨.secMbxout, 0x4B002000, [(1024, 0x4)],
    [⟨⟨31, 0⟩, .rws, 0, .plain⟩]⟩,
  ⟨.secMbxctl, 0x4B003000, [],
    [⟨⟨1, 1⟩, .w1c, 0, .plain⟩, ⟨⟨0, 0⟩, .w1s, 0, .plain⟩]⟩,
  ⟨.secMbxrsp, 0x4B003004, [],
    [⟨⟨0, 0⟩, .rws, 0, .command⟩]⟩,
  ⟨.secAudseq, 0x4B004000, [(2, 0x4)],
    [⟨⟨31, 0⟩, .ro, 0, .plain⟩]⟩,
  ⟨.secAudhead, 0x4B004010, [(12, 0x4)],
    [⟨⟨31, 0⟩, .ro, 0, .plain⟩]⟩,
  ⟨.secAudctr, 0x4B004040, [],
    [⟨⟨20, 0⟩, .ro, 0, .plain⟩]⟩,
  ⟨.secAudbase, 0x4B004044, [],
    [⟨⟨3, 0⟩, .rws, 0xF, .plain⟩]⟩,
  ⟨.secKslot0, 0x4B010000, [(4096, 0x8)],
    [⟨⟨31, 31⟩, .ro, 0, .plain⟩, ⟨⟨30, 30⟩, .ro, 0, .plain⟩]⟩,
  ⟨.secKslot1, 0x4B010004, [(4096, 0x8)],
    [⟨⟨31, 0⟩, .ro, 0, .plain⟩]⟩]

/-- The registers of the HAP block. -/
def rowsHap : List RegRow := [
  ⟨.hapCtl, 0x4C000000, [(8, 0x100)],
    [⟨⟨4, 4⟩, .ro, 0, .plain⟩, ⟨⟨3, 3⟩, .ro, 0, .plain⟩, ⟨⟨2, 1⟩, .ro, 0, .plain⟩, ⟨⟨0, 0⟩, .rws, 0, .plain⟩]⟩,
  ⟨.hapStatus, 0x4C000004, [(8, 0x100)],
    [⟨⟨4, 4⟩, .w1c, 0, .plain⟩, ⟨⟨3, 3⟩, .w1c, 0, .plain⟩, ⟨⟨2, 2⟩, .w1c, 0, .plain⟩, ⟨⟨1, 1⟩, .w1c, 0, .plain⟩]⟩,
  ⟨.hapTagq, 0x4C000008, [(8, 0x100)],
    [⟨⟨10, 0⟩, .ro, 0, .plain⟩]⟩,
  ⟨.hapCnt, 0x4C000040, [(8, 0x100), (8, 0x4)],
    [⟨⟨31, 0⟩, .ro, 0, .plain⟩]⟩,
  ⟨.hapCntclr, 0x4C000060, [(8, 0x100)],
    [⟨⟨0, 0⟩, .wo, 0, .plain⟩]⟩,
  ⟨.hapGstat, 0x4C001000, [],
    [⟨⟨2, 2⟩, .ro, 0, .plain⟩, ⟨⟨0, 0⟩, .w1c, 0, .plain⟩]⟩,
  ⟨.hapCfg, 0x4C001004, [],
    [⟨⟨13, 8⟩, .rws, 0x27, .plain⟩, ⟨⟨7, 0⟩, .rws, 0x20, .plain⟩]⟩,
  ⟨.hapWin, 0x4C001100, [(16, 0x4)],
    [⟨⟨31, 31⟩, .rws, 0, .plain⟩, ⟨⟨24, 0⟩, .rws, 0, .plain⟩]⟩,
  ⟨.hapMch, 0x4C001200, [(27, 0x4)],
    [⟨⟨23, 0⟩, .rws, 0, .plain⟩]⟩,
  ⟨.hapIaddr, 0x4C002000, [(256, 0x10)],
    [⟨⟨31, 2⟩, .rws, 0, .plain⟩]⟩,
  ⟨.hapIaddrh, 0x4C002004, [(256, 0x10)],
    [⟨⟨19, 0⟩, .rws, 0, .plain⟩]⟩,
  ⟨.hapIdata, 0x4C002008, [(256, 0x10)],
    [⟨⟨31, 0⟩, .rws, 0, .plain⟩]⟩,
  ⟨.hapIctl, 0x4C00200C, [(256, 0x10)],
    [⟨⟨31, 31⟩, .rws, 0, .plain⟩, ⟨⟨30, 30⟩, .ro, 1, .plain⟩, ⟨⟨29, 29⟩, .ro, 0, .plain⟩, ⟨⟨28, 27⟩, .rws, 0, .plain⟩, ⟨⟨18, 16⟩, .rws, 0, .plain⟩, ⟨⟨15, 0⟩, .rws, 0, .plain⟩]⟩,
  ⟨.hapIarm, 0x4C003000, [(8, 0x4)],
    [⟨⟨31, 0⟩, .w1s, 0xFFFFFFFF, .plain⟩]⟩,
  ⟨.hapIfire, 0x4C003020, [(8, 0x4)],
    [⟨⟨31, 0⟩, .wo, 0, .plain⟩]⟩]

/-- The registers of the CXP block. -/
def rowsCxp : List RegRow := [
  ⟨.cxpCfg, 0x4C004000, [(4, 0x4)],
    [⟨⟨31, 31⟩, .rwi, 0, .plain⟩, ⟨⟨30, 30⟩, .rwi, 0, .plain⟩, ⟨⟨29, 29⟩, .rwi, 0, .plain⟩, ⟨⟨23, 16⟩, .rwi, 0x10, .plain⟩, ⟨⟨15, 0⟩, .rwi, 0x400, .plain⟩]⟩,
  ⟨.cxpCnt, 0x4C004010, [],
    [⟨⟨31, 0⟩, .ro, 0, .plain⟩]⟩]

/-- The registers of the PWR block. -/
def rowsPwr : List RegRow := [
  ⟨.pwrCtl, 0x4D000000, [],
    [⟨⟨1, 0⟩, .rws, 0, .plain⟩]⟩,
  ⟨.pwrStatus, 0x4D000004, [],
    [⟨⟨12, 8⟩, .ro, 0x1F, .plain⟩, ⟨⟨5, 5⟩, .w1c, 0, .plain⟩, ⟨⟨4, 4⟩, .w1c, 0, .plain⟩, ⟨⟨2, 0⟩, .ro, 0, .plain⟩]⟩,
  ⟨.pwrWake, 0x4D000008, [],
    [⟨⟨11, 8⟩, .w1c, 0, .plain⟩, ⟨⟨3, 0⟩, .rws, 0xF, .plain⟩]⟩,
  ⟨.pwrWcnt, 0x4D00000C, [],
    [⟨⟨31, 0⟩, .ro, 0, .plain⟩]⟩,
  ⟨.pwrTemp, 0x4D000100, [(5, 0x4)],
    [⟨⟨31, 31⟩, .ro, 0, .plain⟩, ⟨⟨11, 0⟩, .ro, 0, .plain⟩]⟩,
  ⟨.pwrTalrm, 0x4D000120, [],
    [⟨⟨9, 9⟩, .rws, 1, .plain⟩, ⟨⟨8, 8⟩, .w1c, 0, .plain⟩, ⟨⟨7, 0⟩, .rws, 0x69, .plain⟩]⟩]

/-- The registers of the CLK block. -/
def rowsClk : List RegRow := [
  ⟨.clkWdiv, 0x4D001000, [],
    [⟨⟨3, 0⟩, .rws, 4, .plain⟩]⟩,
  ⟨.clkStatus, 0x4D001004, [],
    [⟨⟨5, 5⟩, .ro, 0, .plain⟩, ⟨⟨4, 4⟩, .ro, 0, .plain⟩, ⟨⟨3, 0⟩, .ro, 0, .plain⟩]⟩]

/-- The registers of the RST block. -/
def rowsRst : List RegRow := [
  ⟨.rstCause, 0x4D002000, [],
    [⟨⟨5, 5⟩, .w1c, 0, .plain⟩, ⟨⟨4, 4⟩, .w1c, 0, .plain⟩, ⟨⟨3, 3⟩, .w1c, 0, .plain⟩, ⟨⟨2, 2⟩, .w1c, 0, .plain⟩, ⟨⟨1, 1⟩, .w1c, 0, .plain⟩, ⟨⟨0, 0⟩, .w1c, 1, .plain⟩]⟩,
  ⟨.rstCmd, 0x4D002004, [],
    [⟨⟨0, 0⟩, .rwi, 0, .command⟩]⟩]

/-- The registers of the DBG block. -/
def rowsDbg : List RegRow := [
  ⟨.dbgStatus, 0x4F000000, [],
    [⟨⟨7, 4⟩, .ro, 0, .plain⟩, ⟨⟨3, 3⟩, .ro, 0, .plain⟩, ⟨⟨1, 1⟩, .w1c, 0, .plain⟩, ⟨⟨0, 0⟩, .w1c, 0, .plain⟩]⟩,
  ⟨.dbgTsel, 0x4F000004, [],
    [⟨⟨10, 0⟩, .rw, 0, .plain⟩]⟩,
  ⟨.dbgCmd, 0x4F000008, [],
    [⟨⟨2, 2⟩, .wo, 0, .plain⟩, ⟨⟨1, 1⟩, .wo, 0, .plain⟩, ⟨⟨0, 0⟩, .wo, 0, .plain⟩]⟩,
  ⟨.dbgRsel, 0x4F000010, [],
    [⟨⟨6, 5⟩, .rw, 0, .plain⟩, ⟨⟨4, 0⟩, .rw, 0, .plain⟩]⟩,
  ⟨.dbgRdata, 0x4F000014, [],
    [⟨⟨31, 0⟩, .rw, 0, .plain⟩]⟩,
  ⟨.dbgMaddr, 0x4F000020, [],
    [⟨⟨31, 2⟩, .rw, 0, .plain⟩]⟩,
  ⟨.dbgMdata, 0x4F000024, [],
    [⟨⟨31, 0⟩, .rw, 0, .plain⟩]⟩,
  ⟨.dbgTrcctl, 0x4F000030, [],
    [⟨⟨0, 0⟩, .rw, 0, .plain⟩]⟩,
  ⟨.dbgTrcst, 0x4F000034, [],
    [⟨⟨7, 7⟩, .w1c, 0, .plain⟩, ⟨⟨6, 0⟩, .ro, 0, .plain⟩]⟩,
  ⟨.dbgTrc0, 0x4F000100, [(64, 0x10)],
    [⟨⟨31, 0⟩, .ro, 0, .plain⟩]⟩,
  ⟨.dbgTrc1, 0x4F000104, [(64, 0x10)],
    [⟨⟨31, 0⟩, .ro, 0, .plain⟩]⟩,
  ⟨.dbgTrc2, 0x4F000108, [(64, 0x10)],
    [⟨⟨15, 8⟩, .ro, 0, .plain⟩, ⟨⟨3, 0⟩, .ro, 0, .plain⟩]⟩,
  ⟨.dbgTrc3, 0x4F00010C, [(64, 0x10)],
    [⟨⟨31, 0⟩, .ro, 0, .plain⟩]⟩]

/-- Address of WHL_STATUS (spec/02). -/
def addrWhlStatus (n : Nat) : Nat := 0x40000000 + 0x10000 * n
/-- Address of WHL_SLOTCTL (spec/02). -/
def addrWhlSlotctl (n : Nat) : Nat := 0x40000004 + 0x10000 * n
/-- Address of WHL_SLOTST (spec/02). -/
def addrWhlSlotst (n : Nat) : Nat := 0x40000008 + 0x10000 * n
/-- Address of WHL_ROUND (spec/02). -/
def addrWhlRound (n : Nat) : Nat := 0x4000000C + 0x10000 * n
/-- Address of WHL_QWATCH (spec/02). -/
def addrWhlQwatch : Nat := 0x40270020
/-- Address of WHL_NOTE (spec/05). -/
def addrWhlNote (n k : Nat) : Nat := 0x40000040 + 0x10000 * n + 0x4 * k
/-- Address of WHL_NOTECTL (spec/05). -/
def addrWhlNotectl (n : Nat) : Nat := 0x40000050 + 0x10000 * n
/-- Address of WHL_NOTEST (spec/05). -/
def addrWhlNotest (n : Nat) : Nat := 0x40000054 + 0x10000 * n
/-- Address of WHL_ESC (spec/05). -/
def addrWhlEsc (k : Nat) : Nat := 0x40270060 + 0x4 * k
/-- Address of WHL_ESCCTL (spec/05). -/
def addrWhlEscctl : Nat := 0x40270070
/-- Address of WHL_ESCST (spec/05). -/
def addrWhlEscst : Nat := 0x40270074
/-- Address of WHL_SLOT (spec/02). -/
def addrWhlSlot (n e : Nat) : Nat := 0x40000100 + 0x10000 * n + 0x4 * e
/-- Address of WHL_SLOTA (spec/02). -/
def addrWhlSlota (n e : Nat) : Nat := 0x40000200 + 0x10000 * n + 0x4 * e
/-- Address of WHL_TCTL (spec/02). -/
def addrWhlTctl (n t : Nat) : Nat := 0x40000400 + 0x10000 * n + 0x40 * t
/-- Address of WHL_TSTAT (spec/02). -/
def addrWhlTstat (n t : Nat) : Nat := 0x40000404 + 0x10000 * n + 0x40 * t
/-- Address of WHL_TPC (spec/02). -/
def addrWhlTpc (n t : Nat) : Nat := 0x40000408 + 0x10000 * n + 0x40 * t
/-- Address of WHL_EVPEND (spec/02). -/
def addrWhlEvpend (n t : Nat) : Nat := 0x4000040C + 0x10000 * n + 0x40 * t
/-- Address of WHL_DLLO (spec/02). -/
def addrWhlDllo (n t : Nat) : Nat := 0x40000410 + 0x10000 * n + 0x40 * t
/-- Address of WHL_DLHI (spec/02). -/
def addrWhlDlhi (n t : Nat) : Nat := 0x40000414 + 0x10000 * n + 0x40 * t
/-- Address of WHL_TSHARE (spec/02). -/
def addrWhlTshare (n t : Nat) : Nat := 0x40000418 + 0x10000 * n + 0x40 * t
/-- Address of WHL_TUSE (spec/02). -/
def addrWhlTuse (n t : Nat) : Nat := 0x4000041C + 0x10000 * n + 0x40 * t
/-- Address of WHL_TEXC (spec/05). -/
def addrWhlTexc (n t : Nat) : Nat := 0x40000420 + 0x10000 * n + 0x40 * t
/-- Address of WHL_CHCFG (spec/02). -/
def addrWhlChcfg (n c : Nat) : Nat := 0x40001000 + 0x10000 * n + 0x10 * c
/-- Address of WHL_CHSTS (spec/02). -/
def addrWhlChsts (n c : Nat) : Nat := 0x40001004 + 0x10000 * n + 0x10 * c
/-- Address of WHL_CHCTL (spec/02). -/
def addrWhlChctl (n c : Nat) : Nat := 0x40001008 + 0x10000 * n + 0x10 * c
/-- Address of WHL_XCFG (spec/02). -/
def addrWhlXcfg (n x : Nat) : Nat := 0x40001400 + 0x10000 * n + 0x10 * x
/-- Address of WHL_XSTS (spec/02). -/
def addrWhlXsts (n x : Nat) : Nat := 0x40001404 + 0x10000 * n + 0x10 * x
/-- Address of WHL_XCTL (spec/02). -/
def addrWhlXctl (n x : Nat) : Nat := 0x40001408 + 0x10000 * n + 0x10 * x
/-- Address of WHL_EVSRC (spec/02). -/
def addrWhlEvsrc (n t i : Nat) : Nat := 0x40002000 + 0x10000 * n + 0x80 * t + 0x4 * i
/-- Address of MEM_RGNBASE (spec/06). -/
def addrMemRgnbase (m r : Nat) : Nat := 0x4E000000 + 0x100 * m + 0x20 * r
/-- Address of MEM_RGNLIM (spec/06). -/
def addrMemRgnlim (m r : Nat) : Nat := 0x4E000004 + 0x100 * m + 0x20 * r
/-- Address of MEM_RGNATTR (spec/06). -/
def addrMemRgnattr (m r : Nat) : Nat := 0x4E000008 + 0x100 * m + 0x20 * r
/-- Address of MEM_CPBASE (spec/06). -/
def addrMemCpbase (k : Nat) : Nat := 0x4E030000 + 0x10 * k
/-- Address of MEM_CPLIM (spec/06). -/
def addrMemCplim (k : Nat) : Nat := 0x4E030004 + 0x10 * k
/-- Address of MEM_CPATTR (spec/06). -/
def addrMemCpattr (k : Nat) : Nat := 0x4E030008 + 0x10 * k
/-- Address of MEM_ECCST (spec/06). -/
def addrMemEccst : Nat := 0x4E010000
/-- Address of MEM_CELOG (spec/06). -/
def addrMemCelog : Nat := 0x4E010004
/-- Address of MEM_UELOG (spec/06). -/
def addrMemUelog : Nat := 0x4E010008
/-- Address of MEM_UEMST (spec/06). -/
def addrMemUemst : Nat := 0x4E01000C
/-- Address of MEM_ECCCTL (spec/06). -/
def addrMemEccctl : Nat := 0x4E010010
/-- Address of MEM_SCRUB (spec/06). -/
def addrMemScrub : Nat := 0x4E010020
/-- Address of MEM_RAWADDR (spec/06). -/
def addrMemRawaddr : Nat := 0x4E010040
/-- Address of MEM_RAWLO (spec/06). -/
def addrMemRawlo : Nat := 0x4E010044
/-- Address of MEM_RAWHI (spec/06). -/
def addrMemRawhi : Nat := 0x4E010048
/-- Address of MEM_RAWCHK (spec/06). -/
def addrMemRawchk : Nat := 0x4E01004C
/-- Address of MEM_RAWCTL (spec/06). -/
def addrMemRawctl : Nat := 0x4E010050
/-- Address of MEM_CREMAP (spec/06). -/
def addrMemCremap (b s : Nat) : Nat := 0x4E020000 + 0x20 * b + 0x4 * s
/-- Address of MEM_LREMAP (spec/06). -/
def addrMemLremap (n b s : Nat) : Nat := 0x4E021000 + 0x80 * n + 0x10 * b + 0x4 * s
/-- Address of MEM_REMAPCTL (spec/06). -/
def addrMemRemapctl : Nat := 0x4E023000
/-- Address of BOB_DB (spec/07). -/
def addrBobDb (k : Nat) : Nat := 0x41000000 + 0x4 * k
/-- Address of BOB_BCTL (spec/07). -/
def addrBobBctl (k : Nat) : Nat := 0x41040000 + 0x4 * k
/-- Address of BOB_STAGE (spec/07). -/
def addrBobStage (i : Nat) : Nat := 0x41080000 + 0x4 * i
/-- Address of BOB_SETCMD (spec/07). -/
def addrBobSetcmd : Nat := 0x41080020
/-- Address of BOB_SETST (spec/07). -/
def addrBobSetst : Nat := 0x41080024
/-- Address of BOB_STATUS (spec/07). -/
def addrBobStatus : Nat := 0x41080028
/-- Address of BOB_RETIRE (spec/07). -/
def addrBobRetire : Nat := 0x41080030
/-- Address of BOB_RETIDX (spec/07). -/
def addrBobRetidx : Nat := 0x41080034
/-- Address of BOB_PART (spec/07). -/
def addrBobPart (n : Nat) : Nat := 0x41080100 + 0x4 * n
/-- Address of BOB_PSCNT (spec/07). -/
def addrBobPscnt (n : Nat) : Nat := 0x41080200 + 0x4 * n
/-- Address of BOB_LWLO (spec/07). -/
def addrBobLwlo (w : Nat) : Nat := 0x41081000 + 0x10 * w
/-- Address of BOB_LWHI (spec/07). -/
def addrBobLwhi (w : Nat) : Nat := 0x41081004 + 0x10 * w
/-- Address of BOB_LWSZ (spec/07). -/
def addrBobLwsz (w : Nat) : Nat := 0x41081008 + 0x10 * w
/-- Address of BOB_LWQ (spec/07). -/
def addrBobLwq (w : Nat) : Nat := 0x4108100C + 0x10 * w
/-- Address of LGR_BASE (spec/07). -/
def addrLgrBase : Nat := 0x41100000
/-- Address of LGR_STATUS (spec/07). -/
def addrLgrStatus : Nat := 0x41100008
/-- Address of LGR_VIDX (spec/07). -/
def addrLgrVidx : Nat := 0x4110000C
/-- Address of LGR_ADJSET (spec/07). -/
def addrLgrAdjset : Nat := 0x41100010
/-- Address of LGR_ADJAMT (spec/07). -/
def addrLgrAdjamt : Nat := 0x41100014
/-- Address of LGR_GSTAT (spec/07). -/
def addrLgrGstat : Nat := 0x41100020
/-- Address of LGR_OVRSET (spec/07). -/
def addrLgrOvrset : Nat := 0x41100030
/-- Address of LGR_OVRVAL (spec/07). -/
def addrLgrOvrval (i : Nat) : Nat := 0x41100034 + 0x4 * i
/-- Address of LGR_OVRCMD (spec/07). -/
def addrLgrOvrcmd : Nat := 0x41100044
/-- Address of LGR_PATTR (spec/07). -/
def addrLgrPattr (s : Nat) : Nat := 0x41110000 + 0x4 * s
/-- Address of LNK_CTL (spec/08). -/
def addrLnkCtl (p : Nat) : Nat := 0x42000000 + 0x10000 * p
/-- Address of LNK_STATE (spec/08). -/
def addrLnkState (p : Nat) : Nat := 0x42000004 + 0x10000 * p
/-- Address of LNK_STATUS (spec/08). -/
def addrLnkStatus (p : Nat) : Nat := 0x42000008 + 0x10000 * p
/-- Address of LNK_CFG (spec/08). -/
def addrLnkCfg (p : Nat) : Nat := 0x4200000C + 0x10000 * p
/-- Address of LNK_TXNEXT (spec/08). -/
def addrLnkTxnext (p : Nat) : Nat := 0x42000010 + 0x10000 * p
/-- Address of LNK_TXACK (spec/08). -/
def addrLnkTxack (p : Nat) : Nat := 0x42000014 + 0x10000 * p
/-- Address of LNK_ESEQ (spec/08). -/
def addrLnkEseq (p : Nat) : Nat := 0x42000018 + 0x10000 * p
/-- Address of LNK_SCNTTX (spec/08). -/
def addrLnkScnttx (p : Nat) : Nat := 0x4200001C + 0x10000 * p
/-- Address of LNK_SCNTRX (spec/08). -/
def addrLnkScntrx (p : Nat) : Nat := 0x42000020 + 0x10000 * p
/-- Address of LNK_RPLY (spec/08). -/
def addrLnkRply (p : Nat) : Nat := 0x42000024 + 0x10000 * p
/-- Address of LNK_CNT (spec/08). -/
def addrLnkCnt (p i : Nat) : Nat := 0x42000100 + 0x10000 * p + 0x4 * i
/-- Address of LNK_CNTCLR (spec/08). -/
def addrLnkCntclr (p : Nat) : Nat := 0x42000140 + 0x10000 * p
/-- Address of LNK_CRTX (spec/08). -/
def addrLnkCrtx (p tc : Nat) : Nat := 0x42000160 + 0x10000 * p + 0x4 * tc
/-- Address of LNK_CRRX (spec/08). -/
def addrLnkCrrx (p tc : Nat) : Nat := 0x42000180 + 0x10000 * p + 0x4 * tc
/-- Address of LNK_CTXBUF (spec/08). -/
def addrLnkCtxbuf (p j : Nat) : Nat := 0x42000400 + 0x10000 * p + 0x4 * j
/-- Address of LNK_CTXHDR (spec/08). -/
def addrLnkCtxhdr (p : Nat) : Nat := 0x42000500 + 0x10000 * p
/-- Address of LNK_CTXHDR2 (spec/08). -/
def addrLnkCtxhdr2 (p : Nat) : Nat := 0x42000504 + 0x10000 * p
/-- Address of LNK_CTXCMD (spec/08). -/
def addrLnkCtxcmd (p : Nat) : Nat := 0x42000508 + 0x10000 * p
/-- Address of LNK_CRXST (spec/08). -/
def addrLnkCrxst (p : Nat) : Nat := 0x42000510 + 0x10000 * p
/-- Address of LNK_CRXCTL (spec/08). -/
def addrLnkCrxctl (p : Nat) : Nat := 0x42000514 + 0x10000 * p
/-- Address of LNK_CRXBUF (spec/08). -/
def addrLnkCrxbuf (p i w : Nat) : Nat := 0x42001000 + 0x10000 * p + 0x200 * i + 0x4 * w
/-- Address of RTE_CANDLO (spec/09). -/
def addrRteCandlo (d : Nat) : Nat := 0x43000000 + 0x10 * d
/-- Address of RTE_CANDHI (spec/09). -/
def addrRteCandhi (d : Nat) : Nat := 0x43000004 + 0x10 * d
/-- Address of RTE_PATLO (spec/09). -/
def addrRtePatlo (d : Nat) : Nat := 0x43000008 + 0x10 * d
/-- Address of RTE_PATHI (spec/09). -/
def addrRtePathi (d : Nat) : Nat := 0x4300000C + 0x10 * d
/-- Address of RTE_STEP (spec/09). -/
def addrRteStep (d : Nat) : Nat := 0x43010000 + 0x4 * d
/-- Address of RTE_ID (spec/09). -/
def addrRteId : Nat := 0x43020000
/-- Address of RTE_STATUS (spec/09). -/
def addrRteStatus : Nat := 0x43020004
/-- Address of RTE_CFG (spec/09). -/
def addrRteCfg : Nat := 0x43020008
/-- Address of RTE_RQ (spec/09). -/
def addrRteRq : Nat := 0x4302000C
/-- Address of RTE_LRSV (spec/09). -/
def addrRteLrsv : Nat := 0x43020010
/-- Address of RTE_RBASE (spec/09). -/
def addrRteRbase : Nat := 0x43020014
/-- Address of RTE_STALLBOB (spec/09). -/
def addrRteStallbob (w : Nat) : Nat := 0x43020100 + 0x4 * w
/-- Address of RTE_CTXCMD (spec/09). -/
def addrRteCtxcmd : Nat := 0x43020200
/-- Address of RTE_PCFG (spec/09). -/
def addrRtePcfg (p : Nat) : Nat := 0x43021000 + 0x4 * p
/-- Address of RTE_CNT (spec/09). -/
def addrRteCnt (i : Nat) : Nat := 0x43022000 + 0x4 * i
/-- Address of RTE_CNTCLR (spec/09). -/
def addrRteCntclr : Nat := 0x43022040
/-- Address of REEL_CFG (spec/09). -/
def addrReelCfg : Nat := 0x43800000
/-- Address of REEL_PER (spec/09). -/
def addrReelPer : Nat := 0x43800004
/-- Address of REEL_CFGTB (spec/09). -/
def addrReelCfgtb (i : Nat) : Nat := 0x43800008 + 0x4 * i
/-- Address of REEL_CFGCMD (spec/09). -/
def addrReelCfgcmd : Nat := 0x43800010
/-- Address of REEL_CFGST (spec/09). -/
def addrReelCfgst : Nat := 0x43800014
/-- Address of REEL_APER (spec/09). -/
def addrReelAper : Nat := 0x43800018
/-- Address of REEL_ESEQ (spec/09). -/
def addrReelEseq (p e : Nat) : Nat := 0x43810000 + 0x400 * p + 0x4 * e
/-- Address of REEL_ESEQA (spec/09). -/
def addrReelEseqa (p e : Nat) : Nat := 0x43810100 + 0x400 * p + 0x4 * e
/-- Address of REEL_ABASE (spec/09). -/
def addrReelAbase (p : Nat) : Nat := 0x43810200 + 0x400 * p
/-- Address of REEL_SBASE (spec/09). -/
def addrReelSbase (p : Nat) : Nat := 0x43810204 + 0x400 * p
/-- Address of REEL_PCTL (spec/09). -/
def addrReelPctl (p : Nat) : Nat := 0x43810208 + 0x400 * p
/-- Address of REEL_PST (spec/09). -/
def addrReelPst (p : Nat) : Nat := 0x4381020C + 0x400 * p
/-- Address of REEL_TQ (spec/09). -/
def addrReelTq (p tc : Nat) : Nat := 0x43810300 + 0x400 * p + 0x4 * tc
/-- Address of REEL_TSNAP (spec/09). -/
def addrReelTsnap (p i : Nat) : Nat := 0x43810320 + 0x400 * p + 0x4 * i
/-- Address of DRF_CTL (spec/10). -/
def addrDrfCtl (e : Nat) : Nat := 0x44000000 + 0x1000 * e
/-- Address of DRF_OWN (spec/10). -/
def addrDrfOwn (e : Nat) : Nat := 0x44000004 + 0x1000 * e
/-- Address of DRF_STATUS (spec/10). -/
def addrDrfStatus (e : Nat) : Nat := 0x44000008 + 0x1000 * e
/-- Address of DRF_LISTLO (spec/10). -/
def addrDrfListlo (e : Nat) : Nat := 0x44000010 + 0x1000 * e
/-- Address of DRF_LISTHI (spec/10). -/
def addrDrfListhi (e : Nat) : Nat := 0x44000014 + 0x1000 * e
/-- Address of DRF_GO (spec/10). -/
def addrDrfGo (e : Nat) : Nat := 0x44000018 + 0x1000 * e
/-- Address of DRF_CMD (spec/10). -/
def addrDrfCmd (e : Nat) : Nat := 0x4400001C + 0x1000 * e
/-- Address of DRF_FCMD (spec/10). -/
def addrDrfFcmd (e i : Nat) : Nat := 0x44000020 + 0x1000 * e + 0x4 * i
/-- Address of DRF_FDET (spec/10). -/
def addrDrfFdet (e : Nat) : Nat := 0x44000028 + 0x1000 * e
/-- Address of DRF_FIDX (spec/10). -/
def addrDrfFidx (e : Nat) : Nat := 0x4400002C + 0x1000 * e
/-- Address of DRF_FIDX2 (spec/10). -/
def addrDrfFidx2 (e : Nat) : Nat := 0x44000030 + 0x1000 * e
/-- Address of DRF_FADDR (spec/10). -/
def addrDrfFaddr (e i : Nat) : Nat := 0x44000034 + 0x1000 * e + 0x4 * i
/-- Address of DRF_CUR (spec/10). -/
def addrDrfCur (e i : Nat) : Nat := 0x44000040 + 0x1000 * e + 0x4 * i
/-- Address of DRF_DONE (spec/10). -/
def addrDrfDone (e i : Nat) : Nat := 0x44000048 + 0x1000 * e + 0x4 * i
/-- Address of DRF_STGBASE (spec/10). -/
def addrDrfStgbase (e : Nat) : Nat := 0x44000050 + 0x1000 * e
/-- Address of DRF_STGSZ (spec/10). -/
def addrDrfStgsz (e : Nat) : Nat := 0x44000054 + 0x1000 * e
/-- Address of DRF_SVCCTL (spec/10). -/
def addrDrfSvcctl (e : Nat) : Nat := 0x44000060 + 0x1000 * e
/-- Address of DRF_SVCWLO (spec/10). -/
def addrDrfSvcwlo (e : Nat) : Nat := 0x44000064 + 0x1000 * e
/-- Address of DRF_SVCWHI (spec/10). -/
def addrDrfSvcwhi (e : Nat) : Nat := 0x44000068 + 0x1000 * e
/-- Address of DRF_EVW (spec/10). -/
def addrDrfEvw (e : Nat) : Nat := 0x44000070 + 0x1000 * e
/-- Address of DRF_CNT (spec/10). -/
def addrDrfCnt (e i : Nat) : Nat := 0x44000080 + 0x1000 * e + 0x4 * i
/-- Address of DRF_CNTCLR (spec/10). -/
def addrDrfCntclr (e : Nat) : Nat := 0x440000A0 + 0x1000 * e
/-- Address of PLY_CTL (spec/11). -/
def addrPlyCtl (u : Nat) : Nat := 0x45000000 + 0x1000 * u
/-- Address of PLY_OWN (spec/11). -/
def addrPlyOwn (u : Nat) : Nat := 0x45000004 + 0x1000 * u
/-- Address of PLY_STATUS (spec/11). -/
def addrPlyStatus (u : Nat) : Nat := 0x45000008 + 0x1000 * u
/-- Address of PLY_DONE (spec/11). -/
def addrPlyDone (u : Nat) : Nat := 0x45000010 + 0x1000 * u
/-- Address of PLY_FDET (spec/11). -/
def addrPlyFdet (u : Nat) : Nat := 0x45000014 + 0x1000 * u
/-- Address of PLY_FADDR (spec/11). -/
def addrPlyFaddr (u : Nat) : Nat := 0x45000018 + 0x1000 * u
/-- Address of PLY_CMD (spec/11). -/
def addrPlyCmd (u : Nat) : Nat := 0x4500001C + 0x1000 * u
/-- Address of PLY_EVW (spec/11). -/
def addrPlyEvw (u : Nat) : Nat := 0x45000020 + 0x1000 * u
/-- Address of PLY_FENCE (spec/11). -/
def addrPlyFence (u j : Nat) : Nat := 0x45000100 + 0x1000 * u + 0x4 * j
/-- Address of PLY_CNT (spec/11). -/
def addrPlyCnt (u i : Nat) : Nat := 0x45000200 + 0x1000 * u + 0x4 * i
/-- Address of PLY_CNTCLR (spec/11). -/
def addrPlyCntclr (u : Nat) : Nat := 0x45000220 + 0x1000 * u
/-- Address of PLY_RBA (spec/11). -/
def addrPlyRba (b : Nat) : Nat := 0x45010000 + 0x10 * b
/-- Address of PLY_RBB (spec/11). -/
def addrPlyRbb (b : Nat) : Nat := 0x45010004 + 0x10 * b
/-- Address of PLY_RBSZ (spec/11). -/
def addrPlyRbsz (b : Nat) : Nat := 0x45010008 + 0x10 * b
/-- Address of PLY_RBST (spec/11). -/
def addrPlyRbst (b : Nat) : Nat := 0x4501000C + 0x10 * b
/-- Address of PLY_CGCTL (spec/11). -/
def addrPlyCgctl (g : Nat) : Nat := 0x45011000 + 0x40 * g
/-- Address of PLY_CGB (spec/11). -/
def addrPlyCgb (g i : Nat) : Nat := 0x45011004 + 0x40 * g + 0x4 * i
/-- Address of PLY_CGF (spec/11). -/
def addrPlyCgf (g j : Nat) : Nat := 0x45011010 + 0x40 * g + 0x4 * j
/-- Address of PLY_CGCNT (spec/11). -/
def addrPlyCgcnt (g : Nat) : Nat := 0x45011030 + 0x40 * g
/-- Address of PLY_GSTAT (spec/11). -/
def addrPlyGstat : Nat := 0x45012000
/-- Address of SKN_CTL (spec/12). -/
def addrSknCtl : Nat := 0x46000000
/-- Address of SKN_STATUS (spec/12). -/
def addrSknStatus : Nat := 0x46000004
/-- Address of SKN_TBCTL (spec/12). -/
def addrSknTbctl : Nat := 0x46000008
/-- Address of SKN_TBS (spec/12). -/
def addrSknTbs (i : Nat) : Nat := 0x46000010 + 0x4 * i
/-- Address of SKN_INC0 (spec/12). -/
def addrSknInc0 : Nat := 0x46000020
/-- Address of SKN_INC1 (spec/12). -/
def addrSknInc1 : Nat := 0x46000024
/-- Address of SKN_SLEW (spec/12). -/
def addrSknSlew : Nat := 0x46000028
/-- Address of SKN_SLEWN (spec/12). -/
def addrSknSlewn : Nat := 0x4600002C
/-- Address of SKN_STEP (spec/12). -/
def addrSknStep (i : Nat) : Nat := 0x46000030 + 0x4 * i
/-- Address of SKN_TCFG (spec/12). -/
def addrSknTcfg : Nat := 0x46000040
/-- Address of SKN_TSTAT (spec/12). -/
def addrSknTstat : Nat := 0x46000044
/-- Address of SKN_TQUAL (spec/12). -/
def addrSknTqual : Nat := 0x46000048
/-- Address of SKN_TSNEW (spec/12). -/
def addrSknTsnew (i : Nat) : Nat := 0x46000050 + 0x4 * i
/-- Address of SKN_CBASE (spec/12). -/
def addrSknCbase : Nat := 0x46000068
/-- Address of SKN_SNAPBASE (spec/12). -/
def addrSknSnapbase : Nat := 0x4600006C
/-- Address of SKN_CNT (spec/12). -/
def addrSknCnt (i : Nat) : Nat := 0x46000080 + 0x4 * i
/-- Address of SKN_ASYM (spec/12). -/
def addrSknAsym (p : Nat) : Nat := 0x46001000 + 0x4 * p
/-- Address of SKN_TSH (spec/12). -/
def addrSknTsh (p i w : Nat) : Nat := 0x46010000 + 0x100 * p + 0x10 * i + 0x4 * w
/-- Address of SKN_TSIN (spec/12). -/
def addrSknTsin (p k : Nat) : Nat := 0x46020000 + 0x20 * p + 0x4 * k
/-- Address of SKN_SCHLO (spec/12). -/
def addrSknSchlo (j : Nat) : Nat := 0x46030000 + 0x10 * j
/-- Address of SKN_SCHHI (spec/12). -/
def addrSknSchhi (j : Nat) : Nat := 0x46030004 + 0x10 * j
/-- Address of SKN_SCHA (spec/12). -/
def addrSknScha (j : Nat) : Nat := 0x46030008 + 0x10 * j
/-- Address of SKN_CST (spec/12). -/
def addrSknCst (c : Nat) : Nat := 0x46040000 + 0x4 * c
/-- Address of TNS_MAIN (spec/13). -/
def addrTnsMain (p k : Nat) : Nat := 0x47000000 + 0x1000 * p + 0x4 * k
/-- Address of TNS_PEND (spec/13). -/
def addrTnsPend (p k : Nat) : Nat := 0x47000020 + 0x1000 * p + 0x4 * k
/-- Address of TNS_PREV (spec/13). -/
def addrTnsPrev (p k : Nat) : Nat := 0x47000040 + 0x1000 * p + 0x4 * k
/-- Address of TNS_SHD (spec/13). -/
def addrTnsShd (p k : Nat) : Nat := 0x47000060 + 0x1000 * p + 0x4 * k
/-- Address of TNS_CTL (spec/13). -/
def addrTnsCtl (p : Nat) : Nat := 0x47000080 + 0x1000 * p
/-- Address of TNS_ST (spec/13). -/
def addrTnsSt (p : Nat) : Nat := 0x47000084 + 0x1000 * p
/-- Address of TNS_GSEQ (spec/13). -/
def addrTnsGseq (p : Nat) : Nat := 0x47000088 + 0x1000 * p
/-- Address of TNS_GRAD (spec/13). -/
def addrTnsGrad (p k : Nat) : Nat := 0x470000A0 + 0x1000 * p + 0x4 * k
/-- Address of TNS_SMM (spec/13). -/
def addrTnsSmm (p : Nat) : Nat := 0x470000C0 + 0x1000 * p
/-- Address of TNS_MSE (spec/13). -/
def addrTnsMse (p : Nat) : Nat := 0x470000C4 + 0x1000 * p
/-- Address of TNS_EBITS (spec/13). -/
def addrTnsEbits (p : Nat) : Nat := 0x470000C8 + 0x1000 * p
/-- Address of TNS_RSNAP (spec/13). -/
def addrTnsRsnap (p : Nat) : Nat := 0x470000CC + 0x1000 * p
/-- Address of TNS_CLR (spec/13). -/
def addrTnsClr (p : Nat) : Nat := 0x470000D0 + 0x1000 * p
/-- Address of TNS_AGEC (spec/13). -/
def addrTnsAgec (p : Nat) : Nat := 0x470000D4 + 0x1000 * p
/-- Address of TNS_DUET (spec/13). -/
def addrTnsDuet (p : Nat) : Nat := 0x470000D8 + 0x1000 * p
/-- Address of TNS_TXA (spec/13). -/
def addrTnsTxa (p : Nat) : Nat := 0x470000E0 + 0x1000 * p
/-- Address of TNS_TXP (spec/13). -/
def addrTnsTxp (p : Nat) : Nat := 0x470000E4 + 0x1000 * p
/-- Address of TNS_AGECTL (spec/13). -/
def addrTnsAgectl : Nat := 0x47100000
/-- Address of TNS_ROSTR (spec/13). -/
def addrTnsRostr (i : Nat) : Nat := 0x47100100 + 0x4 * i
/-- Address of TNS_ROREF (spec/13). -/
def addrTnsRoref (i : Nat) : Nat := 0x47100200 + 0x4 * i
/-- Address of TNS_ROBASE (spec/13). -/
def addrTnsRobase (i : Nat) : Nat := 0x47100300 + 0x4 * i
/-- Address of SNG_ECFG (spec/13). -/
def addrSngEcfg (p i : Nat) : Nat := 0x48000000 + 0x100 * p + 0x20 * i
/-- Address of SNG_EPAT (spec/13). -/
def addrSngEpat (p i j : Nat) : Nat := 0x48000004 + 0x100 * p + 0x20 * i + 0x4 * j
/-- Address of SNG_EPROB (spec/13). -/
def addrSngEprob (p i : Nat) : Nat := 0x4800000C + 0x100 * p + 0x20 * i
/-- Address of SNG_ELIM (spec/13). -/
def addrSngElim (p i : Nat) : Nat := 0x48000010 + 0x100 * p + 0x20 * i
/-- Address of SNG_ECNT (spec/13). -/
def addrSngEcnt (p i : Nat) : Nat := 0x48000014 + 0x100 * p + 0x20 * i
/-- Address of SNG_SEED (spec/13). -/
def addrSngSeed (p : Nat) : Nat := 0x48000080 + 0x100 * p
/-- Address of SNG_SKIP (spec/13). -/
def addrSngSkip (p : Nat) : Nat := 0x48000084 + 0x100 * p
/-- Address of SNG_CTL (spec/13). -/
def addrSngCtl : Nat := 0x48010000
/-- Address of SNG_AUDACK (spec/13). -/
def addrSngAudack : Nat := 0x48010004
/-- Address of SNG_ST (spec/13). -/
def addrSngSt : Nat := 0x48010008
/-- Address of TRD_STATUS (spec/14). -/
def addrTrdStatus : Nat := 0x49000000
/-- Address of TRD_SWFIRE (spec/14). -/
def addrTrdSwfire (w : Nat) : Nat := 0x49000010 + 0x4 * w
/-- Address of TRD_PLAT (spec/14). -/
def addrTrdPlat (w : Nat) : Nat := 0x49000100 + 0x4 * w
/-- Address of TRD_PCFG (spec/14). -/
def addrTrdPcfg (k : Nat) : Nat := 0x49000200 + 0x4 * k
/-- Address of TRD_PWORLD (spec/14). -/
def addrTrdPworld (w : Nat) : Nat := 0x49000400 + 0x4 * w
/-- Address of TRD_CWORLD (spec/14). -/
def addrTrdCworld (w : Nat) : Nat := 0x49000440 + 0x4 * w
/-- Address of TRD_GCTL (spec/14). -/
def addrTrdGctl (g : Nat) : Nat := 0x49000800 + 0x4 * g
/-- Address of TRD_CCFG (spec/14). -/
def addrTrdCcfg (c : Nat) : Nat := 0x49001000 + 0x10 * c
/-- Address of TRD_CST (spec/14). -/
def addrTrdCst (c : Nat) : Nat := 0x49001004 + 0x10 * c
/-- Address of TRD_CACK (spec/14). -/
def addrTrdCack (c : Nat) : Nat := 0x49001008 + 0x10 * c
/-- Address of TRD_CAP (spec/14). -/
def addrTrdCap (j i : Nat) : Nat := 0x49002000 + 0x10 * j + 0x4 * i
/-- Address of TRD_CAPST (spec/14). -/
def addrTrdCapst (j : Nat) : Nat := 0x49002008 + 0x10 * j
/-- Address of TRD_MAT (spec/14). -/
def addrTrdMat (c w : Nat) : Nat := 0x49010000 + 0x40 * c + 0x4 * w
/-- Address of PIN_STATUS (spec/14). -/
def addrPinStatus : Nat := 0x4A000000
/-- Address of PIN_OUT (spec/14). -/
def addrPinOut (w : Nat) : Nat := 0x4A000010 + 0x4 * w
/-- Address of PIN_SET (spec/14). -/
def addrPinSet (w : Nat) : Nat := 0x4A000020 + 0x4 * w
/-- Address of PIN_CLR (spec/14). -/
def addrPinClr (w : Nat) : Nat := 0x4A000030 + 0x4 * w
/-- Address of PIN_TGL (spec/14). -/
def addrPinTgl (w : Nat) : Nat := 0x4A000040 + 0x4 * w
/-- Address of PIN_IN (spec/14). -/
def addrPinIn (w : Nat) : Nat := 0x4A000050 + 0x4 * w
/-- Address of PIN_CONFL (spec/14). -/
def addrPinConfl (w : Nat) : Nat := 0x4A000060 + 0x4 * w
/-- Address of PIN_IDEF (spec/14). -/
def addrPinIdef (w : Nat) : Nat := 0x4A000080 + 0x4 * w
/-- Address of PIN_BANK (spec/14). -/
def addrPinBank (k : Nat) : Nat := 0x4A0000A0 + 0x4 * k
/-- Address of PIN_CFG (spec/14). -/
def addrPinCfg (i : Nat) : Nat := 0x4A000100 + 0x4 * i
/-- Address of PIN_OWN (spec/14). -/
def addrPinOwn (i : Nat) : Nat := 0x4A000300 + 0x4 * i
/-- Address of PIN_TCTL (spec/14). -/
def addrPinTctl (i : Nat) : Nat := 0x4A000400 + 0x20 * i
/-- Address of PIN_TQST (spec/14). -/
def addrPinTqst (i : Nat) : Nat := 0x4A000404 + 0x20 * i
/-- Address of PIN_TCAP (spec/14). -/
def addrPinTcap (i k : Nat) : Nat := 0x4A000408 + 0x20 * i + 0x4 * k
/-- Address of SEC_STATUS (spec/15). -/
def addrSecStatus : Nat := 0x4B000000
/-- Address of SEC_GRANT (spec/15). -/
def addrSecGrant : Nat := 0x4B000004
/-- Address of SEC_CMDDONE (spec/15). -/
def addrSecCmddone : Nat := 0x4B000008
/-- Address of SEC_SVN (spec/15). -/
def addrSecSvn : Nat := 0x4B000010
/-- Address of SEC_BOOTCNT (spec/15). -/
def addrSecBootcnt : Nat := 0x4B000014
/-- Address of SEC_SVCB (spec/15). -/
def addrSecSvcb : Nat := 0x4B000018
/-- Address of SEC_OPDB (spec/15). -/
def addrSecOpdb (n : Nat) : Nat := 0x4B000100 + 0x4 * n
/-- Address of SEC_OPST (spec/15). -/
def addrSecOpst (n : Nat) : Nat := 0x4B000200 + 0x4 * n
/-- Address of SEC_MBXIN (spec/15). -/
def addrSecMbxin (j : Nat) : Nat := 0x4B001000 + 0x4 * j
/-- Address of SEC_MBXOUT (spec/15). -/
def addrSecMbxout (j : Nat) : Nat := 0x4B002000 + 0x4 * j
/-- Address of SEC_MBXCTL (spec/15). -/
def addrSecMbxctl : Nat := 0x4B003000
/-- Address of SEC_MBXRSP (spec/15). -/
def addrSecMbxrsp : Nat := 0x4B003004
/-- Address of SEC_AUDSEQ (spec/15). -/
def addrSecAudseq (i : Nat) : Nat := 0x4B004000 + 0x4 * i
/-- Address of SEC_AUDHEAD (spec/15). -/
def addrSecAudhead (i : Nat) : Nat := 0x4B004010 + 0x4 * i
/-- Address of SEC_AUDCTR (spec/15). -/
def addrSecAudctr : Nat := 0x4B004040
/-- Address of SEC_AUDBASE (spec/15). -/
def addrSecAudbase : Nat := 0x4B004044
/-- Address of SEC_KSLOT0 (spec/15). -/
def addrSecKslot0 (k : Nat) : Nat := 0x4B010000 + 0x8 * k
/-- Address of SEC_KSLOT1 (spec/15). -/
def addrSecKslot1 (k : Nat) : Nat := 0x4B010004 + 0x8 * k
/-- Address of HAP_CTL (spec/16). -/
def addrHapCtl (c : Nat) : Nat := 0x4C000000 + 0x100 * c
/-- Address of HAP_STATUS (spec/16). -/
def addrHapStatus (c : Nat) : Nat := 0x4C000004 + 0x100 * c
/-- Address of HAP_TAGQ (spec/16). -/
def addrHapTagq (c : Nat) : Nat := 0x4C000008 + 0x100 * c
/-- Address of HAP_CNT (spec/16). -/
def addrHapCnt (c i : Nat) : Nat := 0x4C000040 + 0x100 * c + 0x4 * i
/-- Address of HAP_CNTCLR (spec/16). -/
def addrHapCntclr (c : Nat) : Nat := 0x4C000060 + 0x100 * c
/-- Address of HAP_GSTAT (spec/16). -/
def addrHapGstat : Nat := 0x4C001000
/-- Address of HAP_CFG (spec/16). -/
def addrHapCfg : Nat := 0x4C001004
/-- Address of HAP_WIN (spec/16). -/
def addrHapWin (w : Nat) : Nat := 0x4C001100 + 0x4 * w
/-- Address of HAP_MCH (spec/16). -/
def addrHapMch (k : Nat) : Nat := 0x4C001200 + 0x4 * k
/-- Address of HAP_IADDR (spec/16). -/
def addrHapIaddr (v : Nat) : Nat := 0x4C002000 + 0x10 * v
/-- Address of HAP_IADDRH (spec/16). -/
def addrHapIaddrh (v : Nat) : Nat := 0x4C002004 + 0x10 * v
/-- Address of HAP_IDATA (spec/16). -/
def addrHapIdata (v : Nat) : Nat := 0x4C002008 + 0x10 * v
/-- Address of HAP_ICTL (spec/16). -/
def addrHapIctl (v : Nat) : Nat := 0x4C00200C + 0x10 * v
/-- Address of HAP_IARM (spec/16). -/
def addrHapIarm (w : Nat) : Nat := 0x4C003000 + 0x4 * w
/-- Address of HAP_IFIRE (spec/16). -/
def addrHapIfire (w : Nat) : Nat := 0x4C003020 + 0x4 * w
/-- Address of CXP_CFG (spec/16). -/
def addrCxpCfg (j : Nat) : Nat := 0x4C004000 + 0x4 * j
/-- Address of CXP_CNT (spec/16). -/
def addrCxpCnt : Nat := 0x4C004010
/-- Address of PWR_CTL (spec/17). -/
def addrPwrCtl : Nat := 0x4D000000
/-- Address of PWR_STATUS (spec/17). -/
def addrPwrStatus : Nat := 0x4D000004
/-- Address of PWR_WAKE (spec/17). -/
def addrPwrWake : Nat := 0x4D000008
/-- Address of PWR_WCNT (spec/17). -/
def addrPwrWcnt : Nat := 0x4D00000C
/-- Address of CLK_WDIV (spec/17). -/
def addrClkWdiv : Nat := 0x4D001000
/-- Address of CLK_STATUS (spec/17). -/
def addrClkStatus : Nat := 0x4D001004
/-- Address of RST_CAUSE (spec/17). -/
def addrRstCause : Nat := 0x4D002000
/-- Address of RST_CMD (spec/17). -/
def addrRstCmd : Nat := 0x4D002004
/-- Address of PWR_TEMP (spec/18). -/
def addrPwrTemp (i : Nat) : Nat := 0x4D000100 + 0x4 * i
/-- Address of PWR_TALRM (spec/18). -/
def addrPwrTalrm : Nat := 0x4D000120
/-- Address of DBG_STATUS (spec/19). -/
def addrDbgStatus : Nat := 0x4F000000
/-- Address of DBG_TSEL (spec/19). -/
def addrDbgTsel : Nat := 0x4F000004
/-- Address of DBG_CMD (spec/19). -/
def addrDbgCmd : Nat := 0x4F000008
/-- Address of DBG_RSEL (spec/19). -/
def addrDbgRsel : Nat := 0x4F000010
/-- Address of DBG_RDATA (spec/19). -/
def addrDbgRdata : Nat := 0x4F000014
/-- Address of DBG_MADDR (spec/19). -/
def addrDbgMaddr : Nat := 0x4F000020
/-- Address of DBG_MDATA (spec/19). -/
def addrDbgMdata : Nat := 0x4F000024
/-- Address of DBG_TRCCTL (spec/19). -/
def addrDbgTrcctl : Nat := 0x4F000030
/-- Address of DBG_TRCST (spec/19). -/
def addrDbgTrcst : Nat := 0x4F000034
/-- Address of DBG_TRC0 (spec/19). -/
def addrDbgTrc0 (i : Nat) : Nat := 0x4F000100 + 0x10 * i
/-- Address of DBG_TRC1 (spec/19). -/
def addrDbgTrc1 (i : Nat) : Nat := 0x4F000104 + 0x10 * i
/-- Address of DBG_TRC2 (spec/19). -/
def addrDbgTrc2 (i : Nat) : Nat := 0x4F000108 + 0x10 * i
/-- Address of DBG_TRC3 (spec/19). -/
def addrDbgTrc3 (i : Nat) : Nat := 0x4F00010C + 0x10 * i

def fldWhlStatus_GATED : Bits := ⟨3, 3⟩
def fldWhlStatus_HALF_FRAME : Bits := ⟨2, 2⟩
def fldWhlStatus_STALL : Bits := ⟨1, 1⟩
def fldWhlStatus_RSVD_WR : Bits := ⟨0, 0⟩
def fldWhlSlotctl_HOLD : Bits := ⟨0, 0⟩
def fldWhlSlotst_PEND : Bits := ⟨16, 16⟩
def fldWhlSlotst_ENTRY : Bits := ⟨13, 8⟩
def fldWhlSlotst_REASON : Bits := ⟨2, 1⟩
def fldWhlSlotst_REJ : Bits := ⟨0, 0⟩
def fldWhlRound_ROUND : Bits := ⟨31, 0⟩
def fldWhlQwatch_COUNT : Bits := ⟨31, 16⟩
def fldWhlQwatch_ALERT : Bits := ⟨1, 1⟩
def fldWhlQwatch_EN : Bits := ⟨0, 0⟩
def fldWhlNote_WORD : Bits := ⟨31, 0⟩
def fldWhlNotectl_POP : Bits := ⟨0, 0⟩
def fldWhlNotest_LOST : Bits := ⟨31, 24⟩
def fldWhlNotest_COUNT : Bits := ⟨7, 0⟩
def fldWhlEsc_WORD : Bits := ⟨31, 0⟩
def fldWhlEscctl_POP : Bits := ⟨0, 0⟩
def fldWhlEscst_LOST : Bits := ⟨31, 24⟩
def fldWhlEscst_COUNT : Bits := ⟨7, 0⟩
def fldWhlSlot_USE : Bits := ⟨7, 7⟩
def fldWhlSlot_THREAD : Bits := ⟨4, 0⟩
def fldWhlSlota_USE : Bits := ⟨7, 7⟩
def fldWhlSlota_THREAD : Bits := ⟨4, 0⟩
def fldWhlTctl_CLRF : Bits := ⟨3, 3⟩
def fldWhlTctl_NODON : Bits := ⟨2, 2⟩
def fldWhlTctl_HALT : Bits := ⟨1, 1⟩
def fldWhlTctl_START : Bits := ⟨0, 0⟩
def fldWhlTstat_TURNS : Bits := ⟨31, 16⟩
def fldWhlTstat_SBCNT : Bits := ⟨10, 8⟩
def fldWhlTstat_WAIT : Bits := ⟨6, 4⟩
def fldWhlTstat_STATE : Bits := ⟨2, 0⟩
def fldWhlTpc_PC : Bits := ⟨31, 2⟩
def fldWhlEvpend_PEND : Bits := ⟨31, 0⟩
def fldWhlDllo_DL : Bits := ⟨31, 0⟩
def fldWhlDlhi_DL : Bits := ⟨31, 0⟩
def fldWhlTshare_BUFCEIL : Bits := ⟨27, 16⟩
def fldWhlTshare_BOBCEIL : Bits := ⟨11, 0⟩
def fldWhlTuse_BUF : Bits := ⟨27, 16⟩
def fldWhlTuse_BOBS : Bits := ⟨11, 0⟩
def fldWhlTexc_BRKSTOP : Bits := ⟨2, 2⟩
def fldWhlTexc_LSEOV : Bits := ⟨1, 1⟩
def fldWhlTexc_LSEP : Bits := ⟨0, 0⟩
def fldWhlChcfg_AGE : Bits := ⟨23, 16⟩
def fldWhlChcfg_RCV : Bits := ⟨10, 6⟩
def fldWhlChcfg_SND : Bits := ⟨5, 1⟩
def fldWhlChcfg_EN : Bits := ⟨0, 0⟩
def fldWhlChsts_RBLK : Bits := ⟨7, 7⟩
def fldWhlChsts_SBLK : Bits := ⟨6, 6⟩
def fldWhlChsts_HF : Bits := ⟨5, 5⟩
def fldWhlChsts_ERR : Bits := ⟨4, 4⟩
def fldWhlChsts_OPEN : Bits := ⟨3, 3⟩
def fldWhlChsts_FILL : Bits := ⟨2, 0⟩
def fldWhlChctl_FLUSH : Bits := ⟨0, 0⟩
def fldWhlXcfg_AGE : Bits := ⟨31, 24⟩
def fldWhlXcfg_PX : Bits := ⟨16, 13⟩
def fldWhlXcfg_PWH : Bits := ⟨12, 7⟩
def fldWhlXcfg_THR : Bits := ⟨6, 2⟩
def fldWhlXcfg_DIR : Bits := ⟨1, 1⟩
def fldWhlXcfg_EN : Bits := ⟨0, 0⟩
def fldWhlXsts_LINKED : Bits := ⟨9, 9⟩
def fldWhlXsts_RBLK : Bits := ⟨8, 8⟩
def fldWhlXsts_SBLK : Bits := ⟨7, 7⟩
def fldWhlXsts_HF : Bits := ⟨6, 6⟩
def fldWhlXsts_ERR : Bits := ⟨5, 5⟩
def fldWhlXsts_OPEN : Bits := ⟨4, 4⟩
def fldWhlXsts_FILL : Bits := ⟨3, 0⟩
def fldWhlXctl_FLUSH : Bits := ⟨0, 0⟩
def fldWhlEvsrc_IE : Bits := ⟨31, 31⟩
def fldWhlEvsrc_CLASS : Bits := ⟨19, 16⟩
def fldWhlEvsrc_INDEX : Bits := ⟨15, 0⟩
def fldMemRgnbase_BASE : Bits := ⟨31, 12⟩
def fldMemRgnlim_LIMIT : Bits := ⟨31, 12⟩
def fldMemRgnattr_SPACE : Bits := ⟨8, 8⟩
def fldMemRgnattr_EN : Bits := ⟨6, 6⟩
def fldMemRgnattr_X : Bits := ⟨5, 5⟩
def fldMemRgnattr_W : Bits := ⟨4, 4⟩
def fldMemRgnattr_R : Bits := ⟨3, 3⟩
def fldMemRgnattr_LVU : Bits := ⟨2, 2⟩
def fldMemRgnattr_LVS : Bits := ⟨1, 1⟩
def fldMemRgnattr_WORLD : Bits := ⟨0, 0⟩
def fldMemCpbase_BASE : Bits := ⟨31, 16⟩
def fldMemCplim_LIMIT : Bits := ⟨31, 16⟩
def fldMemCpattr_V : Bits := ⟨31, 31⟩
def fldMemCpattr_WHORL : Bits := ⟨13, 8⟩
def fldMemCpattr_USE : Bits := ⟨3, 0⟩
def fldMemEccst_CECNT : Bits := ⟨31, 16⟩
def fldMemEccst_UECNT : Bits := ⟨15, 8⟩
def fldMemEccst_RSVD_WR : Bits := ⟨4, 4⟩
def fldMemEccst_CONS : Bits := ⟨3, 3⟩
def fldMemEccst_UEOV : Bits := ⟨2, 2⟩
def fldMemEccst_UE : Bits := ⟨1, 1⟩
def fldMemEccst_CE : Bits := ⟨0, 0⟩
def fldMemCelog_ADDR : Bits := ⟨31, 0⟩
def fldMemUelog_ADDR : Bits := ⟨31, 0⟩
def fldMemUemst_MASTER : Bits := ⟨7, 0⟩
def fldMemEccctl_CLR : Bits := ⟨0, 0⟩
def fldMemScrub_ADDR : Bits := ⟨31, 2⟩
def fldMemRawaddr_ADDR : Bits := ⟨31, 2⟩
def fldMemRawlo_DATA : Bits := ⟨31, 0⟩
def fldMemRawhi_DATA : Bits := ⟨31, 0⟩
def fldMemRawchk_CHK : Bits := ⟨7, 0⟩
def fldMemRawctl_WR : Bits := ⟨1, 1⟩
def fldMemRawctl_RD : Bits := ⟨0, 0⟩
def fldMemCremap_VALID : Bits := ⟨31, 31⟩
def fldMemCremap_SRC : Bits := ⟨30, 30⟩
def fldMemCremap_ROW : Bits := ⟨10, 0⟩
def fldMemLremap_VALID : Bits := ⟨31, 31⟩
def fldMemLremap_SRC : Bits := ⟨30, 30⟩
def fldMemLremap_ROW : Bits := ⟨6, 0⟩
def fldMemRemapctl_DUP : Bits := ⟨2, 2⟩
def fldMemRemapctl_REFUSED : Bits := ⟨1, 1⟩
def fldMemRemapctl_LOCK : Bits := ⟨0, 0⟩
def fldBobDb_REL : Bits := ⟨31, 31⟩
def fldBobDb_COUNT : Bits := ⟨16, 0⟩
def fldBobBctl_OVF : Bits := ⟨5, 5⟩
def fldBobBctl_DSQ : Bits := ⟨4, 4⟩
def fldBobBctl_ENQ : Bits := ⟨3, 3⟩
def fldBobBctl_STATE : Bits := ⟨2, 1⟩
def fldBobBctl_EN : Bits := ⟨0, 0⟩
def fldBobStage_WORD : Bits := ⟨31, 0⟩
def fldBobSetcmd_OP : Bits := ⟨17, 16⟩
def fldBobSetcmd_BOB : Bits := ⟨15, 0⟩
def fldBobSetst_ERR : Bits := ⟨1, 1⟩
def fldBobSetst_BUSY : Bits := ⟨0, 0⟩
def fldBobStatus_RSVD_WR : Bits := ⟨0, 0⟩
def fldBobRetire_BOB : Bits := ⟨15, 0⟩
def fldBobRetidx_INDEX : Bits := ⟨31, 0⟩
def fldBobPart_COUNT : Bits := ⟨31, 16⟩
def fldBobPart_BASE : Bits := ⟨15, 0⟩
def fldBobPscnt_SCNT : Bits := ⟨15, 0⟩
def fldBobLwlo_BASE : Bits := ⟨31, 8⟩
def fldBobLwhi_LOC : Bits := ⟨31, 31⟩
def fldBobLwhi_BASEH : Bits := ⟨19, 0⟩
def fldBobLwsz_SIZE : Bits := ⟨23, 0⟩
def fldBobLwq_QUOTA : Bits := ⟨7, 0⟩
def fldLgrBase_BASE : Bits := ⟨31, 16⟩
def fldLgrStatus_VCNT : Bits := ⟨31, 16⟩
def fldLgrStatus_ADJREF : Bits := ⟨4, 4⟩
def fldLgrStatus_LATEACK : Bits := ⟨3, 3⟩
def fldLgrStatus_OVR : Bits := ⟨2, 2⟩
def fldLgrStatus_VIOL : Bits := ⟨1, 1⟩
def fldLgrStatus_RSVD_WR : Bits := ⟨0, 0⟩
def fldLgrVidx_SET : Bits := ⟨12, 0⟩
def fldLgrAdjset_SET : Bits := ⟨12, 0⟩
def fldLgrAdjamt_AMT : Bits := ⟨31, 0⟩
def fldLgrGstat_GUAR : Bits := ⟨31, 31⟩
def fldLgrGstat_LEFT : Bits := ⟨4, 4⟩
def fldLgrGstat_MAJ : Bits := ⟨3, 3⟩
def fldLgrGstat_OVR : Bits := ⟨2, 2⟩
def fldLgrGstat_UE : Bits := ⟨1, 1⟩
def fldLgrOvrset_SET : Bits := ⟨12, 0⟩
def fldLgrOvrval_VAL : Bits := ⟨31, 0⟩
def fldLgrOvrcmd_GO : Bits := ⟨0, 0⟩
def fldLgrPattr_KIND : Bits := ⟨1, 1⟩
def fldLgrPattr_WORLD : Bits := ⟨0, 0⟩
def fldLnkCtl_PRBS : Bits := ⟨7, 7⟩
def fldLnkCtl_AUTO : Bits := ⟨6, 6⟩
def fldLnkCtl_RXRDY : Bits := ⟨5, 5⟩
def fldLnkCtl_DSQ : Bits := ⟨4, 4⟩
def fldLnkCtl_ENQ : Bits := ⟨3, 3⟩
def fldLnkCtl_STATE : Bits := ⟨2, 1⟩
def fldLnkCtl_EN : Bits := ⟨0, 0⟩
def fldLnkState_PARTNER : Bits := ⟨27, 16⟩
def fldLnkState_PVALID : Bits := ⟨15, 15⟩
def fldLnkState_KEYEXH : Bits := ⟨11, 11⟩
def fldLnkState_SFLOCK : Bits := ⟨10, 10⟩
def fldLnkState_CWLOCK : Bits := ⟨9, 9⟩
def fldLnkState_GAP : Bits := ⟨8, 8⟩
def fldLnkState_EPRX : Bits := ⟨7, 6⟩
def fldLnkState_EPTX : Bits := ⟨5, 4⟩
def fldLnkState_RESEC : Bits := ⟨3, 3⟩
def fldLnkState_LSTATE : Bits := ⟨2, 0⟩
def fldLnkStatus_DLGF : Bits := ⟨10, 10⟩
def fldLnkStatus_IDCONF : Bits := ⟨9, 9⟩
def fldLnkStatus_CRDERR : Bits := ⟨8, 8⟩
def fldLnkStatus_ACKERR : Bits := ⟨7, 7⟩
def fldLnkStatus_RMAXX : Bits := ⟨6, 6⟩
def fldLnkStatus_DOWNEV : Bits := ⟨5, 5⟩
def fldLnkStatus_RETRAINEV : Bits := ⟨4, 4⟩
def fldLnkStatus_TAGF : Bits := ⟨3, 3⟩
def fldLnkStatus_UNC : Bits := ⟨2, 2⟩
def fldLnkStatus_CTLOV : Bits := ⟨1, 1⟩
def fldLnkStatus_RSVD_WR : Bits := ⟨0, 0⟩
def fldLnkCfg_DOWNT : Bits := ⟨31, 24⟩
def fldLnkCfg_RMAX : Bits := ⟨23, 20⟩
def fldLnkCfg_RTO : Bits := ⟨19, 12⟩
def fldLnkCfg_NAKT : Bits := ⟨11, 8⟩
def fldLnkCfg_CTLMAX : Bits := ⟨7, 0⟩
def fldLnkTxnext_LSEQ : Bits := ⟨19, 0⟩
def fldLnkTxack_LSEQ : Bits := ⟨19, 0⟩
def fldLnkEseq_LSEQ : Bits := ⟨19, 0⟩
def fldLnkScnttx_SCNT : Bits := ⟨31, 0⟩
def fldLnkScntrx_SCNT : Bits := ⟨31, 0⟩
def fldLnkRply_UNITS : Bits := ⟨9, 0⟩
def fldLnkCnt_COUNT : Bits := ⟨31, 0⟩
def fldLnkCntclr_CLR : Bits := ⟨0, 0⟩
def fldLnkCrtx_CCNT : Bits := ⟨23, 0⟩
def fldLnkCrrx_CCNT : Bits := ⟨23, 0⟩
def fldLnkCtxbuf_DATA : Bits := ⟨31, 0⟩
def fldLnkCtxhdr_DSEQ : Bits := ⟨31, 16⟩
def fldLnkCtxhdr_FRAG : Bits := ⟨15, 9⟩
def fldLnkCtxhdr_FULL : Bits := ⟨8, 8⟩
def fldLnkCtxhdr_SUB : Bits := ⟨7, 0⟩
def fldLnkCtxhdr2_LAST : Bits := ⟨6, 0⟩
def fldLnkCtxcmd_BUSY : Bits := ⟨1, 1⟩
def fldLnkCtxcmd_GO : Bits := ⟨0, 0⟩
def fldLnkCrxst_HEAD : Bits := ⟨11, 8⟩
def fldLnkCrxst_COUNT : Bits := ⟨4, 0⟩
def fldLnkCrxctl_POP : Bits := ⟨0, 0⟩
def fldLnkCrxbuf_WORD : Bits := ⟨31, 0⟩
def fldRteCandlo_C3_C0 : Bits := ⟨31, 0⟩
def fldRteCandhi_C7_C4 : Bits := ⟨31, 0⟩
def fldRtePatlo_S9_S0 : Bits := ⟨29, 0⟩
def fldRtePathi_V : Bits := ⟨31, 31⟩
def fldRtePathi_PLEN : Bits := ⟨23, 20⟩
def fldRtePathi_S15_S10 : Bits := ⟨17, 0⟩
def fldRteStep_STEP : Bits := ⟨3, 0⟩
def fldRteId_SET : Bits := ⟨31, 31⟩
def fldRteId_DEVID : Bits := ⟨11, 0⟩
def fldRteStatus_RQFULL : Bits := ⟨7, 7⟩
def fldRteStatus_CTXFULL : Bits := ⟨6, 6⟩
def fldRteStatus_TPTFULL : Bits := ⟨5, 5⟩
def fldRteStatus_WINERR : Bits := ⟨4, 4⟩
def fldRteStatus_PHASE : Bits := ⟨3, 3⟩
def fldRteStatus_NOROUTE : Bits := ⟨2, 2⟩
def fldRteStatus_ORPH : Bits := ⟨1, 1⟩
def fldRteStatus_RSVD_WR : Bits := ⟨0, 0⟩
def fldRteCfg_STALLT : Bits := ⟨31, 24⟩
def fldRteCfg_ACKT : Bits := ⟨23, 16⟩
def fldRteCfg_ACKN : Bits := ⟨15, 12⟩
def fldRteCfg_ACKTC : Bits := ⟨10, 8⟩
def fldRteCfg_ORD : Bits := ⟨6, 0⟩
def fldRteRq_QUOTA : Bits := ⟨7, 0⟩
def fldRteLrsv_RSV6_RSV0 : Bits := ⟨27, 0⟩
def fldRteRbase_BASE : Bits := ⟨31, 16⟩
def fldRteStallbob_EN : Bits := ⟨31, 31⟩
def fldRteStallbob_BOB : Bits := ⟨15, 0⟩
def fldRteCtxcmd_OP : Bits := ⟨31, 30⟩
def fldRteCtxcmd_CTX : Bits := ⟨13, 0⟩
def fldRtePcfg_ROLE : Bits := ⟨31, 30⟩
def fldRtePcfg_THQ : Bits := ⟨7, 0⟩
def fldRteCnt_COUNT : Bits := ⟨31, 0⟩
def fldRteCntclr_CLR : Bits := ⟨0, 0⟩
def fldReelCfg_LEN : Bits := ⟨11, 0⟩
def fldReelPer_PER : Bits := ⟨19, 0⟩
def fldReelCfgtb_TB : Bits := ⟨31, 0⟩
def fldReelCfgcmd_ARM : Bits := ⟨0, 0⟩
def fldReelCfgst_ALEN : Bits := ⟨27, 16⟩
def fldReelCfgst_ARMED : Bits := ⟨1, 1⟩
def fldReelCfgst_RSVD_WR : Bits := ⟨0, 0⟩
def fldReelAper_PER : Bits := ⟨19, 0⟩
def fldReelEseq_USE : Bits := ⟨3, 3⟩
def fldReelEseq_TC : Bits := ⟨2, 0⟩
def fldReelEseqa_USE : Bits := ⟨3, 3⟩
def fldReelEseqa_TC : Bits := ⟨2, 0⟩
def fldReelAbase_BASE : Bits := ⟨31, 6⟩
def fldReelSbase_BASE : Bits := ⟨31, 6⟩
def fldReelPctl_ESQHOLD : Bits := ⟨2, 2⟩
def fldReelPctl_RUSE : Bits := ⟨1, 1⟩
def fldReelPctl_SWAP : Bits := ⟨0, 0⟩
def fldReelPst_SLOT : Bits := ⟨27, 16⟩
def fldReelPst_GOBACK : Bits := ⟨3, 3⟩
def fldReelPst_ESQPEND : Bits := ⟨2, 2⟩
def fldReelPst_BADENT : Bits := ⟨1, 1⟩
def fldReelTq_DEPTH : Bits := ⟨15, 0⟩
def fldReelTsnap_VALUE : Bits := ⟨31, 0⟩
def fldDrfCtl_DSQ : Bits := ⟨4, 4⟩
def fldDrfCtl_ENQ : Bits := ⟨3, 3⟩
def fldDrfCtl_STATE : Bits := ⟨2, 1⟩
def fldDrfCtl_EN : Bits := ⟨0, 0⟩
def fldDrfOwn_HOST : Bits := ⟨2, 2⟩
def fldDrfOwn_WORLDS : Bits := ⟨1, 0⟩
def fldDrfStatus_QCNT : Bits := ⟨15, 12⟩
def fldDrfStatus_OVSM : Bits := ⟨11, 11⟩
def fldDrfStatus_RUN : Bits := ⟨10, 8⟩
def fldDrfStatus_GOREF : Bits := ⟨1, 1⟩
def fldDrfStatus_RSVD_WR : Bits := ⟨0, 0⟩
def fldDrfListlo_ADDR : Bits := ⟨31, 6⟩
def fldDrfListhi_LOC : Bits := ⟨20, 20⟩
def fldDrfListhi_ADDRH : Bits := ⟨19, 0⟩
def fldDrfGo_GO : Bits := ⟨0, 0⟩
def fldDrfCmd_CLRF : Bits := ⟨3, 3⟩
def fldDrfCmd_ABORT : Bits := ⟨2, 2⟩
def fldDrfCmd_RESUME : Bits := ⟨1, 1⟩
def fldDrfCmd_PAUSE : Bits := ⟨0, 0⟩
def fldDrfFcmd_ADDR : Bits := ⟨31, 0⟩
def fldDrfFdet_DETAIL : Bits := ⟨7, 0⟩
def fldDrfFidx_J1 : Bits := ⟨31, 16⟩
def fldDrfFidx_J0 : Bits := ⟨15, 0⟩
def fldDrfFidx2_J2 : Bits := ⟨15, 0⟩
def fldDrfFaddr_ADDR : Bits := ⟨31, 0⟩
def fldDrfCur_ADDR : Bits := ⟨31, 0⟩
def fldDrfDone_COUNT : Bits := ⟨31, 0⟩
def fldDrfStgbase_BASE : Bits := ⟨31, 12⟩
def fldDrfStgsz_SIZE : Bits := ⟨8, 0⟩
def fldDrfSvcctl_EN : Bits := ⟨31, 31⟩
def fldDrfSvcctl_TXB : Bits := ⟨30, 16⟩
def fldDrfSvcctl_SBOB : Bits := ⟨15, 0⟩
def fldDrfSvcwlo_BASE : Bits := ⟨31, 12⟩
def fldDrfSvcwhi_LIMIT : Bits := ⟨31, 12⟩
def fldDrfEvw_WHORL : Bits := ⟨5, 0⟩
def fldDrfCnt_COUNT : Bits := ⟨31, 0⟩
def fldDrfCntclr_CLR : Bits := ⟨0, 0⟩
def fldPlyCtl_DSQ : Bits := ⟨4, 4⟩
def fldPlyCtl_ENQ : Bits := ⟨3, 3⟩
def fldPlyCtl_STATE : Bits := ⟨2, 1⟩
def fldPlyCtl_EN : Bits := ⟨0, 0⟩
def fldPlyOwn_PIN : Bits := ⟨2, 2⟩
def fldPlyOwn_WORLDS : Bits := ⟨1, 0⟩
def fldPlyStatus_REQW : Bits := ⟨31, 28⟩
def fldPlyStatus_QCNT : Bits := ⟨19, 18⟩
def fldPlyStatus_RUN : Bits := ⟨17, 16⟩
def fldPlyStatus_BADIN : Bits := ⟨7, 7⟩
def fldPlyStatus_INWAIT : Bits := ⟨6, 6⟩
def fldPlyStatus_GOV : Bits := ⟨5, 5⟩
def fldPlyStatus_QS : Bits := ⟨4, 4⟩
def fldPlyStatus_OF : Bits := ⟨3, 3⟩
def fldPlyStatus_NV : Bits := ⟨2, 2⟩
def fldPlyStatus_RSVD_WR : Bits := ⟨0, 0⟩
def fldPlyDone_COUNT : Bits := ⟨31, 0⟩
def fldPlyFdet_DETAIL : Bits := ⟨7, 0⟩
def fldPlyFaddr_ADDR : Bits := ⟨31, 0⟩
def fldPlyCmd_ABORT : Bits := ⟨1, 1⟩
def fldPlyCmd_CLRF : Bits := ⟨0, 0⟩
def fldPlyEvw_WHORL : Bits := ⟨5, 0⟩
def fldPlyFence_PEND : Bits := ⟨31, 24⟩
def fldPlyFence_COUNT : Bits := ⟨23, 16⟩
def fldPlyFence_FID : Bits := ⟨15, 0⟩
def fldPlyCnt_COUNT : Bits := ⟨31, 0⟩
def fldPlyCntclr_CLR : Bits := ⟨0, 0⟩
def fldPlyRba_BASE : Bits := ⟨31, 6⟩
def fldPlyRbb_BASE : Bits := ⟨31, 6⟩
def fldPlyRbsz_WORLD : Bits := ⟨31, 31⟩
def fldPlyRbsz_SIZE : Bits := ⟨20, 0⟩
def fldPlyRbst_BUSY : Bits := ⟨17, 17⟩
def fldPlyRbst_FRONT : Bits := ⟨16, 16⟩
def fldPlyRbst_FLIPCNT : Bits := ⟨15, 0⟩
def fldPlyCgctl_WORLD : Bits := ⟨31, 31⟩
def fldPlyCgctl_ARMED : Bits := ⟨30, 30⟩
def fldPlyCgctl_AUTO : Bits := ⟨29, 29⟩
def fldPlyCgctl_SLIP : Bits := ⟨28, 28⟩
def fldPlyCgctl_DEFER : Bits := ⟨27, 27⟩
def fldPlyCgctl_EVW : Bits := ⟨21, 16⟩
def fldPlyCgctl_EVB : Bits := ⟨15, 0⟩
def fldPlyCgb_V3 : Bits := ⟨31, 31⟩
def fldPlyCgb_BUF3 : Bits := ⟨29, 24⟩
def fldPlyCgb_V2 : Bits := ⟨23, 23⟩
def fldPlyCgb_BUF2 : Bits := ⟨21, 16⟩
def fldPlyCgb_V1 : Bits := ⟨15, 15⟩
def fldPlyCgb_BUF1 : Bits := ⟨13, 8⟩
def fldPlyCgb_V0 : Bits := ⟨7, 7⟩
def fldPlyCgb_BUF0 : Bits := ⟨5, 0⟩
def fldPlyCgf_V : Bits := ⟨31, 31⟩
def fldPlyCgf_UNIT : Bits := ⟨27, 24⟩
def fldPlyCgf_COUNT : Bits := ⟨23, 16⟩
def fldPlyCgf_FID : Bits := ⟨15, 0⟩
def fldPlyCgcnt_FLIPS : Bits := ⟨31, 0⟩
def fldPlyGstat_RSVD_WR : Bits := ⟨0, 0⟩
def fldSknCtl_DSQ : Bits := ⟨4, 4⟩
def fldSknCtl_ENQ : Bits := ⟨3, 3⟩
def fldSknCtl_STATE : Bits := ⟨2, 1⟩
def fldSknCtl_EN : Bits := ⟨0, 0⟩
def fldSknStatus_DESCW : Bits := ⟨31, 28⟩
def fldSknStatus_STALE : Bits := ⟨3, 3⟩
def fldSknStatus_STEPPED : Bits := ⟨2, 2⟩
def fldSknStatus_LATE : Bits := ⟨1, 1⟩
def fldSknStatus_RSVD_WR : Bits := ⟨0, 0⟩
def fldSknTbctl_STEP : Bits := ⟨1, 1⟩
def fldSknTbctl_SNAP : Bits := ⟨0, 0⟩
def fldSknTbs_VALUE : Bits := ⟨31, 0⟩
def fldSknInc0_INC : Bits := ⟨31, 0⟩
def fldSknInc1_INC : Bits := ⟨11, 0⟩
def fldSknSlew_AMT : Bits := ⟨31, 0⟩
def fldSknSlewn_N : Bits := ⟨23, 0⟩
def fldSknStep_AMT : Bits := ⟨31, 0⟩
def fldSknTcfg_ROOT : Bits := ⟨31, 31⟩
def fldSknTcfg_PERIOD : Bits := ⟨15, 8⟩
def fldSknTcfg_TSEN : Bits := ⟨0, 0⟩
def fldSknTstat_PARENT : Bits := ⟨31, 24⟩
def fldSknTstat_ROOTID : Bits := ⟨19, 8⟩
def fldSknTstat_STRATUM : Bits := ⟨6, 4⟩
def fldSknTstat_HOLD : Bits := ⟨2, 2⟩
def fldSknTstat_SYNCED : Bits := ⟨0, 0⟩
def fldSknTqual_QUAL : Bits := ⟨15, 0⟩
def fldSknTsnew_NEW : Bits := ⟨31, 0⟩
def fldSknCbase_BASE : Bits := ⟨31, 16⟩
def fldSknSnapbase_BASE : Bits := ⟨31, 16⟩
def fldSknCnt_COUNT : Bits := ⟨31, 0⟩
def fldSknAsym_ASYM : Bits := ⟨31, 0⟩
def fldSknTsh_WORD : Bits := ⟨31, 0⟩
def fldSknTsin_DATA : Bits := ⟨31, 0⟩
def fldSknSchlo_T : Bits := ⟨31, 0⟩
def fldSknSchhi_T : Bits := ⟨31, 0⟩
def fldSknScha_EN : Bits := ⟨31, 31⟩
def fldSknScha_LATE : Bits := ⟨30, 30⟩
def fldSknScha_ACT : Bits := ⟨27, 24⟩
def fldSknScha_ARG : Bits := ⟨15, 0⟩
def fldSknCst_STATE : Bits := ⟨31, 28⟩
def fldSknCst_SNAPREC : Bits := ⟨16, 16⟩
def fldSknCst_OPSEQ : Bits := ⟨15, 0⟩
def fldTnsMain_WORD : Bits := ⟨31, 0⟩
def fldTnsPend_WORD : Bits := ⟨31, 0⟩
def fldTnsPrev_WORD : Bits := ⟨31, 0⟩
def fldTnsShd_WORD : Bits := ⟨31, 0⟩
def fldTnsCtl_REVT : Bits := ⟨31, 16⟩
def fldTnsCtl_SYMT : Bits := ⟨15, 12⟩
def fldTnsCtl_PROBW : Bits := ⟨11, 8⟩
def fldTnsCtl_BLK : Bits := ⟨6, 4⟩
def fldTnsCtl_TXSWAP : Bits := ⟨3, 3⟩
def fldTnsCtl_SHEN : Bits := ⟨2, 2⟩
def fldTnsCtl_REVERT : Bits := ⟨1, 1⟩
def fldTnsCtl_SWAP : Bits := ⟨0, 0⟩
def fldTnsSt_PVALID : Bits := ⟨7, 7⟩
def fldTnsSt_TXPEND : Bits := ⟨6, 6⟩
def fldTnsSt_DUE : Bits := ⟨5, 5⟩
def fldTnsSt_SWPEND : Bits := ⟨4, 4⟩
def fldTnsSt_PROB : Bits := ⟨3, 3⟩
def fldTnsSt_SWAPPED : Bits := ⟨2, 2⟩
def fldTnsSt_REVERTED : Bits := ⟨1, 1⟩
def fldTnsSt_RSVD_WR : Bits := ⟨0, 0⟩
def fldTnsGseq_SEQ : Bits := ⟨15, 0⟩
def fldTnsGrad_G : Bits := ⟨31, 0⟩
def fldTnsSmm_COUNT : Bits := ⟨31, 0⟩
def fldTnsMse_COUNT : Bits := ⟨31, 0⟩
def fldTnsEbits_COUNT : Bits := ⟨31, 0⟩
def fldTnsRsnap_COUNT : Bits := ⟨31, 0⟩
def fldTnsClr_CLR : Bits := ⟨0, 0⟩
def fldTnsAgec_SEC : Bits := ⟨31, 0⟩
def fldTnsDuet_SEC : Bits := ⟨15, 0⟩
def fldTnsTxa_SET : Bits := ⟨20, 0⟩
def fldTnsTxp_AMP : Bits := ⟨20, 16⟩
def fldTnsTxp_POST1 : Bits := ⟨14, 10⟩
def fldTnsTxp_PRE1 : Bits := ⟨9, 5⟩
def fldTnsTxp_PRE2 : Bits := ⟨4, 0⟩
def fldTnsAgectl_RSVD_WR : Bits := ⟨2, 2⟩
def fldTnsAgectl_BUSY : Bits := ⟨1, 1⟩
def fldTnsAgectl_GO : Bits := ⟨0, 0⟩
def fldTnsRostr_COUNT : Bits := ⟨23, 0⟩
def fldTnsRoref_COUNT : Bits := ⟨23, 0⟩
def fldTnsRobase_RATIO : Bits := ⟨31, 0⟩
def fldSngEcfg_V : Bits := ⟨31, 31⟩
def fldSngEcfg_KIND : Bits := ⟨30, 28⟩
def fldSngEcfg_SEL : Bits := ⟨27, 27⟩
def fldSngEcfg_CLS : Bits := ⟨23, 16⟩
def fldSngEcfg_PARAM : Bits := ⟨15, 0⟩
def fldSngEpat_PAT : Bits := ⟨31, 0⟩
def fldSngEprob_PROB : Bits := ⟨23, 0⟩
def fldSngElim_LIM : Bits := ⟨31, 0⟩
def fldSngEcnt_COUNT : Bits := ⟨31, 0⟩
def fldSngSeed_SEED : Bits := ⟨31, 0⟩
def fldSngSkip_COUNT : Bits := ⟨31, 0⟩
def fldSngCtl_DSQ : Bits := ⟨4, 4⟩
def fldSngCtl_ENQ : Bits := ⟨3, 3⟩
def fldSngCtl_STATE : Bits := ⟨2, 1⟩
def fldSngCtl_EN : Bits := ⟨0, 0⟩
def fldSngAudack_ENTRY : Bits := ⟨31, 0⟩
def fldSngSt_INJ : Bits := ⟨1, 1⟩
def fldSngSt_RSVD_WR : Bits := ⟨0, 0⟩
def fldTrdStatus_STORM : Bits := ⟨1, 1⟩
def fldTrdStatus_RSVD_WR : Bits := ⟨0, 0⟩
def fldTrdSwfire_FIRE : Bits := ⟨31, 0⟩
def fldTrdPlat_L : Bits := ⟨31, 0⟩
def fldTrdPcfg_EDGE : Bits := ⟨1, 0⟩
def fldTrdPworld_Z : Bits := ⟨31, 0⟩
def fldTrdCworld_Z : Bits := ⟨31, 0⟩
def fldTrdGctl_DISP : Bits := ⟨20, 12⟩
def fldTrdGctl_DISV : Bits := ⟨11, 11⟩
def fldTrdGctl_ENP : Bits := ⟨10, 2⟩
def fldTrdGctl_ENV : Bits := ⟨1, 1⟩
def fldTrdGctl_GON : Bits := ⟨0, 0⟩
def fldTrdCcfg_SLIM : Bits := ⟨23, 16⟩
def fldTrdCcfg_GATE : Bits := ⟨12, 4⟩
def fldTrdCcfg_GINV : Bits := ⟨3, 3⟩
def fldTrdCcfg_GEN : Bits := ⟨2, 2⟩
def fldTrdCcfg_MODE : Bits := ⟨1, 1⟩
def fldTrdCcfg_CON : Bits := ⟨0, 0⟩
def fldTrdCst_HOLD : Bits := ⟨7, 7⟩
def fldTrdCst_STORM : Bits := ⟨6, 6⟩
def fldTrdCst_OVF : Bits := ⟨5, 5⟩
def fldTrdCst_CNT : Bits := ⟨4, 1⟩
def fldTrdCst_PEND : Bits := ⟨0, 0⟩
def fldTrdCack_ACK : Bits := ⟨0, 0⟩
def fldTrdCap_TIME : Bits := ⟨31, 0⟩
def fldTrdCapst_OVF : Bits := ⟨1, 1⟩
def fldTrdCapst_VALID : Bits := ⟨0, 0⟩
def fldTrdMat_EN : Bits := ⟨31, 0⟩
def fldPinStatus_CONFL : Bits := ⟨1, 1⟩
def fldPinStatus_RSVD_WR : Bits := ⟨0, 0⟩
def fldPinOut_OUT : Bits := ⟨31, 0⟩
def fldPinSet_SET : Bits := ⟨31, 0⟩
def fldPinClr_CLR : Bits := ⟨31, 0⟩
def fldPinTgl_TGL : Bits := ⟨31, 0⟩
def fldPinIn_IN : Bits := ⟨31, 0⟩
def fldPinConfl_CONFL : Bits := ⟨31, 0⟩
def fldPinIdef_DEF : Bits := ⟨31, 0⟩
def fldPinBank_PG : Bits := ⟨8, 8⟩
def fldPinBank_VSEL : Bits := ⟨1, 0⟩
def fldPinCfg_IV : Bits := ⟨24, 24⟩
def fldPinCfg_ISEL : Bits := ⟨23, 16⟩
def fldPinCfg_OSEL : Bits := ⟨15, 8⟩
def fldPinCfg_SRC : Bits := ⟨7, 7⟩
def fldPinCfg_SLEW : Bits := ⟨6, 6⟩
def fldPinCfg_DRV : Bits := ⟨5, 4⟩
def fldPinCfg_PULL : Bits := ⟨3, 2⟩
def fldPinCfg_MODE : Bits := ⟨1, 0⟩
def fldPinOwn_WHORL : Bits := ⟨7, 2⟩
def fldPinOwn_OWH : Bits := ⟨1, 1⟩
def fldPinOwn_OWW : Bits := ⟨0, 0⟩
def fldPinTctl_FLUSH : Bits := ⟨9, 9⟩
def fldPinTctl_CAPW : Bits := ⟨8, 3⟩
def fldPinTctl_CIE : Bits := ⟨2, 2⟩
def fldPinTctl_CAPE : Bits := ⟨1, 0⟩
def fldPinTqst_COVF : Bits := ⟨5, 5⟩
def fldPinTqst_CVALID : Bits := ⟨4, 4⟩
def fldPinTqst_LATE : Bits := ⟨3, 3⟩
def fldPinTqst_QCNT : Bits := ⟨2, 0⟩
def fldPinTcap_TIME : Bits := ⟨31, 0⟩
def fldSecStatus_LCS : Bits := ⟨7, 6⟩
def fldSecStatus_BOOTV : Bits := ⟨5, 5⟩
def fldSecStatus_DBGS : Bits := ⟨3, 3⟩
def fldSecStatus_DBGZ : Bits := ⟨2, 2⟩
def fldSecStatus_AUDEXH : Bits := ⟨1, 1⟩
def fldSecStatus_RSVD_WR : Bits := ⟨0, 0⟩
def fldSecGrant_MAK : Bits := ⟨2, 2⟩
def fldSecGrant_INS : Bits := ⟨1, 1⟩
def fldSecGrant_OPR : Bits := ⟨0, 0⟩
def fldSecCmddone_DONE : Bits := ⟨0, 0⟩
def fldSecSvn_SVN : Bits := ⟨15, 0⟩
def fldSecBootcnt_COUNT : Bits := ⟨31, 0⟩
def fldSecSvcb_EN : Bits := ⟨31, 31⟩
def fldSecSvcb_BOB : Bits := ⟨15, 0⟩
def fldSecOpdb_ADDR : Bits := ⟨31, 6⟩
def fldSecOpst_FULL : Bits := ⟨4, 4⟩
def fldSecOpst_QCNT : Bits := ⟨3, 0⟩
def fldSecMbxin_DATA : Bits := ⟨31, 0⟩
def fldSecMbxout_DATA : Bits := ⟨31, 0⟩
def fldSecMbxctl_RDY : Bits := ⟨1, 1⟩
def fldSecMbxctl_GO : Bits := ⟨0, 0⟩
def fldSecMbxrsp_POST : Bits := ⟨0, 0⟩
def fldSecAudseq_SEQ : Bits := ⟨31, 0⟩
def fldSecAudhead_HASH : Bits := ⟨31, 0⟩
def fldSecAudctr_COUNT : Bits := ⟨20, 0⟩
def fldSecAudbase_BASE : Bits := ⟨3, 0⟩
def fldSecKslot0_V : Bits := ⟨31, 31⟩
def fldSecKslot0_WORLD : Bits := ⟨30, 30⟩
def fldSecKslot1_KID : Bits := ⟨31, 0⟩
def fldHapCtl_DSQ : Bits := ⟨4, 4⟩
def fldHapCtl_ENQ : Bits := ⟨3, 3⟩
def fldHapCtl_STATE : Bits := ⟨2, 1⟩
def fldHapCtl_EN : Bits := ⟨0, 0⟩
def fldHapStatus_TAGQF : Bits := ⟨4, 4⟩
def fldHapStatus_CRDV : Bits := ⟨3, 3⟩
def fldHapStatus_WERR : Bits := ⟨2, 2⟩
def fldHapStatus_RDTO : Bits := ⟨1, 1⟩
def fldHapTagq_COUNT : Bits := ⟨10, 0⟩
def fldHapCnt_COUNT : Bits := ⟨31, 0⟩
def fldHapCntclr_CLR : Bits := ⟨0, 0⟩
def fldHapGstat_HCLKOK : Bits := ⟨2, 2⟩
def fldHapGstat_RSVD_WR : Bits := ⟨0, 0⟩
def fldHapCfg_EVW : Bits := ⟨13, 8⟩
def fldHapCfg_RDTO : Bits := ⟨7, 0⟩
def fldHapWin_EN : Bits := ⟨31, 31⟩
def fldHapWin_BASE : Bits := ⟨24, 0⟩
def fldHapMch_CH : Bits := ⟨23, 0⟩
def fldHapIaddr_ADDR : Bits := ⟨31, 2⟩
def fldHapIaddrh_ADDRH : Bits := ⟨19, 0⟩
def fldHapIdata_DATA : Bits := ⟨31, 0⟩
def fldHapIctl_EN : Bits := ⟨31, 31⟩
def fldHapIctl_ARMED : Bits := ⟨30, 30⟩
def fldHapIctl_PEND : Bits := ⟨29, 29⟩
def fldHapIctl_CLASS : Bits := ⟨28, 27⟩
def fldHapIctl_CH : Bits := ⟨18, 16⟩
def fldHapIctl_INDEX : Bits := ⟨15, 0⟩
def fldHapIarm_ARM : Bits := ⟨31, 0⟩
def fldHapIfire_FIRE : Bits := ⟨31, 0⟩
def fldCxpCfg_EN : Bits := ⟨31, 31⟩
def fldCxpCfg_ZOK : Bits := ⟨30, 30⟩
def fldCxpCfg_MODE : Bits := ⟨29, 29⟩
def fldCxpCfg_L : Bits := ⟨23, 16⟩
def fldCxpCfg_TMO : Bits := ⟨15, 0⟩
def fldCxpCnt_COUNT : Bits := ⟨31, 0⟩
def fldPwrCtl_REQ : Bits := ⟨1, 0⟩
def fldPwrStatus_SUPOK : Bits := ⟨12, 8⟩
def fldPwrStatus_REFUSED : Bits := ⟨5, 5⟩
def fldPwrStatus_RSVD_WR : Bits := ⟨4, 4⟩
def fldPwrStatus_STATE : Bits := ⟨2, 0⟩
def fldPwrWake_SEEN : Bits := ⟨11, 8⟩
def fldPwrWake_EN : Bits := ⟨3, 0⟩
def fldPwrWcnt_COUNT : Bits := ⟨31, 0⟩
def fldClkWdiv_DIV : Bits := ⟨3, 0⟩
def fldClkStatus_DIVPEND : Bits := ⟨5, 5⟩
def fldClkStatus_CORE : Bits := ⟨4, 4⟩
def fldClkStatus_QUAD : Bits := ⟨3, 0⟩
def fldRstCause_ORDER : Bits := ⟨5, 5⟩
def fldRstCause_WAKE : Bits := ⟨4, 4⟩
def fldRstCause_CMD : Bits := ⟨3, 3⟩
def fldRstCause_RSTN : Bits := ⟨2, 2⟩
def fldRstCause_PWRGOOD : Bits := ⟨1, 1⟩
def fldRstCause_POR : Bits := ⟨0, 0⟩
def fldRstCmd_RESET : Bits := ⟨0, 0⟩
def fldPwrTemp_VALID : Bits := ⟨31, 31⟩
def fldPwrTemp_TEMP : Bits := ⟨11, 0⟩
def fldPwrTalrm_EN : Bits := ⟨9, 9⟩
def fldPwrTalrm_ALARM : Bits := ⟨8, 8⟩
def fldPwrTalrm_LIMIT : Bits := ⟨7, 0⟩
def fldDbgStatus_ECODE : Bits := ⟨7, 4⟩
def fldDbgStatus_BUSY : Bits := ⟨3, 3⟩
def fldDbgStatus_ERR : Bits := ⟨1, 1⟩
def fldDbgStatus_RSVD_WR : Bits := ⟨0, 0⟩
def fldDbgTsel_THREAD : Bits := ⟨10, 0⟩
def fldDbgCmd_STEP : Bits := ⟨2, 2⟩
def fldDbgCmd_RESUME : Bits := ⟨1, 1⟩
def fldDbgCmd_STOP : Bits := ⟨0, 0⟩
def fldDbgRsel_BANK : Bits := ⟨6, 5⟩
def fldDbgRsel_INDEX : Bits := ⟨4, 0⟩
def fldDbgRdata_DATA : Bits := ⟨31, 0⟩
def fldDbgMaddr_ADDR : Bits := ⟨31, 2⟩
def fldDbgMdata_DATA : Bits := ⟨31, 0⟩
def fldDbgTrcctl_TRCEN : Bits := ⟨0, 0⟩
def fldDbgTrcst_OVF : Bits := ⟨7, 7⟩
def fldDbgTrcst_COUNT : Bits := ⟨6, 0⟩
def fldDbgTrc0_FROM : Bits := ⟨31, 0⟩
def fldDbgTrc1_TO : Bits := ⟨31, 0⟩
def fldDbgTrc2_CAUSE : Bits := ⟨15, 8⟩
def fldDbgTrc2_KIND : Bits := ⟨3, 0⟩
def fldDbgTrc3_TB : Bits := ⟨31, 0⟩

end Sys2Proof.Machine
end

