-- ==== Sys2Proof/Machine/State.lean ====
section
/-! DEFINITION. The state of the Taband as plain data. Every register of control space has one home, the table `regs`,
keyed by its address; what the spec gives the block besides its registers (threads, channels, queues, contexts, buffers,
pins, sessions) stands in the records below. Memory is one table over the block map of R141. -/

namespace Sys2Proof.Machine

/-- Why the machine stops with a fault: this model stops on no command, since the spec gives each of them an effect. -/
inductive Fault where
  /-- Raised by nothing; kept so that the type has a name for a stop. Safe. -/
  | unreachable
  deriving DecidableEq, Repr

/-- Why a command has no meaning. -/
inductive Refusal where
  /-- Raised by an arm of `exec` whose command has no meaning yet. Safe: nothing follows from it. -/
  | notModelled (mnemonic : String)
  deriving DecidableEq, Repr

/-- The states of a thread (R46). -/
inductive TState where
  | halted | ready | waiting | stopped | faulted
  deriving DecidableEq, Repr

/-- The far unit instructions of R115. -/
inductive UnitOp where
  | bpop | balloc | bfree | bcrd | drgo | plygo | skn
  deriving DecidableEq, Repr

/-- The loads by width and extension (R92). -/
inductive LoadKind where
  | lb | lbu | lh | lhu | lw | ld
  deriving DecidableEq, Repr

/-- The atomics (R95). -/
inductive AtomicOp where
  | amadd | amswap | amcas
  deriving DecidableEq, Repr

/-- What a WAITING thread waits for (R46, WHL_TSTAT.WAIT), with what completes it. -/
inductive Wait where
  | none
  | event (mask : Word)
  | chanSend (ch : Nat)
  | chanRecv (ch : Nat) (rd : Reg)
  | load (kind : LoadKind) (addr : Word) (host : Nat) (rd : Reg) (tag : Option Nat)
  | atomic (op : AtomicOp) (addr : Word) (rd : Reg) (a b : Word)
  | divide (rd : Reg) (val : Word) (qs : Bool) (cause : Nat)
  | storeSpace
  | fence
  | pinQueue (pin : Nat)
  | unit (op : UnitOp) (rd : Reg) (a b : Word)
  | cxp (port : Nat) (rd : Reg)
  deriving DecidableEq, Repr

/-- Who asks for a register access, with the rights of R16 at the access: S-world supervisor, installer grant, maker
grant, world and level; and whether the regions were checked before (R153). -/
structure Req where
  who  : Writer
  sup  : Bool
  inst : Bool
  mak  : Bool
  z    : Bool
  lv   : Bool
  checked : Bool := false
  deriving DecidableEq, Repr

/-- An entry of a thread's store buffer (R45): a far store to memory, to a register or to a host window, or a BDB
doorbell (R111). `addr` is the address the thread named, `host` the host address formed at the check (R419). -/
inductive SbEntry where
  | mem (addr : Word) (blk : Nat) (data : List Byte)
  | ctl (addr : Word) (rq : Req) (val : Word)
  | hostWin (addr : Word) (host : Nat) (data : List Byte)
  | doorbell (bob cnt : Nat)
  deriving DecidableEq, Repr

/-- A cause waiting for its entry turns (R125, R126), and the entry turns that the thread has made. -/
structure Pend where
  code   : Nat
  detail : Nat
  async  : Bool
  epc    : Word
  eaddr  : Word
  turns  : Nat := 0
  deriving DecidableEq, Repr

/-- A thread (R46, R67, R69, R70): its state, its registers and what it has in progress. `rep` is the I bit of a REP in
progress, `repNew` says that no repetition has retired since the REP (R90), `issued` is the word that its last turn fetched and that
has not yet taken effect, `owed` the turns that a word of several turns still takes (R114). `stamps` numbers the entries of the store
buffer, and `farAt` the load or atomic in progress, in the order in which the whorl's threads issued them (R149). -/
structure Thread where
  state    : TState := .halted
  wait     : Wait := .none
  turns    : BitVec 16 := 0
  lastTurn : Option Nat := none
  pc       : Word := 0
  lk       : Word := 0xFFFFFFFC
  st       : Word := 0x13
  fx       : Word := 4
  rc       : Word := 0
  epc      : Word := 0
  est      : Word := 0
  ecause   : Word := 0
  eaddr    : Word := 0
  sentry   : Word := 0
  sstack   : Word := 0
  lse      : Word := 0
  w        : Vector Word 32 := Vector.replicate 32 0
  a        : Vector (BitVec 80) 4 := Vector.replicate 4 0
  hrs      : List Word := []
  sbuf     : List SbEntry := []
  stamps   : List Nat := []
  farAt    : Nat := 0
  rep      : Option Bool := none
  repNew   : Bool := false
  owed     : Nat := 0
  entry    : Option Pend := none
  issued   : Option Word := none
  ev       : Word := 0
  dlArmed  : Bool := false
  haltReq  : Bool := false
  stopReq  : Bool := false
  deriving DecidableEq, Repr

/-- A notification record (R135). -/
structure Note where
  kind   : Nat
  whorl  : Nat
  thread : Nat
  cause  : Nat
  st     : Nat
  pc     : Word
  eaddr  : Word
  tb     : Word
  deriving DecidableEq, Repr

/-- What a whorl holds besides its registers and threads: the thread that last took a donated slot (R37), the shadow
table that passed its check (R39), the two vbase registers (R124), its part of the world map, one bit a thread, 1 for
the Z world (R120), the notification queue (R135), whether the STALL detector is armed (R60), the cycle of its last
slot turn, far requests issued (R149). -/
structure Whorl where
  rot      : Nat := 31
  passed   : Option (List Word) := none
  vbaseS   : Word := 0xFFFFFF00
  vbaseZ   : Word := 0xFFFFFF00
  wmap     : Word := 0
  notes    : List Note := []
  stallArm : Bool := true
  lastTurn : Option Nat := none
  issued   : Nat := 0
  deriving DecidableEq, Repr

/-- A channel FIFO (R54 to R57, R65): the words with their END flags, the words of the frame in progress that the
sender has sent, the two flush marks, and VALID and END of the receiver's last receive. A cross channel's words in
flight stand in `flight`, at the receiving end. -/
structure Chan where
  q       : List (Word × Bool) := []
  flight  : List (Word × Bool) := []
  open_   : Nat := 0
  discard : Bool := false
  rflush  : Bool := false
  lvalid  : Bool := false
  lend    : Bool := false
  deriving DecidableEq, Repr

/-- A trace record of the debug unit (R473). -/
structure TraceRec where
  src   : Word
  dst   : Word
  kind  : Nat
  cause : Nat
  tb    : Word
  deriving DecidableEq, Repr

/-- Who asked for a host read or made a posted write (R417, R418); a draft engine with the indices of the element; the debug unit with the place of its word in the line
(R472). -/
inductive Asker where
  | thread (g : Nat)
  | draft (e : Nat) (ix : Nat × Nat × Nat)
  | port (p : Nat)
  | debug (off : Nat)
  | none
  deriving DecidableEq, Repr

/-- A DREQ flit (R415): its channel and header fields, and the bytes it writes from host address `addr` on. -/
structure Dreq where
  ch     : Nat
  op     : Nat
  tag    : Nat
  len    : Nat
  master : Nat
  w      : Bool
  vec    : Nat
  addr   : Nat
  data   : List Byte
  deriving DecidableEq, Repr

/-- An HRSP flit (R413). -/
structure Hrsp where
  ch     : Nat
  status : Nat
  tag    : Nat
  idx    : Nat
  data   : List Byte
  deriving DecidableEq, Repr

/-- A host read outstanding under a tag, with the lines received (R417). -/
structure HRead where
  tag : Nat
  len : Nat
  got : List (Nat × Option (List Byte))
  who : Asker
  deriving DecidableEq, Repr

/-- A posted write remembered for its failure report (R418). -/
structure PWrite where
  wseq : Nat
  who  : Asker
  addr : Nat
  deriving DecidableEq, Repr

/-- A host attach channel (R409, R415 to R418): the credits the Taband holds on HRSP and DREQ, the credits it has
granted on HREQ and DRSP, the posted-write count, the last 1,024 posted writes, the reads, the quarantined tags, and the
flits that wait for a credit. -/
structure HapCh where
  crHrsp  : Nat := 0
  crDreq  : Nat := 0
  outHreq : Nat := 0
  outDrsp : Nat := 0
  wseq    : Nat := 0
  wlog    : List PWrite := []
  reads   : List HRead := []
  quar    : List Nat := []
  hrspQ   : List Hrsp := []
  dreqQ   : List Dreq := []
  deriving DecidableEq, Repr

/-- The state of a bobbin's landing window (R178): the free position of its byte ring in 256-byte units, and what is
landed in it, in arrival order: bobbin, units, whether it lies in the ring (a SEND), whether its slip is released. -/
structure Landing where
  bob      : Nat
  units    : Nat
  ring     : Bool
  released : Bool
  deriving DecidableEq, Repr

/-- A landing window. -/
structure LWin where
  free : Nat := 0
  recs : List Landing := []
  deriving DecidableEq, Repr

/-- A cell queued at its egress port (R237, R238, R249): its ingress port when it is in transit, the TX bobbin and slip
index when it was originated by one, the skein context when by that, whether it holds a credit of its class, the creel unit of transit holding where its payload lies, and
whether its data is bad (R210). -/
structure QCell where
  cell     : Cell
  ingress  : Option Nat := none
  bob      : Option Nat := none
  idx      : Nat := 0
  skn      : Option Nat := none
  assigned : Bool := false
  held     : Option Nat := none
  bad      : Bool := false
  deriving DecidableEq, Repr

/-- A control cell that waits for a position: its subtype (256 for a credit return, CT 7) and payload bytes from 32 on. -/
structure CtlCell where
  sub  : Nat
  body : List Byte
  deriving DecidableEq, Repr

/-- The control cell that firmware has asked for (R226): header fields and payload. -/
structure FwCell where
  sub  : Nat
  full : Bool
  frag : Nat
  dseq : Nat
  last : Nat
  pay  : List Byte
  deriving DecidableEq, Repr

/-- A cell in the replay buffer (R211): its LSEQ and the units of 96 bytes that hold its header and payload in creel. -/
structure Replay where
  lseq  : Nat
  at_   : Nat
  units : Nat
  deriving DecidableEq, Repr

/-- A cell as it leaves on the lane: position in its slot, slot count, epoch, contents before link encryption,
whether its tag is the complement of the right one, and its bytes as sent, with the tag (R196, R206). -/
structure OutCell where
  pos    : Nat
  scnt   : Nat
  epoch  : Nat
  cell   : Cell
  poison : Bool
  wire   : List Byte := []
  deriving DecidableEq, Repr

/-- A cell cut out of a received slot (R195): the slot's number in its superframe and its count, the position in it, whether its header
came in a codeword before the one that ended it, and its bytes as received. -/
structure RxCell where
  slot  : Nat
  scnt  : Nat
  pos   : Nat
  early : Bool
  bytes : List Byte
  deriving DecidableEq, Repr

/-- A message that the Snag unit holds back (R348, REORDER): source, MSGID, its cells, whether the last has come. -/
structure SnagMsg where
  src      : Nat
  msgid    : Nat
  cells    : List Cell
  complete : Bool
  deriving DecidableEq, Repr

/-- A port (R190 to R226, R236 to R254) besides its registers. Receiver: descrambler, run of uncorrectable codewords,
codeword number in the superframe, codewords since the last superframe start, starts missed, whether this is the first
superframe after a lock, bits of the slot in progress, its number, the cells cut out of slots that wait for their check, whether the slot count
is held, the highest accepted count, the pending epoch, keys held, the times of tag failures, the credits granted to
the partner and the cells held, the released counts, open transit paths (without an egress once it has gone DOWN), cells in the receive buffer, control cells held.
Transmitter: slot number, epoch at the next superframe, replay entries, the next LSEQ of a go-back, the go-back begun
last, replay expiries, slots since a credit block, slots a control cell has waited, control cells waiting, firmware's
cell, cells decided and not yet framed, the cells of the current slot, the egress sequence pointer, the class of the last
donated slot, whether the reel has passed its last entry, the counts of the reel in progress, the class queues.
Dialogue: GRANT and CONFIRM sent and received, DRAIN requests and replies. Snag (R347, R348): whether a squelch runs, the
pattern pointers, the LFSR, messages held back, whether a DELAY is in force and the cells it holds. Stamps (R309): taken in each
direction, TB[63:48] of the last transmitted one, and superframes since the last TSINFO. Tensioner (R337 to R339): codewords of probation left, corrected bits in
it, a revert due and whether software asked for it, corrected bits in the reel period, RCLK edges at the last kept swap. The TB before which no
new attempt begins (R219); the dialogue message sent last, SUB and DSEQ, and how often; the DSEQs taken (R218), the DSEQ of the IDENT
message whose fragments are held, and these (R204, R381); the last entry on a
burst of tag failures and those since (R404). The reel begun last; the cycle of the last SWAP request (R254). Transmit lane (R190 to
R193): the scrambler, message bits not yet in a codeword, the number of the next codeword, the levels of the last slot's codewords. -/
structure Port where
  descr     : Nat := 0
  uncRun    : Nat := 0
  cwIdx     : Nat := 0
  sinceSf   : Option Nat := none
  missed    : Nat := 0
  fresh     : Bool := false
  part      : List (Option Bool) := []
  slotNo    : Nat := 0
  rxq       : List RxCell := []
  cntOk     : Bool := false
  hiScnt    : Option Nat := none
  rxPend    : Option Nat := none
  keys      : Tbl (List Byte) := []
  tagFails  : List Nat := []
  granted   : List Nat := List.replicate 7 0
  rxHeld    : List Nat := List.replicate 7 0
  ccnt      : List Nat := List.replicate 7 0
  paths     : List (Nat × Nat × Option Nat) := []
  rxWait    : List (Cell × Option Nat) := []
  crx       : List Cell := []
  crxHead   : Nat := 0
  txSlot    : Nat := 0
  txPend    : Option Nat := none
  replay    : List Replay := []
  resend    : Option Nat := none
  gbAt      : Option (Nat × Nat) := none
  expiries  : Nat := 0
  sinceBlk  : Nat := 0
  ctlWait   : Nat := 0
  ctlq      : List CtlCell := []
  fw        : Option FwCell := none
  framing   : List (Nat × QCell) := []
  out       : List OutCell := []
  esqPtr    : Nat := 0
  donated   : Nat := 6
  gapSlots  : Bool := false
  telem     : List Nat := List.replicate 4 0
  q         : List QCell := []
  grantSent : Option (List Nat) := none
  grantRecv : Option (List Nat) := none
  confSent  : Bool := false
  confRecv  : Bool := false
  dr1Sent   : Bool := false
  dr1Recv   : Bool := false
  dr2Sent   : Bool := false
  dr2Recv   : Bool := false
  squelch   : Bool := false
  snPtr     : List Nat := List.replicate 4 0
  snLfsr    : Nat := 0
  snHold    : List SnagMsg := []
  snDelays  : Bool := false
  snDelay   : List Cell := []
  txStampN  : Nat := 0
  rxStampN  : Nat := 0
  txStampHi : Nat := 0
  tsCount   : Nat := 0
  probLeft  : Nat := 0
  probBits  : Nat := 0
  trigger   : Bool := false
  revReq    : Bool := false
  reelBits  : Nat := 0
  ageBase   : Nat := 0
  holdTil   : Nat := 0
  tries     : Nat × Nat × Nat := (0, 0, 0)
  dseqs     : List Nat := []
  identSeq  : Nat := 0
  ident     : Tbl (List Byte) := []
  tagfAt    : Option Nat := none
  tagfCnt   : Nat := 0
  reelNo    : Option Nat := none
  swapAt    : Nat := 0
  scr       : Nat := 0
  txBits    : List Bool := []
  txCw      : Nat := 0
  lane      : List (List Int) := []
  deriving DecidableEq, Repr

/-- A TX slip that its home engine has fetched (R170, R173, R184): PROD count, slip words, ring entries, cells, and how far
it is. -/
inductive TxStage where
  | held | running | sent
  | fault (detail : Nat)
  | cancelled
  deriving DecidableEq, Repr

/-- A fetched TX slip; `resend` marks a message sent again from its record (R247). -/
structure TxMsg where
  idx    : Nat
  words  : List Nat
  inl    : List Byte
  ents   : Nat
  cells  : Nat
  left   : Nat
  stage  : TxStage
  resend : Bool := false
  deriving DecidableEq, Repr

/-- A send record (R248): its number, TX bobbin, slip index and words, inline payload, cells, cells in flight, destination, MSGID,
pool. -/
structure SendRec where
  slot  : Nat := 0
  bob   : Nat
  idx   : Nat
  words : List Nat
  inl   : List Byte
  cells : Nat
  flight : Nat
  dst   : Nat
  msgid : Nat
  pool  : Nat
  deriving DecidableEq, Repr

/-- A source state of the reorder unit (R240, R241, R399): NEXT extended to 48 bits, the MSGIDs closed above it with their
statuses, and the closed ones not yet reported (R246). -/
structure SrcState where
  next   : Nat := 0
  done   : List Nat := []
  report : List (Nat × Nat) := []
  deriving DecidableEq, Repr

/-- A reassembly context (R241 to R243): source, extended MSGID, ingress port of the first cell, cells in order with the creel units
that hold their payloads, whether the last has come, why its timer runs (1 no cell, 2 landing space, 3 lower MSGIDs), whether the timer has expired. -/
structure RCtx where
  src     : Nat
  xmsg    : Nat
  port    : Nat
  cells   : List Cell
  units   : List Nat
  last    : Bool
  why     : Nat
  expired : Bool
  deriving DecidableEq, Repr

/-- A command list on its way (R259, R260): the address of its next command, whether that is a host address, the world and
level of its start, and the thread that started it (none for the host). -/
structure DList where
  addr : Nat
  host : Bool
  z    : Bool
  lv   : Bool
  by_  : Option Nat
  deriving DecidableEq, Repr

/-- A fetched command (R262): its 64 bytes, or why the fetch failed, as the DETAIL of R277. -/
inductive Fetched where
  | none
  | ok (bytes : List Byte)
  | fail (detail : Nat)
  deriving DecidableEq, Repr

/-- A gathered message in the staging ring (R274): its TX bobbin and slip number, its place and 64-byte units. -/
structure Staged where
  bob   : Nat
  idx   : Nat
  units : Nat
  deriving DecidableEq, Repr

/-- A draft engine besides its registers (R259 to R279): the start queue, the list in progress, its command and the one
after it, whether the command has begun, elements done, actions of a FENCE or EVENT done, the next free staging unit,
staged messages, slips rung and not known to be passed, whether a service command has run at this boundary of the list. -/
structure Draft where
  queue  : List DList := []
  cur    : Option DList := none
  cmd    : Fetched := .none
  next   : Fetched := .none
  begun  : Bool := false
  idx    : Nat := 0
  steps  : Nat := 0
  stgAt  : Nat := 0
  staged : List Staged := []
  rung   : List (Nat × Nat) := []
  served : Bool := false
  deriving DecidableEq, Repr

/-- A pass of a ply unit (R283, R284): the sixteen words of its request block, world and level, the address of the back
half it writes, and the scales read at its start. -/
structure Pass where
  blk    : List Nat
  z      : Bool
  lv     : Bool
  out    : Nat
  scales : List Nat
  deriving DecidableEq, Repr

/-- Where the result of an accumulated element goes (R268, R294): the engine, the world and level of its list, whether the
address is a host address, the element's indices, and the address. -/
structure AccOut where
  eng  : Fin 8
  z    : Bool
  lv   : Bool
  host : Bool
  ix   : Nat × Nat × Nat
  addr : Nat
  deriving DecidableEq, Repr

/-- A ply unit besides its registers (R283 to R296): the running pass first, then the queued one, whether the running one
has started, the elements delivered to it and not used (their number, stream, bytes, whether marked bad; streams 8 and 9 are the
destination and source values of an accumulated E2176 value being joined), values taken from each stream, the number of the next
element, the posts that wait for the elements before them: FID and that number; and where the joined elements' results go. -/
structure Ply where
  passes  : List Pass := []
  started : Bool := false
  inq     : List (Nat × Nat × List Byte × Bool) := []
  taken   : List Nat := List.replicate 8 0
  seq     : Nat := 0
  posts   : List (Nat × Nat) := []
  outs    : List AccOut := []
  deriving DecidableEq, Repr

/-- A skein cell held for a context (R320, R322): operation, hop, chunk, member or group it comes from, form, payload. -/
structure SkCell where
  opseq : Nat
  sop   : Nat
  chunk : Nat
  orig  : Nat
  form  : Nat
  pay   : List Byte
  deriving DecidableEq, Repr

/-- A skein context besides SKN_CST (R317 to R330): the 256 descriptor words that OPEN loaded, the members loaded, the
operation in progress (its OP code, 15 for none), whether this device contributes a payload and its bytes, the cells it
holds, whether its contribution has been sent, the cells of its group's partial as it sent them,
the free value of an ambiguous operation (log 111), the status of an end that waits for its fence to be taken (R296), tokens held,
those of queued cells, in flight, and in flight since the operation before, the TB at its start, whether an access was refused, the
ports whose MARKER has come, whether the snapshot is incomplete, the devices that leave, the cells counted by source. -/
structure SkCtx where
  desc    : List Nat := []
  members : List Nat := []
  op      : Nat := 15
  pays    : Bool := false
  mine    : List Byte := []
  got     : List SkCell := []
  begun   : Bool := false
  own     : List SkCell := []
  amb     : Bool := false
  ends    : Option Nat := none
  held    : Nat := 0
  queued  : Nat := 0
  flying  : Nat := 0
  before  : Nat := 0
  start   : Nat := 0
  refused : Bool := false
  marks   : List Nat := []
  incompl : Bool := false
  leaving : List Nat := []
  tally   : List (Nat × Nat) := []
  deriving DecidableEq, Repr

/-- A treadle consumer besides its registers (R354 to R362): the storm window and its count, whether a TRD_CACK write is
awaited, whether the target holds an event it has not taken, and the end of the holdoff in TB units. -/
structure TCons where
  win    : Nat := 0
  storm  : Nat := 0
  ackDue : Bool := false
  given  : Bool := false
  until_ : Nat := 0
  deriving DecidableEq, Repr

/-- A timed edge (R374): its level, its time in the format of R103, and whether it was due at once when it was queued. -/
structure TEdge where
  level : Bool
  time  : Nat
  late  : Bool
  deriving DecidableEq, Repr

/-- A service pin besides its registers (R368 to R375): the level that outside devices put on the ball, none when they
release it, the level that the keeper holds, and the timed edges queued. -/
structure PinSt where
  ext   : Option Bool := none
  keep  : Bool := true
  edges : List TEdge := []
  deriving DecidableEq, Repr

/-- A secret of the key store (R383): its kind (0 private parts, 1 a shared secret, 2 a session key) and its bytes. -/
structure Secret where
  kind : Nat
  data : List Byte
  deriving DecidableEq, Repr

/-- An open role session (R391, R392): SID, the handle of SK, the last CSEQ accepted, MAC failures, TB of the last command,
whether the command in hand carries a verified co-signature, the fingerprint of the role's keys, the challenge of its OPEN. -/
structure Session where
  sid    : Nat
  handle : Nat
  cseq   : Nat := 0
  macBad : Nat := 0
  last   : Nat := 0
  cosig  : Bool := false
  print  : List Byte := []
  chal   : List Byte := []
  deriving DecidableEq, Repr

/-- A role frame that T2 of WH39 has taken (R390, R392): whether it came through the bobbin, session, CSEQ, CODE, ROLE, body
and what follows it. -/
structure Taken where
  bob  : Bool
  sid  : Nat
  cseq : Nat
  code : Nat
  role : Nat
  body : List Byte
  tail : List Byte
  deriving DecidableEq, Repr

/-- A request presented on the customer coprocessor port (R424). -/
structure CxpReq where
  whorl : Nat
  maj   : Nat
  fn    : Nat
  a     : Word
  b     : Word
  thr   : Nat
  z     : Bool
  lv    : Bool
  deriving DecidableEq, Repr

/-- The state of the block. -/
structure State where
  /-- The commands that wait, first in first out. -/
  pending : List Instr := []
  /-- WCLK cycles since the release of reset; the slot position is this modulo 64 (R33). -/
  cycle   : Nat := 0
  /-- The registers of control space by address; an unlisted register holds its reset value. -/
  regs    : Tbl Word := []
  /-- Lap, spool and creel by block address (R141), as stored. -/
  mem     : List Host.Cell := []
  /-- Stored check bits XOR computed check bits of each ECC word that has an error, by its first address (R476). -/
  syn     : Tbl (BitVec 8) := []
  threads : Tbl Thread := []
  whorls  : Tbl Whorl := []
  /-- Local channels, by 64 n + c. -/
  chans   : Tbl Chan := []
  /-- Cross-channel ends, by 16 n + x. -/
  xchans  : Tbl Chan := []
  /-- The escalation queue of the chief distaff (R136). -/
  escq    : List Note := []
  /-- The cycle at which the quiet watch's count last restarted (R62). -/
  quietAt : Nat := 0
  /-- Bits that hardware has set in registers in this WCLK cycle, and W1S bits that writes have set in it (R20). -/
  evNow   : Tbl Word := []
  swNow   : Tbl Word := []
  /-- Unit events raised that have not reached their whorl's event inputs (R477). -/
  uev     : List Nat := []
  /-- Free values used so far (model's own). -/
  free    : Nat := 0
  /-- The always-on timebase after its last RCLK edge, in units of 2^-40 ns: TB in bits [103:40], TBF in [39:24]
  (R306). -/
  tb      : Nat := 0
  /-- The WCLK shadow of the timebase, in the same units (R31). -/
  shadow  : Nat := 0
  /-- Pulses on their way to the treadle network's consumer inputs: the consumers, oldest first (R353, R355). -/
  pulses  : List Nat := []
  /-- The thread whose control transfers the trace records, while TRCEN is 1 (R473). -/
  trcThread : Option Nat := none
  /-- The trace ring, oldest first, at most 64 records. -/
  trace   : List TraceRec := []
  hap     : Tbl HapCh := []
  /-- HRSP flits presented on the boundary, in order (R413). -/
  hrspOut : List Hrsp := []
  /-- DREQ flits presented on the boundary, in order (R415). -/
  dreqOut : List Dreq := []
  /-- The bobbin unit's own valid bits (R166). -/
  bobV    : Tbl Bool := []
  /-- Bobbins that BALLOC made, with their ring size in 4 KiB units (R180). -/
  bobDyn  : Tbl (Option Nat) := []
  /-- Dynamic bobbins that BFREE has released and that are not yet OFF (R181). -/
  bobFree : Tbl Bool := []
  lwins   : Tbl LWin := []
  /-- Slips that found their ring full: bobbin, writing master, its world and level, the words (oldest first). -/
  slipWait : List (Nat × Nat × Bool × Bool × List Nat) := []
  ports   : Tbl Port := []
  /-- Slips fetched by the home engines, by TX bobbin, in ring order. -/
  txq     : Tbl (List TxMsg) := []
  /-- The send records (R248). -/
  sends   : List SendRec := []
  /-- The MSGID counters by destination, extended to 48 bits (R171, R399). -/
  msgids  : Tbl Nat := []
  /-- The pending copies of route entries: CANDLO, CANDHI, PATLO (R230). -/
  rtePend : Tbl (Word × Word × Word) := []
  /-- The reorder unit's source states, by device. -/
  srcs    : Tbl SrcState := []
  /-- Its reassembly contexts, by number. -/
  ctxs    : Tbl RCtx := []
  /-- Acknowledgement cells that wait for the send records. -/
  ackIn   : List Cell := []
  /-- Skein cells that have arrived here: ingress port and cell. -/
  sknIn   : List (Nat × Cell) := []
  drafts : Tbl Draft := []
  plys   : Tbl Ply := []
  skns   : Tbl SkCtx := []
  /-- Timebase changes that wait for the next RCLK edge (R307): INC written, and a step. -/
  incNew : Option Nat := none
  stepNew : Option Nat := none
  /-- The reel values that the last ARM took: LEN, PER, CFGTB (R255). -/
  reelArm : Nat × Nat × Nat := (0, 0, 0)
  /-- INC in force, in units of 2^-40 ns (R306), and the slew amount in force. -/
  inc    : Nat := 0x66666666666
  slew   : Int := 0
  /-- Scheduled actions whose time had passed when they were armed, or that a step has passed (R316). -/
  schLate : List Nat := []
  /-- RCLK edges since the release of reset. -/
  rclk   : Nat := 0
  /-- Registers written and not yet captured into the always-on domain, with the values still in force there (R364). -/
  aonOld : Tbl Word := []
  tcons  : Tbl TCons := []
  /-- Time captures that wait for an RCLK edge (R354). -/
  capWait : List Nat := []
  pins   : Tbl PinSt := []
  /-- Levels of the licensee's logic on LX0 to LX63, and of the sleep request input (R371, R352). -/
  lx     : Tbl Bool := []
  sleepIn : Bool := false
  /-- The end-to-end keys by slot (R397): no register reads them. -/
  slotKeys : Tbl (List Byte) := []
  /-- The queued operation blocks by whorl, oldest first, and the whorl served last (R382). -/
  secq    : Tbl (List Nat) := []
  secLast : Nat := 39
  /-- The key store by handle, 0 to 255 (R383). -/
  keyStore : Tbl Secret := []
  /-- The open role sessions by role, and the SIDs given (R391). -/
  sessions : Tbl Session := []
  sids    : Nat := 0
  /-- The challenge that no OPEN has used, the boot KEM keys' handle and public parts, the failed OPENs (role and TB), and
  the TB until which OPENs of a role are refused (R391). -/
  chal    : Option (List Byte) := none
  bootKem : Option (Nat × List Byte) := none
  openBad : List (Nat × Nat) := []
  openBar : Tbl Nat := []
  /-- The role frame that T2 serves, and the response frame it holds (R390). -/
  taken   : Option Taken := none
  resp    : List Byte := []
  /-- The TB of the last audit entry of type 0x04, and the refusals since then (R404). -/
  authAt  : Option Nat := none
  authCnt : Nat := 0
  /-- The measurements M0 to M7 (R385). -/
  meas    : List (List Byte) := List.replicate 8 (List.replicate 48 0)
  /-- The lists in force by object TYPE, 5 Z signers and 6 operator keys (R389), and the SVN of the running firmware. -/
  lists   : Tbl (List Byte) := []
  fwSvn   : Nat := 0
  /-- The length and digest of the WH39 image in always-on state (R438). -/
  imgHash : Option (Nat × List Byte) := none
  /-- The installer slots of OTP: fingerprints, and the slots revoked (R389). -/
  instKeys : Tbl (List Byte) := []
  instGone : List Nat := []
  /-- The registers that OTP holds, where they differ from their reset values (R435), VPP_OTP in range, and boots whose count
  waits for it (R454). -/
  otp     : Tbl Word := []
  vppOk   : Bool := true
  bootsDue : Nat := 0
  /-- No audit entry has been appended since reset (R402), and entries of units that wait for VPP_OTP: type, result, data. -/
  audFirst : Bool := true
  audDue  : List (Nat × Nat × List Byte) := []
  /-- The open debug session: S scope, and its role (R395). -/
  dbg     : Option (Bool × Nat) := none
  /-- The steps of R435 have run since the last reset; a reset command is in progress (R434). -/
  started : Bool := false
  rstCmd  : Bool := false
  /-- The TB at which T1 of WH39 last started in the boot ROM, whether SP87 was 0 at the release of reset, and, in the recovery of
  R386, the TB of BOOTLED's next change (R436). -/
  romAt   : Nat := 0
  recovLow : Bool := false
  recov   : Option Nat := none
  /-- The supplies in range, as PWR_STATUS.SUPOK numbers them (R431). -/
  supplies : List Bool := [true, true, true, true, true]
  /-- The divider in force (R447), and a return to RUN that waits for the round boundary (R443). -/
  wdiv    : Nat := 4
  toRun   : Bool := false
  /-- Requests presented on the coprocessor port, in order (R424). -/
  cxpOut  : List CxpReq := []
  /-- The master and world of the advance that fired a CLASS 1 vector last (R421). -/
  irqBy   : Tbl (Nat × Bool) := []
  deriving DecidableEq, Repr

/-- The block right after reset (R432, R435): every thread HALTED, every register at its reset value, memory with nothing
listed. -/
def State.reset : State := {}

/-- What every meaning answers. -/
abbrev Out := Host.Outcome State Fault Refusal

end Sys2Proof.Machine
end

