-- ==== Sys2Proof/Machine/Ops.lean ====
section
/-! DEFINITION. The named operations over registers, memory, threads and events that every meaning uses: reading and
writing a register's home, memory with its error codes (R158 to R160, R476), raising unit events and producers, queueing
notification records (R135, R136), and taking an exception and returning from it (R125, R127, R128). -/

namespace Sys2Proof.Machine

/-! ### Registers of control space -/

/-- A table entry set. -/
def tset {α : Type} (t : Tbl α) (a : Nat) (x : α) : Tbl α := tins (terase t a) a x

/-- The rows of the window that an address lies in. -/
def rowsAt (a : Nat) : List RegRow :=
  match a / 2 ^ 24 with
  | 0x40 => rowsWhl
  | 0x41 => if a < 0x41100000 then rowsBob else rowsLgr
  | 0x42 => rowsLnk
  | 0x43 => if a < 0x43800000 then rowsRte else rowsReel
  | 0x44 => rowsDrf
  | 0x45 => rowsPly
  | 0x46 => rowsSkn
  | 0x47 => rowsTns
  | 0x48 => rowsSng
  | 0x49 => rowsTrd
  | 0x4A => rowsPin
  | 0x4B => rowsSec
  | 0x4C => if a < 0x4C004000 then rowsHap else rowsCxp
  | 0x4D => if a < 0x4D001000 then rowsPwr else if a < 0x4D002000 then rowsClk else rowsRst
  | 0x4E => rowsMem
  | 0x4F => rowsDbg
  | _ => []

/-- The instance numbers that an offset from a register's first address spells. -/
def dimIdx : List (Nat × Nat) → Nat → Option (List Nat)
  | [], off => if off = 0 then some [] else none
  | (cnt, st) :: r, off =>
    if off / st < cnt then (dimIdx r (off % st)).map (fun l => off / st :: l) else none

/-- The register at an address with its instance numbers; none where the window lists nothing (R469). -/
def locate (a : Nat) : Option (RegRow × List Nat) :=
  (rowsAt a).findSome? fun r => if r.base ≤ a then (dimIdx r.dims (a - r.base)).map (fun l => (r, l)) else none

/-- The fields' reset values as a word. -/
def fldsReset (l : List Field) : Nat := l.foldl (fun v f => v + f.rst * 2 ^ f.bits.lo) 0

/-- The value of a register after reset: the fields' reset values, and the values that depend on the instance: slot entry
e names T(e mod 32) (R42), the two regions of WH39 (R153), EN of host attach channel 0 (R422). -/
def resetWord (a : Nat) : Word :=
  match locate a with
  | none => 0
  | some (r, idx) =>
    match r.name, idx with
    | .whlSlot, [_, e] => wordOf (0x80 + e % 32)
    | .whlSlota, [_, e] => wordOf (0x80 + e % 32)
    | .hapCtl, [0] => 1
    | .memRgnlim, [39, 0] => 0xFFFFF000
    | .memRgnlim, [39, 1] => 0x0001F000
    | .memRgnattr, [39, 0] => 0x0000005A
    | .memRgnattr, [39, 1] => 0x00000162
    | _, _ => wordOf (fldsReset r.flds)

/-- A register's stored value. -/
def State.rd (s : State) (a : Nat) : Word := tget resetWord s.regs a

/-- A register's stored value replaced. -/
def State.wr (s : State) (a : Nat) (w : Word) : State := { s with regs := tset s.regs a w }

/-- A register has been written since reset (R21). -/
def State.written (s : State) (a : Nat) : Bool := s.regs.any fun x => x.1 = a

/-- A field of a register. -/
def State.fld (s : State) (a : Nat) (b : Bits) : Nat := getF (s.rd a) b

/-- Bits of a register marked as set by hardware in this WCLK cycle (R20). -/
def State.mark (s : State) (a : Nat) (m : Word) : State :=
  if m = 0 then s else { s with evNow := tset s.evNow a (tget (fun _ => 0) s.evNow a ||| m) }

/-- The bits of a register that hardware has set in this WCLK cycle. -/
def State.marked (s : State) (a : Nat) : Word := tget (fun _ => 0) s.evNow a

/-- A field of a register set by the hardware. -/
def State.setFld (s : State) (a : Nat) (b : Bits) (v : Nat) : State :=
  (s.wr a (setF (s.rd a) b v)).mark a (setF 0 b v)

/-- Bits of a register set by the hardware. -/
def State.setBits (s : State) (a : Nat) (m : Word) : State := (s.wr a (s.rd a ||| m)).mark a m

/-- A W1S bit cleared by the hardware: it ends set when a write of this WCLK cycle has set it (R20). -/
def State.hwClear (s : State) (a : Nat) (b : Bits) : State :=
  if isOn (tget (fun _ => 0) s.swNow a) b then s else s.wr a (setF (s.rd a) b 0)

/-- A field is not 0. -/
def State.on (s : State) (a : Nat) (b : Bits) : Bool := s.fld a b ≠ 0

/-- A saturating counter in a field counted up. -/
def State.bump (s : State) (a : Nat) (b : Bits) (d : Nat := 1) : State :=
  s.setFld a b (satAdd b.width (s.fld a b) d)

/-- A wrapping counter in a field counted up. -/
def State.count (s : State) (a : Nat) (b : Bits) (d : Nat := 1) : State := s.setFld a b (s.fld a b + d)

/-! ### Threads and whorls -/

/-- A thread. -/
def State.thr (s : State) (g : Nat) : Thread := tget (fun _ => {}) s.threads g

/-- A thread replaced. -/
def State.setThr (s : State) (g : Nat) (x : Thread) : State := { s with threads := tset s.threads g x }

/-- A thread changed. -/
def State.modThr (s : State) (g : Nat) (f : Thread → Thread) : State := s.setThr g (f (s.thr g))

/-- A whorl's own state. -/
def State.whl (s : State) (n : Nat) : Whorl := tget (fun _ => {}) s.whorls n

/-- A whorl's own state changed. -/
def State.modWhl (s : State) (n : Nat) (f : Whorl → Whorl) : State := { s with whorls := tset s.whorls n (f (s.whl n)) }

/-- A local channel's FIFO. -/
def State.chan (s : State) (n c : Nat) : Chan := tget (fun _ => {}) s.chans (64 * n + c)

/-- A local channel's FIFO changed. -/
def State.setChan (s : State) (n c : Nat) (x : Chan) : State := { s with chans := tset s.chans (64 * n + c) x }

/-- One end of a cross channel. -/
def State.xend (s : State) (n x : Nat) : Chan := tget (fun _ => {}) s.xchans (16 * n + x)

/-- One end of a cross channel changed. -/
def State.setXend (s : State) (n x : Nat) (c : Chan) : State := { s with xchans := tset s.xchans (16 * n + x) c }

/-- A free value: the number under which an opaque constant is read, and the counter advanced. -/
def State.nextFree (s : State) : Nat × State := (s.free, { s with free := s.free + 1 })

/-- A SHA-384 digest (R383). -/
def sha384 (d : List Byte) : List Byte := (List.range 48).map (Config.sha384Byte d)

/-- `n` bytes of a cryptographic primitive. -/
def cryptoN (op : Nat) (d : List Byte) (fresh n : Nat) : List Byte := (List.range n).map (Config.cryptoByte op d fresh)

/-- `n` random bytes: free values. -/
def State.randomBytes (s : State) (n : Nat) : State × List Byte :=
  ({ s with free := s.free + n }, (List.range n).map fun i => Config.freeByte (s.free + i))

/-- The quiet watch's count restarted (R62). -/
def State.active (s : State) : State := { s with quietAt := s.cycle }

/-- The world of a thread at its next START, from the world map (R120). -/
def State.mapZ (s : State) (g : Nat) : Bool := (s.whl (g / 32)).wmap.toNat.testBit (g % 32)
/-- The threads of a whorl that the firmware requires in the S world (R25). -/
def requiredS (n : Nat) : Nat := if n < 36 then 0xFF else if n < 39 then 0xFFFFFFFF else 0xFF
/-- The world map gives no required thread of a whorl to the Z world. -/
def State.mapOk (s : State) (n : Nat) : Bool := (s.whl n).wmap &&& wordOf (requiredS n) = 0

/-- A general register as an instruction reads it: w0 is 0 (R67). -/
def Thread.get (th : Thread) (r : Reg) : Word := if r = 0 then 0 else th.w[r]

/-- A general register written: a write to w0 is discarded (R67). -/
def Thread.set (th : Thread) (r : Reg) (x : Word) : Thread := if r = 0 then th else { th with w := th.w.set r x }

/-- The odd register of a pair. -/
def oddOf (r : Reg) : Reg := r + 1

/-- A pair read: the even register holds bits [31:0] (R68). -/
def Thread.getPair (th : Thread) (r : Reg) : BitVec 64 := th.get (oddOf r) ++ th.get r

/-- A pair written (R68). -/
def Thread.setPair (th : Thread) (r : Reg) (x : BitVec 64) : Thread :=
  (th.set r (x.extractLsb' 0 32)).set (oddOf r) (x.extractLsb' 32 32)

/-- A register number may name a pair (R68). -/
def evenReg (r : Reg) : Bool := r.val % 2 = 0

/-- The thread is at supervisor level. -/
def Thread.isSup (th : Thread) : Bool := isOn th.st stLV

/-- The thread is in the Z world. -/
def Thread.isZ (th : Thread) : Bool := isOn th.st stW

/-- The address of the word that executes: the repeated word lies after its REP (R89). -/
def Thread.wordAddr (th : Thread) : Word := if th.rep.isSome then th.pc + 4 else th.pc

/-- TB[31:0] of the WCLK shadow (R31). -/
def State.tb32 (s : State) : Word := wordOf (s.shadow / 2 ^ 40)

/-- TB of the WCLK shadow. -/
def State.tb64 (s : State) : Nat := s.shadow / 2 ^ 40 % 2 ^ 64

/-- TBF of the WCLK shadow. -/
def State.tbf (s : State) : Nat := s.shadow / 2 ^ 24 % 2 ^ 16

/-- The block is in deep sleep (R442): the value 3 of PWR_STATUS.STATE, which no reader sees. -/
def State.asleep (s : State) : Bool := s.fld addrPwrStatus fldPwrStatus_STATE = 3

/-- What the next RCLK edge adds to the timebase besides a step: INC, new from that edge on when its write waits, and an active slew
(R306, R307). -/
def State.edgeAdd (s : State) : Int :=
  (s.incNew.getD s.inc : Nat) + (if s.fld addrSknSlewn fldSknSlewn_N = 0 then 0 else s.slew * 256)

/-- What the timebase adds in one WCLK cycle: WDIV / 8 ns of the 6.4 ns of an RCLK period (R31, R475). -/
def State.cycleAdd (s : State) : Int := s.edgeAdd * (s.wdiv * 5 : Nat) / 256

/-- The always-on timebase as the units outside WCLK read it: the shadow, or in DEEP SLEEP the value after the last RCLK edge. -/
def State.aonTime (s : State) : Nat := if s.asleep then s.tb else s.shadow

/-- The always-on timebase when the present WCLK cycle, or in DEEP SLEEP the present RCLK period, ends (R475). -/
def State.aonEnd (s : State) : Nat := wrapTo 104 ((s.aonTime : Int) + (if s.asleep then s.edgeAdd else s.cycleAdd))

/-- The always-on timebase at an instant between two WCLK edges (R475): a free part of the present cycle's amount past its start. -/
def State.instant (s : State) : State × Nat :=
  ({ s with free := s.free + 1 },
    wrapTo 104 ((s.aonTime : Int) + ((Config.subCycle s.free : Nat) : Int) % max 1 s.cycleAdd))

/-! ### Events -/

/-- A unit event raised (R477). -/
def State.raise (s : State) (k : Nat) : State := { s with uev := s.uev ++ [k] }

/-- The event producers: those whose level is a latch in TRD_PLAT (R352). -/
def eventProducer (p : Nat) : Bool := p < 64 || (128 ≤ p && p < 264) || (448 ≤ p && p < 453)

/-- A register's value in the always-on domain: a write is captured there later (R364). -/
def State.capt (s : State) (a : Nat) : Word := tget (fun _ => s.rd a) s.aonOld a

/-- A field changed by the always-on domain itself: at once there, and in the register unless a write waits for capture. -/
def State.setCapt (s : State) (a : Nat) (b : Bits) (v : Nat) : State :=
  match s.aonOld.find? (·.1 = a) with
  | some x => { s with aonOld := tset s.aonOld a (setF x.2 b v) }
  | none => s.setFld a b v

/-- A pulse of a producer sets and clears the groups that name it; a clear wins (R359). -/
def State.groupPulse (s : State) (p : Nat) : State :=
  (List.range 32).foldl (fun s g =>
    let w := s.capt (addrTrdGctl g)
    if isOn w fldTrdGctl_DISV && getF w fldTrdGctl_DISP = p then s.setCapt (addrTrdGctl g) fldTrdGctl_GON 0
    else if isOn w fldTrdGctl_ENV && getF w fldTrdGctl_ENP = p then s.setCapt (addrTrdGctl g) fldTrdGctl_GON 1
    else s) s

/-- A producer fires (R353): an event producer sets its latch, groups that name it change, and the pulse goes to every
consumer that the matrix joins it to (R355). -/
def State.fireProd (s : State) (p : Nat) : State :=
  let s := if eventProducer p then
      s.setBits (addrTrdPlat (p / 32)) (wordOf (2 ^ (p % 32)))
    else s
  let s := s.groupPulse p
  { s with pulses := s.pulses ++
      (List.range 256).filter fun c => (s.capt (addrTrdMat c (p / 32))).toNat.testBit (p % 32) }

/-- An edge on event line `i` of a thread is latched pending (R49). -/
def State.latch (s : State) (g i : Nat) : State :=
  (s.modThr g fun th => { th with ev := th.ev ||| wordOf (2 ^ i) }).mark (addrWhlEvpend (g / 32) (g % 32)) (wordOf (2 ^ i))

/-! ### Notification records (R135, R136) -/

/-- A record put into a queue of `cap` records: kinds 5 to 7 of one whorl coalesce; a full queue counts it as lost. -/
def queueNote (cap : Nat) (q : List Note) (r : Note) : List Note × Bool × Bool :=
  if 5 ≤ r.kind ∧ r.kind ≤ 7 ∧ q.any (fun x => x.kind = r.kind ∧ x.whorl = r.whorl) then (q, false, false)
  else if q.length < cap then (q ++ [r], true, false)
  else (q, false, true)

/-- A record for the distaff of whorl `n`: its queue of 160, and a pulse of producer 408 + n when it is queued. -/
def State.noteWhorl (s : State) (n : Nat) (r : Note) : State :=
  let (q, queued, lost) := queueNote 160 (s.whl n).notes r
  let s := s.modWhl n fun w => { w with notes := q }
  let s := if lost then s.bump (addrWhlNotest n) fldWhlNotest_LOST else s
  if queued then s.fireProd (408 + n) else s

/-- A record for the escalation queue of the chief distaff (R136), of 128 records. -/
def State.noteEsc (s : State) (r : Note) : State :=
  let (q, _, lost) := queueNote 128 s.escq r
  let s := { s with escq := q }
  if lost then s.bump addrWhlEscst fldWhlEscst_LOST else s

/-- A record of a thread, of kinds 1 to 4 and 8: T0's go to the escalation queue, and the chief distaff's own fault fires
the mill alarm, producer 449 (R136). -/
def State.noteThread (s : State) (g kind cause : Nat) (pc eaddr : Word) : State :=
  let r : Note := { kind := kind, whorl := g / 32, thread := g % 32, cause := cause,
                    st := (s.thr g).st.toNat % 1024, pc := pc, eaddr := eaddr, tb := s.tb32 }
  if g % 32 = 0 then
    let s := s.noteEsc r
    if g = 1248 ∧ kind ≤ 4 then s.fireProd 449 else s
  else s.noteWhorl (g / 32) r

/-- Word `k` of a record (R135). -/
def Note.word (r : Note) : Nat → Word
  | 0 => wordOf (r.kind * 2 ^ 28 + r.whorl % 64 * 2 ^ 22 + r.thread % 32 * 2 ^ 17 + r.cause % 64 * 2 ^ 10 + r.st % 1024)
  | 1 => r.pc
  | 2 => r.eaddr
  | _ => r.tb

/-! ### Memory and its error codes -/

/-- A byte of memory as stored; memory that nothing has written reads 0 (DESIGN CHOICE, log 3). -/
def memByte (m : List Host.Cell) (a : Nat) : Byte := tget (fun _ => 0) m a

/-- A byte stored, in canonical form. -/
def memPut (m : List Host.Cell) (a : Nat) (b : Byte) : List Host.Cell := tput (fun _ => 0) m a b

/-- Bytes stored one after another. -/
def memPuts : List Host.Cell → Nat → List Byte → List Host.Cell
  | m, _, [] => m
  | m, a, b :: r => memPuts (memPut m a b) (a + 1) r

/-- The canonical form of memory: addresses strictly rising, no entry at 0. -/
def Memory.wf (m : List Host.Cell) : Bool := twf (fun _ => (0 : Byte)) m

/-- A block address lies in creel. -/
def inCreel (a : Nat) : Bool := 0x10000000 ≤ a && a < 0x16000000
/-- A block address lies in a lap, at its peer-lap address. -/
def inLap (a : Nat) : Bool := 0x20000000 ≤ a && a < 0x22800000
/-- A block address lies in the spool array view. -/
def inSpool (a : Nat) : Bool := 0x0C000000 ≤ a && a < 0x0C500000
/-- A block address lies in control space. -/
def inCtl (a : Nat) : Bool := 0x40000000 ≤ a && a < 0x50000000

/-- The block address of an own-lap address of whorl `n`. -/
def lapBlk (n a : Nat) : Nat := 0x20000000 + 0x100000 * n + a
/-- The block address of a fetch-space address of whorl `n`. -/
def spoolBlk (n a : Nat) : Nat := 0x0C000000 + 0x20000 * n + a

/-- The width in bytes of an ECC word at an address: 4 in a spool, 8 in a lap or in creel (R158). -/
def eccW (a : Nat) : Nat := if inSpool a then 4 else 8

/-- The values of `n` bits with `k` ones, in rising order. -/
def weightCols (n k : Nat) : List Nat := (List.range (2 ^ n)).filter fun v => popCount n v = k

/-- The columns of the data bits (R476). -/
def eccCols (w : Nat) : List Nat :=
  if w = 4 then (weightCols 7 3).take 32 else weightCols 8 3 ++ (weightCols 8 5).take 8

/-- The check bits of a word's data (R476). -/
def checkBits (w data : Nat) : Nat :=
  ((List.range (8 * w)).zip (eccCols w)).foldl (fun c p => if data.testBit p.1 then c ^^^ p.2 else c) 0

/-- What a syndrome says (R476). -/
inductive Synd where
  | clean | data (bit : Nat) | check | bad
  deriving DecidableEq, Repr

/-- The decoding of R476. -/
def syndOf (w syn : Nat) : Synd :=
  if syn = 0 then .clean
  else if popCount 8 syn = 1 then .check
  else match (eccCols w).findIdx? (· = syn) with
    | some i => .data i
    | none => .bad

/-- The state of the ECC word that starts at `wb`. -/
def State.synd (s : State) (wb : Nat) : Synd := syndOf (eccW wb) (tget (fun _ => (0 : BitVec 8)) s.syn wb).toNat

/-- A byte after correction. -/
def State.goodByte (s : State) (a : Nat) : Byte :=
  let w := eccW a
  let b := memByte s.mem a
  match s.synd (a / w * w) with
  | .data i => if i / 8 = a % w then b ^^^ BitVec.ofNat 8 (2 ^ (i % 8)) else b
  | _ => b

/-- A correctable error counted (R158). -/
def State.logCE (s : State) (wb : Nat) : State :=
  let s := s.bump addrMemEccst fldMemEccst_CECNT
  (s.setFld addrMemEccst fldMemEccst_CE 1).wr addrMemCelog (wordOf wb)

/-- A partition entry in force covers an address, with a use (R157). -/
def State.inPart (s : State) (u a : Nat) : Bool :=
  (List.range 32).any fun k =>
    s.on (addrMemCpattr k) fldMemCpattr_V && s.fld (addrMemCpattr k) fldMemCpattr_USE = u &&
    s.fld (addrMemCpbase k) fldMemCpbase_BASE ≤ a / 2 ^ 16 && a / 2 ^ 16 ≤ s.fld (addrMemCplim k) fldMemCplim_LIMIT

/-- An uncorrectable error found (R159, R160): logged with its master, with unit event 0x0E00 and producer 450 when UE
was clear; CONS for the replay buffers and the ledger partition, which ends the guarantee (R188). -/
def State.logUE (s : State) (master wb : Nat) : State :=
  let s := s.bump addrMemEccst fldMemEccst_UECNT
  let s := if (0x10200000 ≤ wb && wb < 0x10B00000) || (inCreel wb && s.inPart 4 wb) then
      ((s.setFld addrMemEccst fldMemEccst_CONS 1).setFld addrLgrGstat fldLgrGstat_UE 1).setFld addrLgrGstat fldLgrGstat_GUAR 0
    else s
  if s.on addrMemEccst fldMemEccst_UE then s.setFld addrMemEccst fldMemEccst_UEOV 1
  else
    let s := s.setFld addrMemEccst fldMemEccst_UE 1
    let s := (s.wr addrMemUelog (wordOf wb)).wr addrMemUemst (wordOf (master % 256))
    (s.raise 0x0E00).fireProd 450

/-- The first addresses of the ECC words that bytes `a` to `a + n - 1` touch. -/
def eccWords (a n : Nat) : List Nat :=
  if n = 0 then [] else
    let w := eccW a
    (List.range ((a + n - 1) / w - a / w + 1)).map fun i => (a / w + i) * w

/-- The errors of a read noted; false when a word is uncorrectable. -/
def State.readCheck (s : State) (master : Nat) : List Nat → State × Bool
  | [] => (s, true)
  | wb :: r =>
    match s.synd wb with
    | .clean => s.readCheck master r
    | .bad => let (s, _) := (s.logUE master wb).readCheck master r; (s, false)
    | _ => (s.logCE wb).readCheck master r

/-- A read by a master (R158, R159): the corrected bytes, or none when a word holds an uncorrectable error. -/
def State.memRead (s : State) (master a n : Nat) : State × Option (List Byte) :=
  let d := (List.range n).map fun i => s.goodByte (a + i)
  let (s, ok) := s.readCheck master (eccWords a n)
  (s, if ok then some d else none)

/-- A read by a unit that takes bad words marked bad (R159): the bytes, and which of them lie in an uncorrectable word. -/
def State.memFlags (s : State) (master a n : Nat) : State × List Byte × List Bool :=
  ((s.readCheck master (eccWords a n)).1, (List.range n).map fun i => s.goodByte (a + i),
   (List.range n).map fun i => decide (s.synd ((a + i) / eccW a * eccW a) = .bad))

/-- A word's stored bytes corrected and its check bits made right. -/
def State.mendWord (s : State) (wb : Nat) : State :=
  let w := eccW wb
  let d := (List.range w).map fun i => s.goodByte (wb + i)
  { s with mem := memPuts s.mem wb d, syn := tput (fun _ => 0) s.syn wb 0 }

/-- A write of one ECC word's part: a full write clears an error; a partial write merges with the corrected word, and
finds an uncorrectable error writing nothing (R158, R159). -/
def State.wordWrite (s : State) (master wb : Nat) (a : Nat) (d : List Byte) : State × Bool :=
  let w := eccW wb
  let lo := max a wb
  let part := (d.drop (lo - a)).take (wb + w - lo)
  let store := fun (s : State) => { s with mem := memPuts s.mem lo part, syn := tput (fun _ => 0) s.syn wb 0 }
  if part.length = w then (store s, true)
  else match s.synd wb with
    | .clean => (store s, true)
    | .bad => (s.logUE master wb, false)
    | _ => (store ((s.logCE wb).mendWord wb), true)

/-- The words of a write, one after another. -/
def State.wordsWrite (s : State) (master a : Nat) (d : List Byte) : List Nat → State × Bool
  | [] => (s, true)
  | wb :: r =>
    let (s, ok) := s.wordWrite master wb a d
    let (s, ok') := s.wordsWrite master a d r
    (s, ok && ok')

/-- A write by a master; false when a partial write met an uncorrectable error. -/
def State.memWrite (s : State) (master a : Nat) (d : List Byte) : State × Bool :=
  s.wordsWrite master a d (eccWords a d.length)

/-- Bytes laid into words whose errors a read of the same access has found and counted: the words are corrected and their check bits
made right (R158). -/
def State.memLay (s : State) (a : Nat) (d : List Byte) : State :=
  let s := (eccWords a d.length).foldl (fun s wb => if s.synd wb = .clean then s else s.mendWord wb) s
  { s with mem := memPuts s.mem a d }

/-- The bytes of a structure in memory hold no uncorrectable error. -/
def State.sound (s : State) (a n : Nat) : Bool := (eccWords a n).all fun wb => s.synd wb ≠ .bad

/-- An access of a unit to a structure of its own in memory: its errors are counted and logged like any master's (R158, R160). -/
def State.touch (s : State) (master a n : Nat) : State := (s.readCheck master (eccWords a n)).1

/-- A 32-bit word of a unit's own structure, as corrected; its errors are noted by the access's `touch`. -/
def State.peek32 (s : State) (a : Nat) : Nat := leBytes ((List.range 4).map fun i => s.goodByte (a + i))

/-- A 32-bit word of a unit's own structure written; a partial write of an uncorrectable word writes nothing (R159). -/
def State.poke32 (s : State) (a v : Nat) : State := if s.sound a 4 then s.memLay a (bytesLE 4 v) else s

/-- Bytes written marked bad, as an uncorrectable word (R159, R277, R303): their values are free, and the check bits show
two wrong bits. -/
def State.memBad (s : State) (a n : Nat) : State :=
  let k := s.free
  let s := { s with free := k + n, mem := memPuts s.mem a ((List.range n).map fun i => Config.freeByte (k + i)) }
  (eccWords a n).foldl (fun s wb => { s with syn := tput (fun _ => 0) s.syn wb 3 }) s

/-- Bytes of a structure whose layout the spec leaves open: each update leaves free bytes without an error there. -/
def State.memOpen (s : State) (a n : Nat) : State :=
  let k := s.free
  { s with free := k + n }.memLay a ((List.range n).map fun i => Config.freeByte (k + i))

/-! ### Address maps and regions -/

/-- What a data address names. -/
inductive Place where
  | ownLap (blk : Nat)
  | memory (blk : Nat)
  | control (a : Nat)
  | window (a : Nat)
  | unmapped
  deriving DecidableEq, Repr

/-- The map of R140 for a thread of whorl `n`; a spool view is unmapped to the Z world and at user level (R142). -/
def threadMap (n : Nat) (z sup : Bool) (a : Nat) : Place :=
  if a < 0x100000 then .ownLap (lapBlk n a)
  else if 0x08000000 ≤ a ∧ a < 0x08020000 then (if sup && !z then .memory (spoolBlk n (a - 0x08000000)) else .unmapped)
  else if inCreel a || inLap a then .memory a
  else if inCtl a then .control a
  else if 0x80000000 ≤ a then .window a
  else .unmapped

/-- The access kinds of R152. -/
inductive AccKind where
  | read | write | atomic | fetch
  deriving DecidableEq, Repr

/-- Some region of a master, matching the world and level, covers a 4 KiB page with a right: fetches in SPACE 1, data in SPACE 0
(R151, R152). -/
def State.regionGives (s : State) (m : Nat) (z sup fetch : Bool) (right : Bits) (a : Nat) : Bool :=
  (List.range 8).any fun r =>
    let t := addrMemRgnattr m r
    s.on t fldMemRgnattr_EN && (s.on t fldMemRgnattr_WORLD == z) &&
    (if sup then s.on t fldMemRgnattr_LVS else s.on t fldMemRgnattr_LVU) && (s.on t fldMemRgnattr_SPACE == fetch) && s.on t right &&
    s.fld (addrMemRgnbase m r) fldMemRgnbase_BASE ≤ a / 4096 && a / 4096 ≤ s.fld (addrMemRgnlim m r) fldMemRgnlim_LIMIT

/-- The master's regions grant an access that lies in one 4 KiB page; overlapping regions grant the union of their rights (R152). -/
def State.granted (s : State) (m : Nat) (z sup : Bool) (k : AccKind) (a : Nat) : Bool :=
  match k with
  | .read => s.regionGives m z sup false fldMemRgnattr_R a
  | .write => s.regionGives m z sup false fldMemRgnattr_W a
  | .atomic => s.regionGives m z sup false fldMemRgnattr_R a && s.regionGives m z sup false fldMemRgnattr_W a
  | .fetch => s.regionGives m z sup true fldMemRgnattr_X a

/-- Bytes that a unit alone writes: the bobbin descriptor area (R167) and the ledger's set area (R183). -/
def State.closedTo (s : State) (a n : Nat) : Bool :=
  let b := s.fld addrLgrBase fldLgrBase_BASE * 2 ^ 16
  (a < 0x10200000 && 0x10000000 < a + n) || (inCreel b && a < b + 16 * 5504 && b < a + n)

/-- The regions grant every byte of an access of `n` bytes; a write or atomic to a closed area is refused whatever they
grant. -/
def State.grantedAll (s : State) (m : Nat) (z sup : Bool) (k : AccKind) (a n : Nat) : Bool :=
  !((k = .write || k = .atomic) && s.closedTo a n) &&
  (List.range ((a + n - 1) / 4096 - a / 4096 + 1)).all fun i => s.granted m z sup k ((a / 4096 + i) * 4096)

/-! ### Taking an exception -/

/-- A control transfer of the traced thread recorded; a record that overwrites another sets OVF (R473). -/
def State.traced (s : State) (g kind cause : Nat) (src dst : Word) : State :=
  if s.trcThread = some g then
    let r : TraceRec := { src := src, dst := dst, kind := kind, cause := cause, tb := s.tb32 }
    if s.trace.length < 64 then { s with trace := s.trace ++ [r] }
    else { s.setFld addrDbgTrcst fldDbgTrcst_OVF 1 with trace := s.trace.drop 1 ++ [r] }
  else s

/-- The thread can execute a word: READY, with no cause waiting for its entry turns (R36, R126) and no turns owed to the word before
(R114); after a debug stop only the word that it had issued (R63). -/
def Thread.canRun (th : Thread) : Bool :=
  decide (th.state = .ready) && th.entry.isNone && th.owed = 0 && (!th.stopReq || th.issued.isSome)

/-- A word retires (R34, R89): pc moves to the next word; during a repetition rc decreases and pc holds the REP word
until rc reaches 0, and then moves past the repeated word. -/
def Thread.advance (th : Thread) : Thread :=
  if th.rep.isSome then
    if th.rc = 1 then { th with rc := 0, rep := none, repNew := false, pc := th.pc + 8, issued := none }
    else { th with rc := th.rc - 1, repNew := false, issued := none }
  else { th with pc := th.pc + 4, issued := none }

/-- A word retires with a new pc (R85). -/
def Thread.jump (th : Thread) (pc : Word) : Thread := { th with pc := pc, issued := none }

/-- The thread goes FAULTED (R46). -/
def Thread.stopFaulted (th : Thread) : Thread :=
  { th with state := .faulted, wait := .none, entry := none, issued := none, rep := none, repNew := false,
            haltReq := false, stopReq := false }

/-- A thread leaves READY and WAITING: the grant ends when it is T2 of WH39 (R393). -/
def State.leaves (s : State) (g : Nat) : State := if g = 1250 then s.wr addrSecGrant 0 else s

/-- The grant ends when T2 of WH39 is not READY or WAITING. -/
def State.settle (s : State) (g : Nat) : State :=
  match (s.thr g).state with
  | .ready => s
  | .waiting => s
  | _ => s.leaves g

/-- The thread goes FAULTED. -/
def State.faulted (s : State) (g : Nat) : State := (s.modThr g Thread.stopFaulted).leaves g

/-- A word raises a synchronous cause (R125): under EX or IM the thread goes FAULTED with a record, in a fast-path service too, since
SCALL has set IM there (DEDUCED, log 97); otherwise the cause waits for the entry turns. The return address of causes 11 and 12 is
the next word (R122). -/
def State.trap (s : State) (g code detail : Nat) (eaddr : Word) : State :=
  let th := s.thr g
  let epc := if code = 11 ∨ code = 12 then th.wordAddr + 4 else th.pc
  if isOn th.st stEX then (s.noteThread g 1 code th.wordAddr eaddr).faulted g
  else if isOn th.st stIM then (s.noteThread g 2 code th.wordAddr eaddr).faulted g
  else s.modThr g fun th =>
    { th with state := .ready, wait := .none, issued := none,
              entry := some { code := code, detail := detail, async := false, epc := epc, eaddr := eaddr } }

/-- The vbase of a world in a whorl (R124). -/
def State.vbase (s : State) (n : Nat) (z : Bool) : Word := if z then (s.whl n).vbaseZ else (s.whl n).vbaseS

/-- w29 and sstack swapped (R125, R128, R129). -/
def Thread.swapStack (th : Thread) : Thread := { th.set 29 th.sstack with sstack := th.get 29 }

/-- A halt or stop that arrived during entry acts after the second entry turn (R126, R139). -/
def Thread.afterEntry (th : Thread) : Thread :=
  if th.haltReq then { th with state := .halted, haltReq := false, stopReq := false }
  else if th.stopReq then { th with state := .stopped, stopReq := false }
  else th

/-- The steps of enter(c) before the table read (R125): the saved registers, the stack swap, EX, LV and IM. -/
def Thread.enterRegs (th : Thread) (p : Pend) : Thread :=
  let th1 := { th with epc := p.epc, est := th.st, ecause := ecauseWord p.code p.detail p.async, eaddr := p.eaddr,
                       entry := none, issued := none, rep := none, repNew := false }
  let th2 := if isOn th.st stLV then th1 else th1.swapStack
  { th2 with st := setF (setOn (setOn (setOn th2.st stEX) stLV) stIM) stFATAL 0 }

/-- enter(c) of R125 with the check of R127: the handler address read from the thread's own lap as the world's
supervisor, or FAULTED with a kind 3 record. -/
def State.enter (s : State) (g : Nat) (p : Pend) : State :=
  let th := s.thr g
  let n := g / 32
  let z := th.isZ
  let pcWord := th.wordAddr
  let s := s.modThr g fun th => th.enterRegs p
  let s := if p.async ∧ 32 ≤ p.code then
      s.modThr g fun th => { th with ev := th.ev &&& ~~~ wordOf (2 ^ (p.code - 32)) }
    else if p.async then s.setFld (addrWhlTexc n (g % 32)) fldWhlTexc_LSEP 0 else s
  let t := (s.vbase n z).toNat + 0x100 * b2n th.isSup + 4 * p.code
  let bad := fun (s : State) => (s.noteThread g 3 p.code pcWord p.eaddr).faulted g
  if t < 0x100000 && s.granted n z true .read t then
    match s.memRead n (lapBlk n t) 4 with
    | (s, none) => bad s
    | (s, some d) =>
      let h := leBytes d
      if h % 4 = 0 ∧ h < 0x20000 then
        ((s.modThr g fun th => { th with pc := wordOf h }.afterEntry).traced g 4 p.code pcWord (wordOf h)).settle g
      else bad s
  else bad s

/-- The steps of ERET (R128): escalation under FATAL, else pc and st restored with W kept and the stacks swapped back
when the handler was entered from user level. The record of an escalation names the ERET word and holds the thread's eaddr (DESIGN
CHOICE, log 98). `kind` is the trace kind, 5 for ERET and 7 for SRET (R473). -/
def State.eret (s : State) (g kind : Nat) : State :=
  let th := s.thr g
  if isOn th.st stFATAL then
    (s.noteThread g 4 (th.ecause.toNat % 64) th.wordAddr th.eaddr).faulted g
  else
    let st' := setF (setF th.est stW (getF th.st stW)) stFATAL 0
    let th1 := { th with st := st', issued := none, pc := th.epc }
    (s.setThr g (if isOn th.est stLV then th1 else th1.swapStack)).traced g kind 0 th.wordAddr th.epc

/-- Cause of a fetch by a thread at an address: region fault 6, else uncorrectable 14, else the word (R85, R159). -/
def State.fetch (s : State) (g : Nat) (pc : Word) : State × Except Nat Word :=
  let th := s.thr g
  let n := g / 32
  if pc.toNat < 0x20000 && s.granted n th.isZ th.isSup .fetch pc.toNat then
    match s.memRead 255 (spoolBlk n pc.toNat) 4 with
    | (s, some d) => (s, .ok (wordOf (leBytes d)))
    | (s, none) => (s, .error 14)
  else (s, .error 6)

end Sys2Proof.Machine
end

