-- ==== Sys2Proof/Machine/HostOut.lean ====
section
/-! DEFINITION. The block's side of the host attach port as the other units use it: the common enable rule (R440), DREQ
and HRSP flits with their credits (R409, R415, R416), posted writes and their failure (R418), interrupt vectors (R420,
R421), the late store error (R133) and a draft engine's fault (R278). -/

namespace Sys2Proof.Machine

/-! ### The common enable rule (R440) -/

/-- The enable fields that every unit's control register holds at the same places. -/
def enEN : Bits := ⟨0, 0⟩
def enSTATE : Bits := ⟨2, 1⟩
def enENQ : Bits := ⟨3, 3⟩
def enDSQ : Bits := ⟨4, 4⟩

/-- STATE of the unit whose control register lies at `a`: 0 OFF, 1 STARTING, 2 ON, 3 STOPPING. -/
def State.unitState (s : State) (a : Nat) : Nat := s.fld a enSTATE

/-- A write of EN acts on STATE, ENQ and DSQ as the table of R440 says. -/
def enableRule (w : Word) (en : Nat) : Word :=
  if getF w enEN = en then w
  else
    let w := setF w enEN en
    match getF w enSTATE, en with
    | 0, 1 => setF w enSTATE 1
    | 1, 1 => setF w enDSQ 0
    | 1, _ => setF w enDSQ 1
    | 2, 0 => setF w enSTATE 3
    | 3, 1 => setF w enENQ 1
    | 3, _ => setF w enENQ 0
    | _, _ => w

/-- The end of STARTING (R440). -/
def startingEnd (w : Word) : Word :=
  if getF w enSTATE = 1 then
    if getF w enDSQ = 1 then setF (setF w enDSQ 0) enSTATE 3 else setF w enSTATE 2
  else w

/-- The end of STOPPING (R440). -/
def stoppingEnd (w : Word) : Word :=
  if getF w enSTATE = 3 then
    if getF w enENQ = 1 then setF (setF w enENQ 0) enSTATE 1 else setF w enSTATE 0
  else w

/-! ### Draft faults and late store errors -/

/-- A draft engine faults (R277, R278): the command address, DETAIL, the element indices and the faulting address are
recorded, event k = 1 and producer 248 + e fire, and the engine is FAULTED. -/
def State.drfFault (s : State) (e detail j0 j1 j2 faddr : Nat) : State :=
  let s := (s.wr (addrDrfFcmd e 0) (s.rd (addrDrfCur e 0))).wr (addrDrfFcmd e 1) (s.rd (addrDrfCur e 1))
  let s := s.wr (addrDrfFdet e) (wordOf detail)
  let s := s.wr (addrDrfFidx e) (wordOf (j0 % 65536 + 65536 * (j1 % 65536)))
  let s := s.wr (addrDrfFidx2 e) (wordOf (j2 % 65536))
  let s := (s.wr (addrDrfFaddr e 0) (wordOf faddr)).wr (addrDrfFaddr e 1) (wordOf (faddr / 2 ^ 32 % 2 ^ 20))
  let s := (s.setFld (addrDrfStatus e) fldDrfStatus_RUN 4).bump (addrDrfCnt e 3) fldDrfCnt_COUNT
  (s.raise (0x0400 + 4 * e + 1)).fireProd (248 + e)

/-- A store that fails after leaving the store buffer (R133): lse and LSEP, LSEOV when LSEP is set, and a record of kind
8 for a HALTED or FAULTED thread. -/
def State.lateStore (s : State) (g : Nat) (addr : Word) : State :=
  let th := s.thr g
  let a := addrWhlTexc (g / 32) (g % 32)
  if th.state = .halted ∨ th.state = .faulted then s.noteThread g 8 0 0 addr
  else if s.on a fldWhlTexc_LSEP then s.setFld a fldWhlTexc_LSEOV 1
  else (s.setFld a fldWhlTexc_LSEP 1).modThr g fun th => { th with lse := addr }

/-! ### Channels -/

/-- A channel's own state. -/
def State.hapc (s : State) (c : Nat) : HapCh := tget (fun _ => {}) s.hap c
/-- A channel's own state replaced. -/
def State.setHapc (s : State) (c : Nat) (x : HapCh) : State := { s with hap := tset s.hap c x }
/-- A channel's own state changed. -/
def State.modHapc (s : State) (c : Nat) (f : HapCh → HapCh) : State := s.setHapc c (f (s.hapc c))

/-- The channel of a master (R415): three bits of HAP_MCH. -/
def State.chanOf (s : State) (m : Nat) : Nat := (s.rd (addrHapMch (m / 8))).toNat / 2 ^ (3 * (m % 8)) % 8

/-- The channel is ON (R422). -/
def State.hapOn (s : State) (c : Nat) : Bool := s.unitState (addrHapCtl c) = 2

/-- Flits move: the channel is ON and HCLK runs (R422). -/
def State.hapMoves (s : State) (c : Nat) : Bool := s.hapOn c && s.on addrHapGstat fldHapGstat_HCLKOK

/-- A counter of a channel counted up, saturating (R429). -/
def State.hapCount (s : State) (c i : Nat) : State := s.bump (addrHapCnt c i) fldHapCnt_COUNT

/-- Responses move also while the channel is STOPPING: it completes the requests that it has received (R422). -/
def State.hapAnswers (s : State) (c : Nat) : Bool :=
  (s.hapOn c || s.unitState (addrHapCtl c) = 3) && s.on addrHapGstat fldHapGstat_HCLKOK

/-- The waiting flits of a channel presented, oldest first, while it has credits (R409). `fuel` bounds the number. -/
def State.hapPump : Nat → Nat → State → State
  | 0, _, s => s
  | fuel + 1, c, s =>
    let h := s.hapc c
    if !s.hapAnswers c then s
    else match h.hrspQ, h.crHrsp, h.dreqQ, h.crDreq with
      | f :: r, k + 1, _, _ =>
        State.hapPump fuel c (({ s with hrspOut := s.hrspOut ++ [f] }.setHapc c { h with hrspQ := r, crHrsp := k }).hapCount c 1)
      | _, _, f :: r, k + 1 =>
        if s.hapMoves c then
          let s := ({ s with dreqOut := s.dreqOut ++ [f] }.setHapc c { h with dreqQ := r, crDreq := k }).hapCount c 2
          State.hapPump fuel c (if f.op = 2 then s.hapCount c 7 else s)
        else s
      | _, _, _, _ => s

/-- The waiting flits presented. -/
def State.hapFlush (s : State) (c : Nat) : State :=
  s.hapPump ((s.hapc c).hrspQ.length + (s.hapc c).dreqQ.length) c

/-- A response queued for the host. -/
def State.hapRespond (s : State) (r : Hrsp) : State :=
  (s.modHapc r.ch fun h => { h with hrspQ := h.hrspQ ++ [r] }).hapFlush r.ch

/-- A request of the host refused (R412, R413, R429): counted, with an error response of no data. -/
def State.hapRefuse (s : State) (c status tag idx : Nat) : State :=
  (s.hapCount c 6).hapRespond { ch := c, status := status, tag := tag, idx := idx, data := List.replicate 128 0 }

/-- A posted write has failed (R418). -/
def State.writeFail (s : State) (c : Nat) (who : Asker) (addr : Nat) : State :=
  let s := ((s.setFld (addrHapStatus c) fldHapStatus_WERR 1).raise (0x0D00 + 4 * c + 1)).hapCount c 5
  match who with
  | .thread g => s.lateStore g (wordOf addr)
  | .draft e ix => s.drfFault e 10 ix.1 ix.2.1 ix.2.2 addr
  | .port _ => s
  | .debug _ => s
  | .none => s

/-- One posted flit, WR or INT, put on a channel with its write sequence number (R415, R418). -/
def State.postFlit (s : State) (who : Asker) (win : Nat) (f : Dreq) : State :=
  let h := s.hapc f.ch
  let f := { f with tag := h.wseq % 1024 }
  let h := { h with wseq := (h.wseq + 1) % 1024,
                    wlog := (h.wlog ++ [({ wseq := f.tag, who := who, addr := win } : PWrite)]).drop (h.wlog.length + 1 - 1024),
                    dreqQ := h.dreqQ ++ [f] }
  (s.setHapc f.ch h).hapFlush f.ch

/-- The 128-byte lines of a run of host bytes (R408). -/
def hostLines : Nat → Nat → List Byte → List (Nat × List Byte)
  | 0, _, _ => []
  | fuel + 1, a, d =>
    if d.isEmpty then []
    else
      let k := 128 - a % 128
      (a, d.take k) :: hostLines fuel (a + k) (d.drop k)

/-- Posted writes to host memory by a master on its channel, one flit a line; on a channel that is not ON they fail at
once (R416, R418). -/
def State.hostWrite (s : State) (m : Nat) (z : Bool) (who : Asker) (win haddr : Nat) (d : List Byte) : State :=
  let c := s.chanOf m
  if s.hapOn c then
    (hostLines (d.length + 1) haddr d).foldl (fun s l =>
      s.postFlit who win { ch := c, op := 1, tag := 0, len := 0, master := m, w := z, vec := 0, addr := l.1, data := l.2 }) s
  else s.writeFail c who win

/-- The host address of a window address, none where the window is disabled (R419). -/
def State.winAddr (s : State) (a : Nat) : Option Nat :=
  let w := (a - 0x80000000) / 2 ^ 27
  if s.on (addrHapWin w) fldHapWin_EN then some (s.fld (addrHapWin w) fldHapWin_BASE * 2 ^ 27 + (a - 0x80000000) % 2 ^ 27)
  else none

/-- A one-line host read by a master on its channel (R415, R417): the lowest tag that is neither in use nor quarantined; channel
times 1,024 plus the tag, or none while there is no tag. -/
def State.hostRead (s : State) (m : Nat) (z : Bool) (who : Asker) (haddr : Nat) : State × Option Nat :=
  let c := s.chanOf m
  let h := s.hapc c
  match firstBelow 1024 fun t => !h.quar.contains t && !h.reads.any fun r => r.tag = t with
  | none => (s, none)
  | some t =>
    let f : Dreq := { ch := c, op := 0, tag := t, len := 0, master := m, w := z, vec := 0, addr := haddr / 128 * 128, data := [] }
    let r : HRead := { tag := t, len := 0, got := [], who := who }
    ((s.setHapc c { h with reads := h.reads ++ [r], dreqQ := h.dreqQ ++ [f] }).hapFlush c, some (c * 1024 + t))

/-- Reads of `n` bytes of host memory by a unit, whose answers the command that makes them brings (R3, R415; log 9): an RD request of
one line each, under the lowest free tag, which its answer returns at once. -/
def State.askHost (s : State) (m : Nat) (z : Bool) (a n : Nat) : State :=
  let c := s.chanOf m
  (List.range ((a + n + 127) / 128 - a / 128)).foldl (fun s i =>
    let h := s.hapc c
    let t := (firstBelow 1024 fun t => !h.quar.contains t && !h.reads.any fun r => r.tag = t).getD 0
    let f : Dreq := { ch := c, op := 0, tag := t, len := 0, master := m, w := z, vec := 0, addr := (a / 128 + i) * 128, data := [] }
    (s.setHapc c { h with dreqQ := h.dreqQ ++ [f] }).hapFlush c) s

/-! ### Interrupt vectors (R420, R421) -/

/-- While EN, ARMED and PEND are all 1 a vector sends its INT flit, and PEND and ARMED clear. -/
def State.irqSend (s : State) (v c m : Nat) (z : Bool) : State :=
  let a := addrHapIctl v
  if s.on a fldHapIctl_EN && s.on a fldHapIctl_ARMED && s.on a fldHapIctl_PEND then
    let s := (s.setFld a fldHapIctl_PEND 0).setFld a fldHapIctl_ARMED 0
    let f : Dreq := { ch := c, op := 2, tag := 0, len := 0, master := m, w := z, vec := v,
                      addr := s.fld (addrHapIaddrh v) fldHapIaddrh_ADDRH * 2 ^ 32 + (s.rd (addrHapIaddr v)).toNat,
                      data := bytesLE 4 (s.rd (addrHapIdata v)).toNat }
    if s.hapOn c then s.postFlit .none 0 f else s.writeFail c .none 0
  else s

/-- A vector fires. -/
def State.irqFire (s : State) (v c m : Nat) (z : Bool) : State :=
  ({ s with irqBy := tset s.irqBy v (m, z) }.setFld (addrHapIctl v) fldHapIctl_PEND 1).irqSend v c m z

/-- A held firing sent if it can be: a CLASS 1 vector's on the channel of the master that fired it last, a CLASS 2 vector's on
its CH (R421). -/
def State.irqHeld (s : State) (v : Nat) : State :=
  if s.fld (addrHapIctl v) fldHapIctl_CLASS = 2 then s.irqSend v (s.fld (addrHapIctl v) fldHapIctl_CH) 0xFF false
  else
    let (m, z) := tget (fun _ => (0xFF, false)) s.irqBy v
    s.irqSend v (s.chanOf m) m z

/-- PROD of a bobbin has advanced: every CLASS 1 vector on it fires on the channel of the advancing master. -/
def State.irqBobbin (s : State) (k m : Nat) (z : Bool) : State :=
  (List.range 256).foldl (fun s v =>
    let a := addrHapIctl v
    if s.fld a fldHapIctl_CLASS = 1 ∧ s.fld a fldHapIctl_INDEX = k then s.irqFire v (s.chanOf m) m z else s) s

end Sys2Proof.Machine
end

