-- ==== Sys2Proof/Machine/BobCore.lean ====
section
/-! DEFINITION. Bobbin descriptors and rings (R166 to R170), the slips that engines write (R172), who may ring and release
(R174, R175), the counter sets of the ledger and their moves (R183, R184). -/

namespace Sys2Proof.Machine

/-! ### Descriptors (R166) -/

/-- The fields of a descriptor's words. -/
def bdV : Bits := ⟨31, 31⟩
def bdTYPE : Bits := ⟨30, 28⟩
def bdLOC : Bits := ⟨27, 27⟩
def bdOWW : Bits := ⟨26, 26⟩
def bdPSCOPE : Bits := ⟨25, 24⟩
def bdSIZE : Bits := ⟨23, 20⟩
def bdOWNER : Bits := ⟨10, 0⟩
def bdHOME : Bits := ⟨31, 24⟩
def bdLWIN : Bits := ⟨23, 16⟩
def bdCPLB : Bits := ⟨15, 0⟩
def bdRBASEH : Bits := ⟨19, 0⟩
def bdSFCNT : Bits := ⟨31, 16⟩
def bdPOOL : Bits := ⟨11, 0⟩

/-- The bobbin types. -/
def tyTX : Nat := 0
def tyRX : Nat := 1
def tyCPL : Nat := 2
def tyEVT : Nat := 3
def tyCHN : Nat := 4

/-- The address of a descriptor word. -/
def bdAddr (k i : Nat) : Nat := 0x10000000 + 32 * k + 4 * i
/-- A descriptor word. -/
def State.bd (s : State) (k i : Nat) : Nat := s.peek32 (bdAddr k i)
/-- A descriptor word written by the bobbin unit. -/
def State.setBd (s : State) (k i v : Nat) : State := s.poke32 (bdAddr k i) v
/-- A field of a descriptor word. -/
def State.bdf (s : State) (k i : Nat) (b : Bits) : Nat := natField (s.bd k i) b
/-- The bobbin unit's own valid bit (R166). -/
def State.bobHeld (s : State) (k : Nat) : Bool := tget (fun _ => false) s.bobV k
/-- A bobbin that the unit can act for: V is 1, and its descriptor holds no uncorrectable word, which is never used as good
(R159; what follows is a DESIGN CHOICE, log 103). -/
def State.bobValid (s : State) (k : Nat) : Bool := s.bobHeld k && s.sound (bdAddr k 0) 32
/-- An access to a descriptor for a master: its errors counted and logged (R158, R160). -/
def State.bobTouch (s : State) (m k : Nat) : State := s.touch m (bdAddr k 0) 32
/-- The regions of port P(p) let it read a descriptor, as S-world supervisor (R151). -/
def State.bobMay (s : State) (p k : Nat) : Bool := s.granted (64 + p) false true .read (bdAddr k 0)
/-- The home engine of a bobbin can act for it: it can use the descriptor, and its regions let it read it (log 103). -/
def State.bobServes (s : State) (k : Nat) : Bool := s.bobValid k && s.bobMay (s.bdf k 1 bdHOME) k
/-- TYPE. -/
def State.bobType (s : State) (k : Nat) : Nat := s.bdf k 0 bdTYPE
/-- N, the entries of the ring. -/
def State.bobN (s : State) (k : Nat) : Nat := 2 ^ (s.bdf k 0 bdSIZE + 4)
/-- The owner's world is Z. -/
def State.bobZ (s : State) (k : Nat) : Bool := s.bdf k 0 bdOWW = 1
/-- STATE is ON. -/
def State.bobOn (s : State) (k : Nat) : Bool := s.bobValid k && s.unitState (addrBobBctl k) = 2
/-- PROD and CONS. -/
def State.prod (s : State) (k : Nat) : Nat := s.bd k 4
def State.cons (s : State) (k : Nat) : Nat := s.bd k 5
/-- Entries held (R170). -/
def State.bobFill (s : State) (k : Nat) : Nat := (s.prod k + 2 ^ 32 - s.cons k) % 2 ^ 32
/-- The not-empty level (R168). -/
def State.bobNotEmpty (s : State) (k : Nat) : Bool := s.bobOn k && s.prod k ≠ s.cons k
/-- The whorl that HOME fixes (R168). -/
def State.bobWhorl (s : State) (k : Nat) : Nat :=
  let h := s.bdf k 1 bdHOME
  if h < 144 then h / 4 else h - 160

/-- BOB_BCTL written with its image in word 7. -/
def State.setBctl (s : State) (k : Nat) (w : Word) : State := (s.wr (addrBobBctl k) w).setBd k 7 w.toNat

/-- A thread may ring or release a bobbin: its owner, or under PSCOPE (R166, R174). -/
def State.bobThreadOk (s : State) (k g : Nat) : Bool :=
  let own := s.bdf k 0 bdOWNER
  let ps := s.bdf k 0 bdPSCOPE
  let w := (s.thr g).isZ == s.bobZ k
  own = g || (w && ((ps = 1 && own / 32 = g / 32) || 2 ≤ ps))

/-! ### Rings (R170) -/

/-- The ring base: a block address or a host address. -/
def State.ringBase (s : State) (k : Nat) : Nat :=
  s.bd k 2 / 64 * 64 + (if s.bdf k 0 bdLOC = 1 then s.bdf k 3 bdRBASEH * 2 ^ 32 else 0)

/-- The address of entry `i`. -/
def State.entryAddr (s : State) (k i : Nat) : Nat := s.ringBase k + 64 * (i % s.bobN k)

/-- PROD advances by a count (R170): the bobbin's not-empty event is a unit event while it is ON (R62), and CLASS 1 vectors on the
bobbin fire on the channel of the advancing master. -/
def State.advProd (s : State) (k cnt m : Nat) (z : Bool) : State :=
  let s := s.setBd k 4 ((s.prod k + cnt) % 2 ^ 32)
  (if s.bobOn k then s.active else s).irqBobbin k m z

/-- Sixteen words as the 64 bytes of a slip. -/
def slipBytes (ws : List Nat) : List Byte := (padTo 16 0 ws).flatMap (bytesLE 4)

/-- Who hears of a failed write of a slip (R418). -/
def slipAsker (m : Nat) : Asker :=
  if 64 ≤ m then .port (m - 64) else if 40 ≤ m ∧ m < 48 then .draft (m - 40) (0, 0, 0) else .none

/-- A slip written at PROD by a master in a world and level, and PROD advanced: into a creel ring under the master's regions, or into
host memory; one whose write fails at once leaves PROD. -/
def State.slipNow (s : State) (m : Nat) (z lv : Bool) (k : Nat) (ws : List Nat) : State :=
  let a := s.entryAddr k (s.prod k)
  if s.bdf k 0 bdLOC = 1 then
    if s.hapOn (s.chanOf m) then (s.hostWrite m z (slipAsker m) a a (slipBytes ws)).advProd k 1 m z
    else s.writeFail (s.chanOf m) (slipAsker m) a
  else if s.grantedAll m z lv .write a 64 then ((s.memWrite m a (slipBytes ws)).1).advProd k 1 m z
  else s

/-- A slip for a consumer bobbin by a master in a world and level: a full ring keeps it waiting behind earlier ones; a bobbin that is
not ON takes none (log 12). -/
def State.putSlipAs (s : State) (m : Nat) (z lv : Bool) (k : Nat) (ws : List Nat) : State :=
  let s := s.bobTouch m k
  if !s.bobOn k then s
  else if s.bobFill k ≥ s.bobN k ∨ s.slipWait.any (fun x => x.1 = k) then
    { s with slipWait := s.slipWait ++ [(k, m, z, lv, ws)] }
  else s.slipNow m z lv k ws

/-- A slip of a port's engine or of a unit that is no master: in the world of the bobbin's owner at user level (R151). -/
def State.putSlip (s : State) (m k : Nat) (ws : List Nat) : State := s.putSlipAs m (s.bobZ k) false k ws

/-- Waiting slips of a bobbin written while its ring has room. -/
def State.flushSlips : Nat → Nat → State → State
  | 0, _, s => s
  | fuel + 1, k, s =>
    match s.slipWait.find? (fun x => x.1 = k) with
    | some (_, m, z, lv, ws) =>
      if s.bobOn k && s.bobFill k < s.bobN k then
        State.flushSlips fuel k ({ s with slipWait := s.slipWait.eraseP (fun x => x.1 = k) }.slipNow m z lv k ws)
      else s
    | none => s

/-- TB in words 6 and 7 of a slip. -/
def State.tbWords (s : State) : Nat × Nat := (s.tb64 % 2 ^ 32, s.tb64 / 2 ^ 32)

/-- A completion slip of KIND 1, 2, 4 or 5 (R172). -/
def State.cplSlip (s : State) (kind detail bob index taglo taghi peer msgid : Nat) : List Nat :=
  let (t0, t1) := s.tbWords
  [kind * 2 ^ 28 + detail * 2 ^ 20 + bob, index, taglo, taghi,
   if kind = 2 then peer * 2 ^ 16 + msgid else 0, 0, t0, t1]

/-- An arrival error slip, KIND 3 (R172). -/
def State.errSlip (s : State) (detail bob src msgid : Nat) : List Nat :=
  let (t0, t1) := s.tbWords
  [3 * 2 ^ 28 + detail * 2 ^ 20 + bob, 0, 0, 0, src * 2 ^ 16 + msgid, 0, t0, t1]

/-- A KIND 7 slip with its words 1 to 5, and TB where the unit's chapter writes it (R172). -/
def evtSlip (ws : List Nat) (t0 t1 : Nat) : List Nat := (7 * 2 ^ 28) :: padTo 5 0 ws ++ [t0, t1]

/-- The master that writes a slip for a unit that is no master: the one of the bobbin's HOME (R168). -/
def State.homeMaster (s : State) (k : Nat) : Nat :=
  let h := s.bdf k 1 bdHOME
  if h < 144 then 64 + h else h - 160

/-! ### The ledger (R183, R184) -/

/-- The counters of a set. -/
inductive Ctr where
  | grant | free | held | flight
  deriving DecidableEq, Repr

/-- The place of a counter in its set. -/
def Ctr.idx : Ctr → Nat
  | .grant => 0
  | .free => 1
  | .held => 2
  | .flight => 3

/-- The address of a set; none while LGR_BASE names no creel address. -/
def State.lgrSet (s : State) (set : Nat) : Option Nat :=
  let b := s.fld addrLgrBase fldLgrBase_BASE * 2 ^ 16
  if inCreel b then some (b + 16 * set) else none

/-- A counter. -/
def State.ctr (s : State) (set : Nat) (c : Ctr) : Nat :=
  match s.lgrSet set with
  | some a => s.peek32 (a + 4 * c.idx)
  | none => 0

/-- A counter written by the ledger. -/
def State.setCtr (s : State) (set : Nat) (c : Ctr) (v : Nat) : State :=
  match s.lgrSet set with
  | some a => s.poke32 (a + 4 * c.idx) v
  | none => s

/-- The counters of a set hold no uncorrectable word, which is never used as good (R159; what follows is a DESIGN CHOICE, log 103). -/
def State.setSound (s : State) (set : Nat) : Bool :=
  match s.lgrSet set with
  | some a => s.sound a 16
  | none => true

/-- An access of a unit that is no master of R151 to a structure of its own: its errors counted and logged, with a free index. -/
def State.touchFree (s : State) (a n : Nat) : State :=
  if (eccWords a n).all fun wb => s.synd wb = .clean then s
  else let (k, s) := s.nextFree; s.touch (Config.freeByte k).toNat a n

/-- The ledger's access to a set. -/
def State.setTouch (s : State) (set : Nat) : State :=
  match s.lgrSet set with
  | some a => s.touchFree a 16
  | none => s

/-- The move of R184 is possible: the counter it draws on holds the amount. -/
def State.canMove (s : State) (set : Nat) (src : Ctr) (n : Nat) : Bool := s.setSound set && n ≤ s.ctr set src

/-- A move between two counters of a set, one access (R184). -/
def State.move (s : State) (set : Nat) (src dst : Ctr) (n : Nat) : State :=
  let s := s.setTouch set
  if s.canMove set src n then
    let a := s.ctr set src - n
    let s := s.setCtr set src a
    s.setCtr set dst (s.ctr set dst + n)
  else s

/-- All four counters of a set written in one access; a full write clears an error (R159). -/
def State.setAll (s : State) (set g f h l : Nat) : State :=
  match s.lgrSet set with
  | some a => (s.memWrite 0 a (bytesLE 4 g ++ bytesLE 4 f ++ bytesLE 4 h ++ bytesLE 4 l)).1
  | none => s

/-- The set of a port's class, and of a buffer quota (R183). -/
def portSet (p tc : Nat) : Nat := 4096 + 8 * p + tc
def quotaSet (q : Nat) : Nat := 5248 + q

/-- The identity that the ledger checks (R186). -/
def State.setOk (s : State) (set : Nat) : Bool :=
  s.ctr set .grant = s.ctr set .free + s.ctr set .held + s.ctr set .flight

/-- The world of a pool (R184). -/
def State.poolZ (s : State) (p : Nat) : Bool := s.on (addrLgrPattr p) fldLgrPattr_WORLD

/-! ### Releases (R175, R178) -/

/-- A landing record of a released arrival slip marked, and the space at the head of the window freed while its records
are released, with the quota's moves (R178, R184). -/
def freeHead (quota : Nat) : List Landing → State → List Landing × State
  | [], s => ([], s)
  | r :: l, s =>
    if r.released then
      freeHead quota l ((s.move (quotaSet quota) .held .flight r.units).move (quotaSet quota) .flight .free r.units)
    else (r :: l, s)

/-- The first unreleased record of a bobbin marked released. -/
def markReleased (k : Nat) : List Landing → List Landing
  | [] => []
  | r :: l => if r.bob = k ∧ !r.released then { r with released := true } :: l else r :: markReleased k l

/-- One arrival slip of an RX bobbin released (R178). -/
def State.releaseLanding (s : State) (k : Nat) : State :=
  if s.bobType k = tyRX then
    let w := s.bdf k 1 bdLWIN
    let lw := tget (fun _ => {}) s.lwins w
    let (l, s) := freeHead (s.fld (addrBobLwq w) fldBobLwq_QUOTA) (markReleased k lw.recs) s
    { s with lwins := tset s.lwins w { lw with recs := l } }
  else s

/-- CONS advances by a count: released slips free landing space, and waiting slips take the room. -/
def State.advCons (s : State) (k cnt : Nat) : State :=
  let s := s.setBd k 5 ((s.cons k + cnt) % 2 ^ 32)
  let s := (List.range cnt).foldl (fun s _ => s.releaseLanding k) s
  s.flushSlips s.slipWait.length k

/-- The outcome of a doorbell or release at the bobbin unit (R174, R175): the state, and whether it was taken. A doorbell
needs STATE ON, type TX or CHN and room; an overflow sets OVF. A release needs a consumer bobbin and may not pass
PROD. -/
def State.ring (s : State) (k cnt : Nat) (rel : Bool) (m : Nat) (z : Bool) : State × Bool :=
  let s := s.bobTouch m k
  let ty := s.bobType k
  if rel then
    if !s.bobValid k ∨ ty = tyTX ∨ s.bobFill k < cnt then (s, false) else (s.advCons k cnt, true)
  else if !s.bobOn k then (s, false)
  else if ty ≠ tyTX ∧ ty ≠ tyCHN then (s, false)
  else if s.bobFill k + cnt > s.bobN k then (s.setBctl k (setF (s.rd (addrBobBctl k)) fldBobBctl_OVF 1), false)
  else (s.advProd k cnt m z, true)

end Sys2Proof.Machine
end

