-- ==== Sys2Proof/Machine/Lines.lean ====
section
/-! DEFINITION. The two ends of channels (R54, R57), the event lines of a thread (R48 to R53), its pending asynchronous causes
(R131, R132), and whether a thread's word may run. -/

namespace Sys2Proof.Machine

/-! ### Cross channels (R57) -/

/-- The end that this end of a cross channel names: whorl and index. -/
def State.xpeer (s : State) (n x : Nat) : Nat × Nat :=
  (s.fld (addrWhlXcfg n x) fldWhlXcfg_PWH, s.fld (addrWhlXcfg n x) fldWhlXcfg_PX)

/-- Both ends enabled, with opposite DIR, and naming each other. -/
def State.linked (s : State) (n x : Nat) : Bool :=
  let (m, y) := s.xpeer n x
  let a := addrWhlXcfg n x
  let b := addrWhlXcfg m y
  m < 40 && s.on a fldWhlXcfg_EN && s.on b fldWhlXcfg_EN && s.fld a fldWhlXcfg_DIR ≠ s.fld b fldWhlXcfg_DIR &&
    s.xpeer m y = (n, x)

/-- This end receives. -/
def State.xReceives (s : State) (n x : Nat) : Bool := s.on (addrWhlXcfg n x) fldWhlXcfg_DIR

/-- The sending and receiving ends of a linked channel, seen from either end. -/
def State.xSender (s : State) (n x : Nat) : Nat × Nat := if s.xReceives n x then s.xpeer n x else (n, x)
def State.xReceiver (s : State) (n x : Nat) : Nat × Nat := if s.xReceives n x then (n, x) else s.xpeer n x

/-- The record of a channel's end that holds the FIFO, and its number of words: for a cross channel the receiving end's,
with the words in flight. -/
def State.chFifo (s : State) (n ch : Nat) : Chan :=
  if ch < 64 then s.chan n ch
  else if s.linked n (ch - 64) then s.xend (s.xReceiver n (ch - 64)).1 (s.xReceiver n (ch - 64)).2
  else s.xend n (ch - 64)

/-- The record of the sending end: the frame in progress and the sender's flush mark. -/
def State.chSend (s : State) (n ch : Nat) : Chan :=
  if ch < 64 then s.chan n ch
  else if s.linked n (ch - 64) then s.xend (s.xSender n (ch - 64)).1 (s.xSender n (ch - 64)).2
  else s.xend n (ch - 64)

/-- FILL (R54, R57). -/
def State.chFill (s : State) (n ch : Nat) : Nat := (s.chFifo n ch).q.length + (s.chFifo n ch).flight.length

/-- The words a FIFO takes: 4, or 8 in flight or queued. -/
def chCap (ch : Nat) : Nat := if ch < 64 then 4 else 8

/-! ### Event lines (R48 to R53) -/

/-- The level of line `i` of a thread, for the sources that are levels (R49). -/
def State.lineLevel (s : State) (n t i : Nat) : Bool :=
  if i = 28 then t = 0 && (!(s.whl n).notes.isEmpty || (n = 39 && !s.escq.isEmpty))
  else if 1 ≤ i ∧ i ≤ 27 then
    let a := addrWhlEvsrc n t i
    let x := s.fld a fldWhlEvsrc_INDEX
    match s.fld a fldWhlEvsrc_CLASS with
    | 1 => x < 64 && !(s.chan n x).q.isEmpty
    | 2 => x < 64 && s.on (addrWhlChcfg n x) fldWhlChcfg_EN && (s.chan n x).q.length < 4
    | 3 => x < 16 && s.linked n x && s.xReceives n x && !(s.xend n x).q.isEmpty
    | 4 => x < 16 && s.linked n x && !s.xReceives n x && s.chFill n (64 + x) < 8
    | 5 => s.bobNotEmpty x && s.bobWhorl x = n
    | 7 => x = 0x0600 && n = 37 && (List.range 5).any fun w => s.rd (addrSknTsnew w) ≠ 0
    | _ => false
  else false

/-- The pending lines of a thread: latched edges and levels (R49). -/
def State.lines (s : State) (g : Nat) : Word :=
  (s.thr g).ev ||| wordOf ((List.range 32).foldl (fun v i => if s.lineLevel (g / 32) (g % 32) i then v + 2 ^ i else v) 0)

/-- The mask of a WFE: T0 always includes lines 28 to 30 (R50). -/
def wfeMask (g : Nat) (m : Word) : Word := if g % 32 = 0 then m ||| 0x70000000 else m

/-- The lines enabled as interrupts (R53). -/
def State.ieMask (s : State) (g : Nat) : Word :=
  wordOf ((List.range 28).foldl (fun v i =>
    if i ≠ 0 && s.on (addrWhlEvsrc (g / 32) (g % 32) i) fldWhlEvsrc_IE then v + 2 ^ i else v) 0)

/-! ### Asynchronous causes (R131, R132) -/

/-- The lowest pending asynchronous cause (R131): 13, then 32 + i for a pending line with IE. -/
def State.asyncCause (s : State) (g : Nat) : Option Nat :=
  if s.on (addrWhlTexc (g / 32) (g % 32)) fldWhlTexc_LSEP then some 13
  else
    let v := (s.lines g &&& s.ieMask g).toNat
    (firstBelow 32 fun i => v.testBit i).map (· + 32)

/-- A thread that may take an asynchronous cause (R90, R131, R132): READY, or WAITING in WFE, CHS, CHSE or CHR; IM at 0; in no
non-interruptible REP and not before the first repetition of one; with no word in its turns (fetched and not done, or owed turns); not in entry. -/
def Thread.takesAsync (th : Thread) : Bool :=
  !isOn th.st stIM && (th.rep.isNone || (th.rep = some true && !th.repNew)) && th.owed = 0 && th.issued.isNone && th.entry.isNone &&
  match th.state, th.wait with
  | .ready, _ => true
  | .waiting, .event _ => true
  | .waiting, .chanSend _ => true
  | .waiting, .chanRecv _ _ => true
  | _, _ => false

/-- The cause that the thread's next turn takes in place of a word (R131): none when the thread is masked or nothing is pending. -/
def State.asyncDue (s : State) (g : Nat) : Option Nat := if (s.thr g).takesAsync then s.asyncCause g else none

/-- The entry that an asynchronous cause begins, with `turns` of its two entry turns made: epc at the next word to issue, or at the
waiting word (R122, R132). -/
def Thread.beginAsync (th : Thread) (c turns : Nat) : Thread :=
  { th with state := .ready, wait := .none, issued := none,
            entry := some { code := c, detail := 0, async := true, epc := th.pc, eaddr := if c = 13 then th.lse else 0,
                            turns := turns } }

/-- A word of the thread may run now (R36, R126, R131): it can run, and no asynchronous cause takes the turn that would fetch it. -/
def State.runs (s : State) (g : Nat) : Bool := (s.thr g).canRun && (s.asyncDue g).isNone

end Sys2Proof.Machine
end

