-- ==== Sys2Proof/Machine/Operands.lean ====
section
/-! DEFINITION. Operand forms: sign and zero extension of immediates (R77, R98), branch and jump targets (R84, R85),
pair operands (R68), and the shape of an instruction that works on its thread alone: a result or a synchronous cause. -/

namespace Sys2Proof.Machine

/-- What a word does to its thread: the thread with the word's result, before it retires, or a synchronous cause with
its detail and eaddr value (R122). -/
inductive Res where
  | done (th : Thread)
  | goto (th : Thread) (pc : Word) (kind : Nat)
  | trap (code detail : Nat) (eaddr : Word)
  deriving DecidableEq, Repr

/-- A word that works on its thread alone executes: the thread must be READY with no entry turns due; otherwise the
command has no effect (log 2). -/
def runOp (g : Nat) (s : State) (f : Thread → Res) : State :=
  let th := s.thr g
  if s.runs g then
    match f th with
    | .done t => s.setThr g t.advance
    | .goto t pc k => (s.setThr g (t.jump pc)).traced g k 0 th.wordAddr pc
    | .trap c d e => s.trap g c d e
  else s

/-- A 15-bit immediate sign-extended (R98). -/
def sext15 (i : BitVec 15) : Word := i.signExtend 32
/-- A 15-bit immediate zero-extended: ANDI, ORI, XORI (R77). -/
def zext15 (i : BitVec 15) : Word := i.zeroExtend 32
/-- A 20-bit immediate sign-extended: LI (R77). -/
def sext20 (i : BitVec 20) : Word := i.signExtend 32
/-- LUI: bits [31:12] (R77). -/
def upper20 (i : BitVec 20) : Word := i ++ (0 : BitVec 12)
/-- A branch target: the branch's address plus 4 x off20 (R84). -/
def target20 (pc : Word) (off : BitVec 20) : Word := pc + 4 * off.signExtend 32
/-- A jump target: the jump's address plus 4 x off25 (R85). -/
def target25 (pc : Word) (off : BitVec 25) : Word := pc + 4 * off.signExtend 32

/-- The address of a load or store: rs1 + sext(imm15) (R92). -/
def Thread.effAddr (th : Thread) (rs1 : Reg) (imm : BitVec 15) : Word := th.get rs1 + sext15 imm

/-- A word whose pair operands are legal runs; an odd register number raises illegal instruction, DETAIL 5 (R68,
R123). -/
def withPairs (l : List Reg) (f : Thread → Res) (th : Thread) : Res :=
  if l.all evenReg then f th else .trap 1 5 th.wordAddr

/-- A register's low 16 bits as a signed lane, lane 0, and the high ones, lane 1 (R78). -/
def lane (w : Word) (k : Nat) : Int := signedOf 16 (w.toNat / 2 ^ (16 * k))

/-- Two 16-bit lanes put together. -/
def fromLanes (lo hi : Nat) : Word := wordOf (lo % 2 ^ 16 + 2 ^ 16 * (hi % 2 ^ 16))

end Sys2Proof.Machine
end

