-- ==== Sys2Proof/Machine/Alu.lean ====
section
/-! DEFINITION. The integer, fixed-point and accumulator instructions, compares, branches, jumps and calls
(R69, R74 to R87, R100, R101), each as what its word does to the thread, and the meaning of each. -/

namespace Sys2Proof.Machine

/-- rd from two registers, no flag. -/
def opBin (f : Word → Word → Word) (rd rs1 rs2 : Reg) (th : Thread) : Res := .done (th.set rd (f (th.get rs1) (th.get rs2)))

/-- rd from one register. -/
def opUn (f : Word → Word) (rd rs1 : Reg) (th : Thread) : Res := .done (th.set rd (f (th.get rs1)))

/-- A signed-checked 32-bit result into rd (R75). -/
def opChk (rd : Reg) (x : Int) (th : Thread) : Res :=
  match checked th.st th.fx 32 x with
  | none => .trap 8 0 0
  | some (v, fx) => .done { th.set rd (wordOf v) with fx := fx }

/-- A signed-checked 64-bit result into a pair (R75). -/
def opChk64 (rd : Reg) (x : Int) (th : Thread) : Res :=
  match checked th.st th.fx 64 x with
  | none => .trap 8 0 0
  | some (v, fx) => .done { th.setPair rd (BitVec.ofNat 64 v) with fx := fx }

/-- 1 or 0 from a relation (R84). -/
def relWord (b : Bool) : Word := if b then 1 else 0

/-- The relations of R84. -/
def relEq (a b : Word) : Bool := a == b
def relNe (a b : Word) : Bool := a != b
def relLt (a b : Word) : Bool := a.slt b
def relLtu (a b : Word) : Bool := a.ult b
def relLe (a b : Word) : Bool := !b.slt a
def relLeu (a b : Word) : Bool := !b.ult a

/-- The shifts of R77, by the low five bits. -/
def shlW (a b : Word) : Word := a <<< (b.toNat % 32)
def shrW (a b : Word) : Word := a >>> (b.toNat % 32)
def sraW (a b : Word) : Word := a.sshiftRight (b.toNat % 32)

/-- The extensions of R77. -/
def sxb (a : Word) : Word := (a.extractLsb' 0 8).signExtend 32
def sxh (a : Word) : Word := (a.extractLsb' 0 16).signExtend 32
def zxb (a : Word) : Word := (a.extractLsb' 0 8).zeroExtend 32
def zxh (a : Word) : Word := (a.extractLsb' 0 16).zeroExtend 32

/-- A Q1.31 result fitted into rd (R80, R81). -/
def opFit32 (rd : Reg) (x : Int) (sat : Bool) (th : Thread) : Res :=
  let (v, fx) := fit th.fx x 32 sat
  .done { th.set rd (wordOf v) with fx := fx }

/-- A paired Q1.15 result, each lane fitted (R80, R81). -/
def opFitP (rd rs1 rs2 : Reg) (f : Int → Int → Int) (sat : Bool) (th : Thread) : Res :=
  let x := th.get rs1
  let y := th.get rs2
  let (lo, fx1) := fit th.fx (f (lane x 0) (lane y 0)) 16 sat
  let (hi, fx2) := fit fx1 (f (lane x 1) (lane y 1)) 16 sat
  .done { th.set rd (fromLanes lo hi) with fx := fx2 }

/-- An accumulator written. -/
def Thread.setAcc (th : Thread) (a : Acc) (v : BitVec 80) : Thread := { th with a := th.a.set a v }

/-- An amount added to an accumulator modulo 2^80, with AOF (R69, R82). -/
def opAcc (a : Acc) (d : Thread → Int) (th : Thread) : Res :=
  let (v, fx) := accSum th.fx (th.a[a].toInt + d th)
  .done { th.setAcc a v with fx := fx }

/-- The signed product of two registers. -/
def sprod (rs1 rs2 : Reg) (th : Thread) : Int := (th.get rs1).toInt * (th.get rs2).toInt
/-- The unsigned product. -/
def uprod (rs1 rs2 : Reg) (th : Thread) : Int := ((th.get rs1).toNat * (th.get rs2).toNat : Nat)
/-- The sum of the two Q1.15 lane products, scaled to Q17.63 (R82). -/
def lprod (rs1 rs2 : Reg) (th : Thread) : Int :=
  (lane (th.get rs1) 0 * lane (th.get rs2) 0 + lane (th.get rs1) 1 * lane (th.get rs2) 1) * 2 ^ 33

/-- ASH of R82: a left shift of 80 bits sets AOF when a bit shifted out differs from the result's sign; a right shift
floors. -/
def ashAcc (th : Thread) (a : Acc) (k : Int) : Thread :=
  let x := th.a[a].toInt
  if k ≥ 0 then
    let v := x * (2 ^ k.toNat : Nat)
    let (r, fx) := accSum th.fx v
    { th.setAcc a r with fx := fx }
  else th.setAcc a (BitVec.ofNat 80 (wrapTo 80 (x / (2 ^ (-k).toNat : Nat))))

/-- ASH with its range check: a shift outside -32 to 31 is a reserved value, DETAIL 6 (R101, R117). -/
def opAsh (a : Acc) (imm : BitVec 15) (th : Thread) : Res :=
  let k := imm.toInt
  if -32 ≤ k ∧ k ≤ 31 then .done (ashAcc th a k) else .trap 1 6 th.wordAddr

/-- A taken or untaken branch (R84). -/
def opBranch (take : Word → Bool) (rs1 : Reg) (off : BitVec 20) (th : Thread) : Res :=
  if take (th.get rs1) then .goto th (target20 th.wordAddr off) 0 else .done th

/-- A jump to a register's address: misaligned raises cause 3 with the target in eaddr (R85). -/
def opJr (rs1 : Reg) (th : Thread) : Res :=
  let t := th.get rs1
  if t.toNat % 4 = 0 then .goto th t 1 else .trap 3 0 t

/-- CALL of R86: lk pushed onto the return stack, whose oldest entry is lost when it is full and HT is 0. -/
def opCall (t : Word) (th : Thread) : Res :=
  if th.hrs.length = 8 ∧ isOn th.st stHT then .trap 9 0 0
  else
    let h := (if th.hrs.length = 8 then th.hrs.drop 1 else th.hrs) ++ [th.lk]
    .goto { th with hrs := h, lk := th.wordAddr + 4 } t 2

/-- CALLR: the target's alignment first (R85, R86, R118). -/
def opCallr (rs1 : Reg) (th : Thread) : Res :=
  let t := th.get rs1
  if t.toNat % 4 = 0 then opCall t th else .trap 3 0 t

/-- RET of R87. -/
def opRet (th : Thread) : Res :=
  match th.hrs.getLast? with
  | some top => .goto { th with lk := top, hrs := th.hrs.dropLast } th.lk 3
  | none =>
    if isOn th.st stHT then .trap 10 0 0
    else .goto { th with lk := 0xFFFFFFFC, st := setOn th.st stHU } th.lk 3

/-- The outcome of a divide (R76): the value, whether QS is set, and the cause or 0. -/
def divResult (st : Word) (signed rem : Bool) (x y : Word) : Word × Bool × Nat :=
  if y = 0 then
    if isOn st stDZE then (0, false, 7)
    else if rem then (x, false, 0)
    else if signed then (if x.toInt ≥ 0 then 0x7FFFFFFF else 0x80000000, true, 0)
    else (0xFFFFFFFF, true, 0)
  else if rem then (BitVec.ofInt 32 (x.toInt.tmod y.toInt), false, 0)
  else if signed then
    match checked st 0 32 (x.toInt.tdiv y.toInt) with
    | none => (0, false, 8)
    | some (v, fx) => (wordOf v, fx ≠ 0, 0)
  else (wordOf (x.toNat / y.toNat), false, 0)

/-- A divide issues: the thread waits 36 cycles for its result (R43, R76). -/
def startDiv (g : Nat) (signed rem : Bool) (rd rs1 rs2 : Reg) (s : State) : State :=
  let th := s.thr g
  if s.runs g then
    let (v, qs, c) := divResult th.st signed rem (th.get rs1) (th.get rs2)
    s.setThr g { th with state := .waiting, wait := .divide rd v qs c, issued := none }
  else s

/-- A WAITING thread's word completes: it retires and the thread becomes READY, HALTED or STOPPED as a halt or stop
request that waited for it says (R44, R46, R63, R116). -/
def Thread.complete (th : Thread) : Thread :=
  let t := { th.advance with wait := .none }
  if th.haltReq then { t with state := .halted, haltReq := false, stopReq := false }
  else if th.stopReq then { t with state := .stopped, stopReq := false }
  else { t with state := .ready }

/-- A WAITING thread's word ends in a cause. -/
def State.trapWait (s : State) (g code detail : Nat) (eaddr : Word) : State := s.trap g code detail eaddr

/-! ### The meanings -/

def execAdd (g : ThreadNo) (rd rs1 rs2 : Reg) (s : State) : Out :=
  .next (runOp g s fun th => opChk rd ((th.get rs1).toInt + (th.get rs2).toInt) th)
def execAddu (g : ThreadNo) (rd rs1 rs2 : Reg) (s : State) : Out := .next (runOp g s (opBin (· + ·) rd rs1 rs2))
def execSub (g : ThreadNo) (rd rs1 rs2 : Reg) (s : State) : Out :=
  .next (runOp g s fun th => opChk rd ((th.get rs1).toInt - (th.get rs2).toInt) th)
def execSubu (g : ThreadNo) (rd rs1 rs2 : Reg) (s : State) : Out := .next (runOp g s (opBin (· - ·) rd rs1 rs2))
def execNeg (g : ThreadNo) (rd rs1 : Reg) (s : State) : Out :=
  .next (runOp g s fun th => opChk rd (-(th.get rs1).toInt) th)
def execAnd (g : ThreadNo) (rd rs1 rs2 : Reg) (s : State) : Out := .next (runOp g s (opBin (· &&& ·) rd rs1 rs2))
def execOr (g : ThreadNo) (rd rs1 rs2 : Reg) (s : State) : Out := .next (runOp g s (opBin (· ||| ·) rd rs1 rs2))
def execXor (g : ThreadNo) (rd rs1 rs2 : Reg) (s : State) : Out := .next (runOp g s (opBin (· ^^^ ·) rd rs1 rs2))
def execShl (g : ThreadNo) (rd rs1 rs2 : Reg) (s : State) : Out := .next (runOp g s (opBin shlW rd rs1 rs2))
def execShr (g : ThreadNo) (rd rs1 rs2 : Reg) (s : State) : Out := .next (runOp g s (opBin shrW rd rs1 rs2))
def execSra (g : ThreadNo) (rd rs1 rs2 : Reg) (s : State) : Out := .next (runOp g s (opBin sraW rd rs1 rs2))
def execSxb (g : ThreadNo) (rd rs1 : Reg) (s : State) : Out := .next (runOp g s (opUn sxb rd rs1))
def execSxh (g : ThreadNo) (rd rs1 : Reg) (s : State) : Out := .next (runOp g s (opUn sxh rd rs1))
def execZxb (g : ThreadNo) (rd rs1 : Reg) (s : State) : Out := .next (runOp g s (opUn zxb rd rs1))
def execZxh (g : ThreadNo) (rd rs1 : Reg) (s : State) : Out := .next (runOp g s (opUn zxh rd rs1))
def execCeq (g : ThreadNo) (rd rs1 rs2 : Reg) (s : State) : Out :=
  .next (runOp g s (opBin (fun a b => relWord (relEq a b)) rd rs1 rs2))
def execCne (g : ThreadNo) (rd rs1 rs2 : Reg) (s : State) : Out :=
  .next (runOp g s (opBin (fun a b => relWord (relNe a b)) rd rs1 rs2))
def execClt (g : ThreadNo) (rd rs1 rs2 : Reg) (s : State) : Out :=
  .next (runOp g s (opBin (fun a b => relWord (relLt a b)) rd rs1 rs2))
def execCltu (g : ThreadNo) (rd rs1 rs2 : Reg) (s : State) : Out :=
  .next (runOp g s (opBin (fun a b => relWord (relLtu a b)) rd rs1 rs2))
def execCle (g : ThreadNo) (rd rs1 rs2 : Reg) (s : State) : Out :=
  .next (runOp g s (opBin (fun a b => relWord (relLe a b)) rd rs1 rs2))
def execCleu (g : ThreadNo) (rd rs1 rs2 : Reg) (s : State) : Out :=
  .next (runOp g s (opBin (fun a b => relWord (relLeu a b)) rd rs1 rs2))
def execAddd (g : ThreadNo) (rd rs1 rs2 : Reg) (s : State) : Out :=
  .next (runOp g s (withPairs [rd, rs1, rs2] fun th => opChk64 rd ((th.getPair rs1).toInt + (th.getPair rs2).toInt) th))
def execSubd (g : ThreadNo) (rd rs1 rs2 : Reg) (s : State) : Out :=
  .next (runOp g s (withPairs [rd, rs1, rs2] fun th => opChk64 rd ((th.getPair rs1).toInt - (th.getPair rs2).toInt) th))
def execMul (g : ThreadNo) (rd rs1 rs2 : Reg) (s : State) : Out :=
  .next (runOp g s fun th => opChk rd (sprod rs1 rs2 th) th)
def execMulu (g : ThreadNo) (rd rs1 rs2 : Reg) (s : State) : Out := .next (runOp g s (opBin (· * ·) rd rs1 rs2))
def execMulh (g : ThreadNo) (rd rs1 rs2 : Reg) (s : State) : Out :=
  .next (runOp g s (opBin (fun a b => BitVec.ofInt 32 (a.toInt * b.toInt / (2 ^ 32 : Nat))) rd rs1 rs2))
def execMulhu (g : ThreadNo) (rd rs1 rs2 : Reg) (s : State) : Out :=
  .next (runOp g s (opBin (fun a b => wordOf (a.toNat * b.toNat / 2 ^ 32)) rd rs1 rs2))
def execMulw (g : ThreadNo) (rd rs1 rs2 : Reg) (s : State) : Out :=
  .next (runOp g s (withPairs [rd] fun th => .done (th.setPair rd (BitVec.ofInt 64 (sprod rs1 rs2 th)))))
def execMulwu (g : ThreadNo) (rd rs1 rs2 : Reg) (s : State) : Out :=
  .next (runOp g s (withPairs [rd] fun th => .done (th.setPair rd (BitVec.ofInt 64 (uprod rs1 rs2 th)))))
def execDiv (g : ThreadNo) (rd rs1 rs2 : Reg) (s : State) : Out := .next (startDiv g true false rd rs1 rs2 s)
def execDivu (g : ThreadNo) (rd rs1 rs2 : Reg) (s : State) : Out := .next (startDiv g false false rd rs1 rs2 s)
def execRem (g : ThreadNo) (rd rs1 rs2 : Reg) (s : State) : Out := .next (startDiv g true true rd rs1 rs2 s)
def execAddq (g : ThreadNo) (rd rs1 rs2 : Reg) (sat : Bool) (s : State) : Out :=
  .next (runOp g s fun th => opFit32 rd ((th.get rs1).toInt + (th.get rs2).toInt) sat th)
def execSubq (g : ThreadNo) (rd rs1 rs2 : Reg) (sat : Bool) (s : State) : Out :=
  .next (runOp g s fun th => opFit32 rd ((th.get rs1).toInt - (th.get rs2).toInt) sat th)
def execMulq (g : ThreadNo) (rd rs1 rs2 : Reg) (sat : Bool) (s : State) : Out :=
  .next (runOp g s fun th => opFit32 rd (roundTo (sprod rs1 rs2 th) 31 (rmOf th.fx)) sat th)
def execAddp (g : ThreadNo) (rd rs1 rs2 : Reg) (sat : Bool) (s : State) : Out :=
  .next (runOp g s (opFitP rd rs1 rs2 (· + ·) sat))
def execSubp (g : ThreadNo) (rd rs1 rs2 : Reg) (sat : Bool) (s : State) : Out :=
  .next (runOp g s (opFitP rd rs1 rs2 (· - ·) sat))
def execMulp (g : ThreadNo) (rd rs1 rs2 : Reg) (sat : Bool) (s : State) : Out :=
  .next (runOp g s fun th => opFitP rd rs1 rs2 (fun a b => roundTo (a * b) 15 (rmOf th.fx)) sat th)
def execAclr (g : ThreadNo) (a : Acc) (s : State) : Out := .next (runOp g s fun th => .done (th.setAcc a 0))
def execAmov (g : ThreadNo) (a : Acc) (rs1 : Reg) (s : State) : Out :=
  .next (runOp g s (withPairs [rs1] fun th => .done (th.setAcc a ((th.getPair rs1).signExtend 80))))
def execMaci (g : ThreadNo) (a : Acc) (rs1 rs2 : Reg) (s : State) : Out :=
  .next (runOp g s (opAcc a (sprod rs1 rs2)))
def execMsui (g : ThreadNo) (a : Acc) (rs1 rs2 : Reg) (s : State) : Out :=
  .next (runOp g s (opAcc a fun th => -sprod rs1 rs2 th))
def execMacu (g : ThreadNo) (a : Acc) (rs1 rs2 : Reg) (s : State) : Out :=
  .next (runOp g s (opAcc a (uprod rs1 rs2)))
def execMacq (g : ThreadNo) (a : Acc) (rs1 rs2 : Reg) (s : State) : Out :=
  .next (runOp g s (opAcc a fun th => 2 * sprod rs1 rs2 th))
def execMsuq (g : ThreadNo) (a : Acc) (rs1 rs2 : Reg) (s : State) : Out :=
  .next (runOp g s (opAcc a fun th => -(2 * sprod rs1 rs2 th)))
def execMacp (g : ThreadNo) (a : Acc) (rs1 rs2 : Reg) (s : State) : Out :=
  .next (runOp g s (opAcc a (lprod rs1 rs2)))
def execAsh (g : ThreadNo) (a : Acc) (imm : BitVec 15) (s : State) : Out := .next (runOp g s (opAsh a imm))
def execExtq (g : ThreadNo) (rd : Reg) (a : Acc) (sat : Bool) (s : State) : Out :=
  .next (runOp g s fun th => opFit32 rd (roundTo th.a[a].toInt 32 (rmOf th.fx)) sat th)
def execExth (g : ThreadNo) (rd : Reg) (a : Acc) (sat : Bool) (s : State) : Out :=
  .next (runOp g s fun th =>
    let (v, fx) := fit th.fx (roundTo th.a[a].toInt 48 (rmOf th.fx)) 16 sat
    .done { th.set rd (sxh (wordOf v)) with fx := fx })
def execAxl (g : ThreadNo) (rd : Reg) (a : Acc) (s : State) : Out :=
  .next (runOp g s fun th => .done (th.set rd (th.a[a].extractLsb' 0 32)))
def execAxh (g : ThreadNo) (rd : Reg) (a : Acc) (s : State) : Out :=
  .next (runOp g s fun th => .done (th.set rd (th.a[a].extractLsb' 32 32)))
def execAxg (g : ThreadNo) (rd : Reg) (a : Acc) (s : State) : Out :=
  .next (runOp g s fun th => .done (th.set rd ((th.a[a].extractLsb' 64 16).signExtend 32)))
def execAsat (g : ThreadNo) (rd : Reg) (a : Acc) (sat : Bool) (s : State) : Out :=
  .next (runOp g s (withPairs [rd] fun th =>
    let (v, fx) := fit th.fx th.a[a].toInt 64 sat
    .done { th.setPair rd (BitVec.ofNat 64 v) with fx := fx }))
def execAddi (g : ThreadNo) (rd rs1 : Reg) (imm : BitVec 15) (s : State) : Out :=
  .next (runOp g s fun th => opChk rd ((th.get rs1).toInt + (sext15 imm).toInt) th)
def execAddiu (g : ThreadNo) (rd rs1 : Reg) (imm : BitVec 15) (s : State) : Out :=
  .next (runOp g s (opUn (· + sext15 imm) rd rs1))
def execAndi (g : ThreadNo) (rd rs1 : Reg) (imm : BitVec 15) (s : State) : Out :=
  .next (runOp g s (opUn (· &&& zext15 imm) rd rs1))
def execOri (g : ThreadNo) (rd rs1 : Reg) (imm : BitVec 15) (s : State) : Out :=
  .next (runOp g s (opUn (· ||| zext15 imm) rd rs1))
def execXori (g : ThreadNo) (rd rs1 : Reg) (imm : BitVec 15) (s : State) : Out :=
  .next (runOp g s (opUn (· ^^^ zext15 imm) rd rs1))
def execShli (g : ThreadNo) (rd rs1 : Reg) (k : Fin 32) (s : State) : Out :=
  .next (runOp g s (opUn (· <<< k.val) rd rs1))
def execShri (g : ThreadNo) (rd rs1 : Reg) (k : Fin 32) (s : State) : Out :=
  .next (runOp g s (opUn (· >>> k.val) rd rs1))
def execSrai (g : ThreadNo) (rd rs1 : Reg) (k : Fin 32) (s : State) : Out :=
  .next (runOp g s (opUn (·.sshiftRight k.val) rd rs1))
def execCeqi (g : ThreadNo) (rd rs1 : Reg) (imm : BitVec 15) (s : State) : Out :=
  .next (runOp g s (opUn (fun a => relWord (relEq a (sext15 imm))) rd rs1))
def execCnei (g : ThreadNo) (rd rs1 : Reg) (imm : BitVec 15) (s : State) : Out :=
  .next (runOp g s (opUn (fun a => relWord (relNe a (sext15 imm))) rd rs1))
def execClti (g : ThreadNo) (rd rs1 : Reg) (imm : BitVec 15) (s : State) : Out :=
  .next (runOp g s (opUn (fun a => relWord (relLt a (sext15 imm))) rd rs1))
def execCltui (g : ThreadNo) (rd rs1 : Reg) (imm : BitVec 15) (s : State) : Out :=
  .next (runOp g s (opUn (fun a => relWord (relLtu a (sext15 imm))) rd rs1))
def execClei (g : ThreadNo) (rd rs1 : Reg) (imm : BitVec 15) (s : State) : Out :=
  .next (runOp g s (opUn (fun a => relWord (relLe a (sext15 imm))) rd rs1))
def execCleui (g : ThreadNo) (rd rs1 : Reg) (imm : BitVec 15) (s : State) : Out :=
  .next (runOp g s (opUn (fun a => relWord (relLeu a (sext15 imm))) rd rs1))
def execLi (g : ThreadNo) (rd : Reg) (imm : BitVec 20) (s : State) : Out :=
  .next (runOp g s fun th => .done (th.set rd (sext20 imm)))
def execLui (g : ThreadNo) (rd : Reg) (imm : BitVec 20) (s : State) : Out :=
  .next (runOp g s fun th => .done (th.set rd (upper20 imm)))
def execBz (g : ThreadNo) (rs1 : Reg) (off : BitVec 20) (s : State) : Out :=
  .next (runOp g s (opBranch (· == 0) rs1 off))
def execBnz (g : ThreadNo) (rs1 : Reg) (off : BitVec 20) (s : State) : Out :=
  .next (runOp g s (opBranch (· != 0) rs1 off))
def execJ (g : ThreadNo) (off : BitVec 25) (s : State) : Out :=
  .next (runOp g s fun th => .goto th (target25 th.wordAddr off) 1)
def execCall (g : ThreadNo) (off : BitVec 25) (s : State) : Out :=
  .next (runOp g s fun th => opCall (target25 th.wordAddr off) th)
def execJr (g : ThreadNo) (rs1 : Reg) (s : State) : Out := .next (runOp g s (opJr rs1))
def execCallr (g : ThreadNo) (rs1 : Reg) (s : State) : Out := .next (runOp g s (opCallr rs1))
def execRet (g : ThreadNo) (s : State) : Out := .next (runOp g s opRet)

/-- DIVIDE_COMPLETE (R43, R76): 36 cycles after issue the result is written, or the cause taken. -/
def execDivideComplete (g : ThreadNo) (s : State) : Out :=
  let th := s.thr g
  match th.wait with
  | .divide rd v qs c =>
    if c ≠ 0 then .next (s.trapWait g c 0 0)
    else .next ((s.setThr g (if qs then { th.set rd v with fx := setOn th.fx fxQS } else th.set rd v).complete).settle g)
  | _ => .next s

end Sys2Proof.Machine
end

