-- ==== Sys2Proof/Machine/Cert.lean ====
section
/-! DEFINITION. Taband certificates (R380): their layout, what makes one valid, and the identity that the IDENT message of a link
partner shows (R381). -/

namespace Sys2Proof.Machine

/-- The length of a certificate, and of the part that its signatures cover. -/
def certLen : Nat := 7476
def certSigned : Nat := 2753

/-- Bytes `a` to `b - 1`. -/
def sliceOf (c : List Byte) (a b : Nat) : List Byte := (c.drop a).take (b - a)
/-- They are all 0. -/
def sliceZero (c : List Byte) (a b : Nat) : Bool := (sliceOf c a b).all (· = 0)

def certType (c : List Byte) : Nat := leBytes (sliceOf c 4 5)
def certSubject (c : List Byte) : List Byte := sliceOf c 8 24
def certIssuer (c : List Byte) : List Byte := sliceOf c 24 40
def certDevid (c : List Byte) : Nat := leBytes (sliceOf c 40 42)
def certSysid (c : List Byte) : List Byte := sliceOf c 44 60
/-- The public keys: P-384, then ML-DSA-87. -/
def certKeys (c : List Byte) : List Byte := sliceOf c 64 certSigned

/-- The fields of a certificate of a TYPE are laid out as R380 says: DEVID and SYSID stand in an endorsement only, keys in every other. -/
def certForm (c : List Byte) (type : Nat) : Bool :=
  c.length = certLen && c.take 4 == [0x54, 0x42, 0x43, 0x31] && certType c = type && sliceZero c 5 8 && sliceZero c 42 44 &&
    sliceZero c 60 64 &&
    (if type = 4 then certDevid c < 4096 && sliceZero c 64 certSigned else sliceZero c 40 42 && sliceZero c 44 60)

/-- A certificate is valid: both signatures over bytes 0 to 2,752 verify under the issuer's keys. -/
def certValid (c : List Byte) (type : Nat) (keys : List Byte) : Bool :=
  certForm c type && Config.cryptoOk 0x380 (c.take certSigned ++ c.drop certSigned ++ keys)

/-- The Shoxon root certificate, held in the mill ROM. -/
def rootCert : List Byte := (List.range certLen).map Config.rootByte

/-- A certificate that the root has issued, of an intermediate. -/
def certUnderRoot (c : List Byte) : Bool := certValid c 2 (certKeys rootCert) && certIssuer c == certSubject rootCert

/-- The device's SYSID, from its endorsement. -/
def sysid : List Byte := (List.range 16).map Config.sysidByte

/-- The fingerprint of an installer key that may sign, whose first bytes a certificate names as its issuer (R380, R389). -/
def State.endorser (s : State) (c : List Byte) : Option (List Byte) :=
  (s.instKeys.find? fun x => !s.instGone.contains x.1 && x.2.take 16 == certIssuer c).map (·.2)

/-- A partner's identity is accepted (R381): its device certificate, the intermediate and the endorsement, in that order, for the
DEVID of its HELLO. -/
def State.identOk (s : State) (m : List Byte) (devid : Nat) : Bool :=
  let dev := sliceOf m 0 certLen
  let mid := sliceOf m certLen (2 * certLen)
  let end_ := sliceOf m (2 * certLen) (3 * certLen)
  m.length = 3 * certLen && certUnderRoot mid && certValid dev 3 (certKeys mid) && certIssuer dev == certSubject mid &&
    match s.endorser end_ with
    | some key =>
      certValid end_ 4 key && certSubject end_ == certSubject dev && certSysid end_ == sysid && certDevid end_ = devid
    | none => false

end Sys2Proof.Machine
end

