-- ==== Sys2Proof/Machine/Audit.lean ====
section
/-! DEFINITION. The audit log (R402 to R405) as the units that report to it use it. -/

namespace Sys2Proof.Machine

/-- A register that OTP holds, written through to OTP. -/
def State.setOtp (s : State) (a : Nat) (w : Word) : State := { s.wr a w with otp := tset s.otp a w }

/-- The head's SEQ and hash. -/
def State.audSeq (s : State) : Nat := (s.rd (addrSecAudseq 0)).toNat + (s.rd (addrSecAudseq 1)).toNat * 2 ^ 32
def State.audHead (s : State) : List Byte := (List.range 12).flatMap fun i => bytesLE 4 (s.rd (addrSecAudhead i)).toNat
/-- The OTP counter, and whether it has steps left. -/
def State.audCtr (s : State) : Nat := s.fld addrSecAudctr fldSecAudctr_COUNT
def State.audLeft (s : State) : Bool := s.audCtr < 2 ^ 20
/-- The SEQ of the next entry: the first of a boot takes (counter + 1) x 1,024. -/
def State.audNext (s : State) : Nat :=
  if s.audFirst && s.audLeft then (s.audCtr + 1) * 1024 else s.audSeq + 1
/-- `n` entries can be appended now: none of them needs an OTP step while VPP_OTP is out of range. -/
def State.audReady (s : State) (n : Nat) : Bool :=
  s.vppOk || !s.audLeft || (List.range n).all fun i => (s.audNext + i) % 1024 ≠ 0

/-- The head hash and SEQ set. -/
def State.setHead (s : State) (q : Nat) (h : List Byte) : State :=
  let s := (s.wr (addrSecAudseq 0) (wordOf q)).wr (addrSecAudseq 1) (wordOf (q / 2 ^ 32))
  (List.range 12).foldl (fun s i => s.wr (addrSecAudhead i) (wordOf (leBytes ((h.drop (4 * i)).take 4)))) s

/-- An entry appended (R402): the 80 bytes given, with SEQ replaced, and the head hash in force. -/
def State.audAppend (s : State) (e : List Byte) : State :=
  let q := s.audNext
  let s := if s.audLeft && q % 1024 = 0 then s.setOtp addrSecAudctr (wordOf (q / 1024)) else s
  let s := if s.audLeft then s else s.setFld addrSecStatus fldSecStatus_AUDEXH 1
  let x := bytesLE 8 q ++ ((padTo 80 0 e).drop 8) ++ s.audHead
  let a := lapBlk 39 (s.fld addrSecAudbase fldSecAudbase_BASE * 65536 + q % 512 * 128)
  { (s.memWrite 39 a x).1.setHead q (sha384 x) with audFirst := false }

/-- An entry of the mill's firmware (R403, R404). -/
def State.audit (s : State) (typ role result keyidx : Nat) (data : List Byte) : State :=
  s.audAppend (bytesLE 8 0 ++ bytesLE 8 s.tb64 ++ bytesLE 2 typ ++ bytesLE 1 role ++ bytesLE 1 result ++ bytesLE 2 keyidx ++
    bytesLE 2 0 ++ padTo 56 0 data)

/-- An entry for an event of a unit, which firmware hands to the log (R404); one that needs an OTP step waits for VPP_OTP (R454). -/
def State.auditSoon (s : State) (typ result : Nat) (data : List Byte) : State :=
  if s.audReady 1 && s.audDue.isEmpty then s.audit typ 0 result 0 data
  else { s with audDue := s.audDue ++ [(typ, result, data)] }

/-- The oldest waiting entry appended when it can be. -/
def State.auditDue (s : State) : State :=
  match s.audDue with
  | [] => s
  | (typ, result, data) :: r => if s.audReady 1 then { s with audDue := r }.audit typ 0 result 0 data else s

end Sys2Proof.Machine
end

