-- ==== Sys2Proof/Machine/Cells.lean ====
section
/-! DEFINITION. Cell headers (R197 to R201, R205, R245), the segmentation of a message into cells and its reassembly
(R200), end-to-end sealing (R399). -/

namespace Sys2Proof.Machine

/-! ### Header fields -/

/-- Header bits [hi:lo]. -/
def hdrF (c : Cell) (hi lo : Nat) : Nat := natField c.hdr.toNat ⟨hi, lo⟩

/-- A header from (low bit, value) pairs. -/
def mkHdr (l : List (Nat × Nat)) : BitVec 128 := BitVec.ofNat 128 (l.foldl (fun v p => v + p.2 * 2 ^ p.1) 0)

/-- A header field replaced. -/
def setHdr (h : BitVec 128) (hi lo v : Nat) : BitVec 128 :=
  BitVec.ofNat 128 (h.toNat - natField h.toNat ⟨hi, lo⟩ * 2 ^ lo + v % 2 ^ (hi + 1 - lo) * 2 ^ lo)

def cCT (c : Cell) : Nat := hdrF c 127 124
def cTC (c : Cell) : Nat := hdrF c 123 121
def cE (c : Cell) : Bool := hdrF c 120 120 = 1
def cDST (c : Cell) : Nat := hdrF c 119 108
def cSRC (c : Cell) : Nat := hdrF c 107 96
def cDBOB (c : Cell) : Nat := hdrF c 95 80
def cMSGID (c : Cell) : Nat := hdrF c 79 64
def cLSEQ (c : Cell) : Nat := hdrF c 63 44
def cLACK (c : Cell) : Nat := hdrF c 43 24
/-- Bits [23:12]: KSLOT when E is 1, else the compact length field. -/
def cKS (c : Cell) : Nat := hdrF c 23 12
def cOFF (c : Cell) : Nat := hdrF c 11 0
/-- SUB of a CT 5 cell. -/
def cSUB (c : Cell) : Nat := hdrF c 95 88

/-- A cell of 96 bytes: CT 4 and 7, a CT 5 cell whose FULL is 0, a CT 6 cell whose bit 23 is 0 (R198, R199, R201). -/
def cShort (c : Cell) : Bool :=
  match cCT c with
  | 4 => true
  | 7 => true
  | 5 => hdrF c 87 87 = 0
  | 6 => hdrF c 23 23 = 0
  | _ => false

/-- Replay units of 96 bytes (R211). -/
def cUnits (c : Cell) : Nat := if cShort c then 1 else 3

/-- The cell begins a message (R233), apart from a CT 4 cell, for which the open paths and contexts decide. -/
def cFirst (c : Cell) : Bool := cCT c = 0 || cCT c = 3 || cCT c = 6
/-- The cell ends a message. -/
def cLast (c : Cell) : Bool := cCT c = 2 || cCT c = 3 || cCT c = 4 || cCT c = 6
/-- An acknowledgement cell (R241). -/
def cIsAck (c : Cell) : Bool := cCT c = 4 && !cE c && cKS c = 0x400

/-- LSEQ and LACK set at framing. -/
def withSeq (c : Cell) (lseq lack : Nat) : Cell := { c with hdr := setHdr (setHdr c.hdr 63 44 lseq) 43 24 lack }

/-- A payload byte. -/
def pByte (c : Cell) (i : Nat) : Nat := (nth 0 c.pay i).toNat
/-- A little-endian 32-bit payload word at a byte. -/
def pWord (c : Cell) (i : Nat) : Nat := leBytes (padTo 4 0 (c.pay.drop i))

/-! ### TX slips (R171) -/

/-- Fields of a TX slip's words. -/
def slOP (w : List Nat) : Nat := natField (nth 0 w 0) ⟨31, 28⟩
def slTC (w : List Nat) : Nat := natField (nth 0 w 0) ⟨27, 25⟩
def slE (w : List Nat) : Bool := (nth 0 w 0).testBit 24
def slINL (w : List Nat) : Bool := (nth 0 w 0).testBit 23
def slDLV (w : List Nat) : Bool := (nth 0 w 0).testBit 22
def slCQ (w : List Nat) : Bool := (nth 0 w 0).testBit 21
def slLEN (w : List Nat) : Nat := natField (nth 0 w 0) ⟨19, 0⟩
def slDST (w : List Nat) : Nat := natField (nth 0 w 1) ⟨27, 16⟩
def slDBOB (w : List Nat) : Nat := natField (nth 0 w 1) ⟨15, 0⟩
def slKSLOT (w : List Nat) : Nat := natField (nth 0 w 2) ⟨11, 0⟩
def slROFF (w : List Nat) : Nat := nth 0 w 3
def slSLOC (w : List Nat) : Bool := (nth 0 w 5).testBit 20
/-- The source address, a block or a host address. -/
def slSRC (w : List Nat) : Nat := nth 0 w 4 + (if slSLOC w then natField (nth 0 w 5) ⟨19, 0⟩ * 2 ^ 32 else 0)

/-- A compact message (R200): a SEND of 1 to 64 bytes with E = 0. -/
def slCompact (w : List Nat) : Bool := slOP w = 1 && !slE w && slLEN w < 64

/-- Bytes of the trailer (R200). -/
def trailerLen (e compact : Bool) : Nat := if compact then 0 else if e then 24 else 8

/-- The cells of a message of LEN + 1 bytes (R200). -/
def cellCount (len : Nat) (e compact : Bool) : Nat := (len + 1 + trailerLen e compact + 255) / 256

/-- Cells of a slip's message; a NOP has none. -/
def slCells (w : List Nat) : Nat := if slOP w = 0 then 0 else cellCount (slLEN w) (slE w) (slCompact w)

/-! ### End-to-end sealing (R399) -/

/-- The key bytes of a slot, held by the security engine. -/
def State.slotKey (s : State) (k : Nat) : List Byte := tget (fun _ => []) s.slotKeys k

/-- IV and AAD of a message (R399). -/
def sealHead (src dst xmsg dbob ks tc : Nat) (trailer : List Byte) : List Byte :=
  bytesLE 12 (xmsg + dst * 2 ^ 72 + src * 2 ^ 84) ++ trailer ++ bytesLE 2 dst ++ bytesLE 2 src ++ bytesLE 2 dbob ++
    bytesLE 2 (ks + tc * 2 ^ 12)

/-- AES-256-GCM sealing as the named primitive 16: ciphertext of the plaintext's length, then the tag. -/
def sealData (key head plain : List Byte) : List Byte × List Byte :=
  let o := cryptoN 16 (key ++ head ++ plain) 0 (plain.length + 16)
  (o.take plain.length, o.drop plain.length)

/-- The verdict of the tag check, and the plaintext, as primitives 17. -/
def openData (key head ct tag : List Byte) : Option (List Byte) :=
  if Config.cryptoOk 17 (key ++ head ++ ct ++ tag) then some (cryptoN 17 (key ++ head ++ ct ++ tag) 0 ct.length)
  else none

/-! ### Segmentation (R200) -/

/-- The message trailer: LEN, PUT, ROFF. -/
def msgTrailer (len : Nat) (put : Bool) (roff : Nat) : List Byte :=
  bytesLE 8 (len + b2n put * 2 ^ 20 + (if put then roff * 2 ^ 32 else 0))

/-- Cell type of cell `i` of `n`, whose last is short or not. -/
def cellCT (i n : Nat) (short : Bool) : Nat :=
  if n = 1 then (if short then 4 else 3)
  else if i = 0 then 0
  else if i + 1 = n then (if short then 4 else 2)
  else 1

/-- The cells of a message from its sealed bytes: data (encrypted when E is 1), trailer, tag. -/
def segment (w : List Nat) (src msgid : Nat) (data tail : List Byte) : List Cell :=
  let compact := slCompact w
  let t := data.length + tail.length
  let n := (t + 255) / 256
  let short := t - 256 * (n - 1) ≤ 64
  let lastLen := if short then 64 else 256
  let body := data ++ List.replicate (256 * (n - 1) + lastLen - t) (0 : Byte) ++ tail
  (List.range n).map fun i =>
    let ks := if slE w then slKSLOT w else if compact then 0x800 + slLEN w else 0
    { hdr := mkHdr [(124, cellCT i n short), (121, slTC w), (120, b2n (slE w)), (108, slDST w), (96, src),
                    (80, slDBOB w), (64, msgid), (12, ks), (0, i % 4096)],
      pay := (body.drop (256 * i)).take (if i + 1 = n then lastLen else 256) }

/-- The cells of a slip's message with its data, under the extended MSGID. -/
def State.messageCells (s : State) (w : List Nat) (src xmsg : Nat) (data : List Byte) : List Cell :=
  let tr := msgTrailer (slLEN w) (slOP w = 2) (slROFF w)
  if slCompact w then segment w src (xmsg % 65536) data []
  else if slE w then
    let (ct, tag) := sealData (s.slotKey (slKSLOT w)) (sealHead src (slDST w) xmsg (slDBOB w) (slKSLOT w) (slTC w) tr) data
    segment w src (xmsg % 65536) ct (tr ++ tag)
  else segment w src (xmsg % 65536) data tr

/-! ### Reassembly -/

/-- What a complete message holds. -/
structure Message where
  len  : Nat
  put  : Bool
  roff : Nat
  body : List Byte
  head : List Byte
  tag  : List Byte
  deriving DecidableEq, Repr

/-- The bytes of a list of cells. -/
def cellsBytes (l : List Cell) : List Byte := l.flatMap (·.pay)

/-- The message of a complete context (R200). -/
def readMessage (l : List Cell) : Message :=
  let b := cellsBytes l
  let c := l.getLast?.getD { hdr := 0, pay := [] }
  if !cE c && 0x800 ≤ cKS c then
    let len := cKS c % 64
    { len := len, put := false, roff := 0, body := b.take (len + 1), head := [], tag := [] }
  else
    let k := trailerLen (cE c) false
    let tr := (b.drop (b.length - k)).take 8
    let v := leBytes tr
    let len := v % 2 ^ 20
    { len := len, put := v.testBit 20, roff := v / 2 ^ 32, body := b.take (len + 1), head := tr, tag := b.drop (b.length - 16) }

end Sys2Proof.Machine
end

