-- ==== Sys2Proof/Machine/Rs.lean ====
section
/-! DEFINITION. The lane's forward error correction and scrambling (R191 to R193): RS(272,258) over GF(2^10) with
primitive polynomial x^10 + x^3 + 1 and roots alpha^0 to alpha^13, correcting up to 7 symbols; the self-synchronising
scrambler x^58 + x^39 + 1, and the PAM4 levels (R190). Symbols are numbers below 1024. -/

namespace Sys2Proof.Machine

/-- One step of a multiplication by x in GF(2^10). -/
def gfX (a : Nat) : Nat := if a < 512 then 2 * a else (2 * a) % 1024 ^^^ 9

/-- The product in GF(2^10), over the low `n` bits of `b`. -/
def gfMulN : Nat → Nat → Nat → Nat
  | 0, _, _ => 0
  | n + 1, a, b => (if b % 2 = 1 then a else 0) ^^^ gfMulN n (gfX a) (b / 2)

/-- The product in GF(2^10). -/
def gfMul (a b : Nat) : Nat := gfMulN 10 a b

/-- A power in GF(2^10), over the low `n` bits of the exponent. -/
def gfPowN : Nat → Nat → Nat → Nat
  | 0, _, _ => 1
  | n + 1, a, e => gfMul (if e % 2 = 1 then a else 1) (gfPowN n (gfMul a a) (e / 2))

/-- alpha to a power; alpha has order 1023. -/
def gfAlpha (e : Nat) : Nat := gfPowN 10 2 (e % 1023)

/-- The inverse of a nonzero element. -/
def gfInv (a : Nat) : Nat := gfPowN 10 a 1022

/-- A polynomial, lowest coefficient first, at a point. -/
def polyEval (p : List Nat) (x : Nat) : Nat := p.foldr (fun c acc => c ^^^ gfMul acc x) 0

/-- The sum of two polynomials. -/
def polyAdd : List Nat → List Nat → List Nat
  | [], q => q
  | p, [] => p
  | a :: p, b :: q => (a ^^^ b) :: polyAdd p q

/-- A polynomial scaled. -/
def polyScale (c : Nat) (p : List Nat) : List Nat := p.map (gfMul c)

/-- The product of two polynomials. -/
def polyMul : List Nat → List Nat → List Nat
  | [], _ => []
  | a :: p, q => polyAdd (polyScale a q) (0 :: polyMul p q)

/-- The value of a received word, symbol 0 first, as a polynomial at a point. -/
def wordEval (r : List Nat) (x : Nat) : Nat := r.foldl (fun acc c => gfMul acc x ^^^ c) 0

/-- The 14 syndromes of a received word. -/
def rsSynd (r : List Nat) : List Nat := (List.range 14).map fun j => wordEval r (gfAlpha j)

/-- The Berlekamp-Massey iteration: step number, locator, previous locator, its discrepancy, length, shift. -/
def bmStep (s : List Nat) : Nat → Nat → List Nat → List Nat → Nat → Nat → Nat → List Nat
  | 0, _, c, _, _, _, _ => c
  | fuel + 1, n, c, b, l, m, db =>
    let d := (List.range (l + 1)).foldl (fun acc i => acc ^^^ gfMul (nth 0 c i) (if i ≤ n then nth 0 s (n - i) else 0)) 0
    if d = 0 then bmStep s fuel (n + 1) c b l (m + 1) db
    else
      let t := polyAdd c (List.replicate m 0 ++ polyScale (gfMul d (gfInv db)) b)
      if 2 * l ≤ n then bmStep s fuel (n + 1) t c (n + 1 - l) 1 d
      else bmStep s fuel (n + 1) t b l (m + 1) db

/-- The error locator of a list of 14 syndromes. -/
def rsLocator (s : List Nat) : List Nat := bmStep s 14 0 [1] [1] 0 1 1

/-- The formal derivative of a polynomial in characteristic 2. -/
def polyDeriv (p : List Nat) : List Nat :=
  ((List.range p.length).zip p).drop 1 |>.map fun x => if x.1 % 2 = 1 then x.2 else 0

/-- The received word with the error at each located place removed. -/
def rsFix (syn loc : List Nat) (r : List Nat) : List Nat :=
  let om := (polyMul syn loc).take 14
  let dl := polyDeriv loc
  ((List.range r.length).zip r).map fun p =>
    let e := 271 - p.1
    let xi := gfAlpha (1023 - e)
    if polyEval loc xi = 0 then p.2 ^^^ gfMul (gfAlpha e) (gfMul (polyEval om xi) (gfInv (polyEval dl xi))) else p.2

/-- A codeword decoded (R192): the corrected symbols and the number of symbols corrected, or none when it is
uncorrectable. -/
def rsDecode (r : List Nat) : Option (List Nat × Nat) :=
  let s := rsSynd r
  if s.all (· = 0) then some (r, 0)
  else
    let f := rsFix s (rsLocator s) r
    let n := ((r.zip f).filter fun p => p.1 ≠ p.2).length
    if (rsSynd f).all (· = 0) ∧ n ≤ 7 then some (f, n) else none

/-- The generator g(x) of R192, lowest coefficient first. -/
def rsGen : List Nat := (List.range 14).foldl (fun g j => polyMul [gfAlpha j, 1] g) [1]

/-- One message symbol divided into the remainder, highest coefficient first. -/
def rsStep (rem : List Nat) (c : Nat) : List Nat :=
  let fb := c ^^^ rem.headD 0
  List.zipWith (fun r g => r ^^^ gfMul fb g) (rem.drop 1 ++ [0]) (rsGen.take 14).reverse

/-- The 14 parity symbols of a message: the remainder of m(x) x^14 by g(x) (R192). -/
def rsParity (m : List Nat) : List Nat := m.foldl rsStep (List.replicate 14 0)

/-- A codeword encoded: the message symbols, then the parity (R192). -/
def rsEncode (m : List Nat) : List Nat := m ++ rsParity m

/-- The parity symbols inverted (R193). -/
def invertParity (r : List Nat) : List Nat := r.take 258 ++ (r.drop 258).map (· ^^^ 0x3FF)

/-- The bits of a number below 2^n, most significant first. -/
def bitsMsb : Nat → Nat → List Bool
  | 0, _ => []
  | n + 1, v => v.testBit n :: bitsMsb n v

/-- The message bits of a codeword: symbols 0 to 257, each most significant bit first (R192). -/
def messageBits (r : List Nat) : List Bool := (r.take 258).flatMap (bitsMsb 10)

/-- Descrambling (R191): each output bit is the input bit with those of 39 and 58 bits before it; `d` holds the last 58
input bits, the latest in bit 0. -/
def descramble : Nat → List Bool → Nat × List Bool
  | d, [] => (d, [])
  | d, b :: r =>
    let o := (b != d.testBit 38) != d.testBit 57
    let (d', l) := descramble ((2 * d + b2n b) % 2 ^ 58) r
    (d', o :: l)

/-- Scrambling (R191): each output bit is the input bit with the output bits of 39 and 58 bits before it; `d` holds the last 58
output bits, the latest in bit 0. -/
def scramble : Nat → List Bool → Nat × List Bool
  | d, [] => (d, [])
  | d, b :: r =>
    let o := (b != d.testBit 38) != d.testBit 57
    let (d', l) := scramble ((2 * d + b2n o) % 2 ^ 58) r
    (d', o :: l)

/-- Bits, most significant first, as a number. -/
def bitsVal (l : List Bool) : Nat := l.foldl (fun v b => 2 * v + b2n b) 0

/-- Bits as symbols of 10, most significant first. `fuel` bounds the number. -/
def bitsSyms : Nat → List Bool → List Nat
  | 0, _ => []
  | n + 1, l => if l.isEmpty then [] else bitsVal (l.take 10) :: bitsSyms n (l.drop 10)

/-- Bytes as bits, each most significant first (R196). -/
def bytesBits (l : List Byte) : List Bool := l.flatMap fun b => bitsMsb 8 b.toNat

/-- The PAM4 level of a pair of bits, the first the more significant (R190). -/
def pamLevel : Bool → Bool → Int
  | false, false => -3
  | false, true => -1
  | true, true => 1
  | true, false => 3

/-- The pair of bits that a level stands for. -/
def pamBits (l : Int) : List Bool :=
  if l ≤ -2 then [false, false] else if l ≤ 0 then [false, true] else if l < 2 then [true, true] else [true, false]

/-- Bits as PAM4 levels, pair by pair. -/
def pamLevels : List Bool → List Int
  | a :: b :: r => pamLevel a b :: pamLevels r
  | _ => []

/-- Bits as bytes, each most significant bit first (R196). `fuel` bounds the number of bytes. -/
def bitsBytes : Nat → List Bool → List Byte
  | 0, _ => []
  | n + 1, l => if l.isEmpty then [] else BitVec.ofNat 8 (bitsVal (l.take 8)) :: bitsBytes n (l.drop 8)

end Sys2Proof.Machine
end

