-- ==== Sys2Proof/Machine/Lane.lean ====
section
/-! DEFINITION. A cell on the lane: its bytes and bits (R196), link encryption and its tag (R206), the transmit side of the lane
from message bits to PAM4 levels (R190 to R193), and what a received slot holds (R195). -/

namespace Sys2Proof.Machine

/-! ### Ports -/

/-- A port. -/
def State.port (s : State) (p : Nat) : Port := tget (fun _ => {}) s.ports p
/-- A port changed. -/
def State.modPort (s : State) (p : Nat) (f : Port → Port) : State := { s with ports := tset s.ports p (f (s.port p)) }

/-! ### Bytes of a cell (R196) -/

/-- The 16 bytes of a header: byte 0 is bits [127:120]. -/
def hdrBytes (h : BitVec 128) : List Byte := (List.range 16).map fun j => BitVec.ofNat 8 (h.toNat / 2 ^ (120 - 8 * j))

/-- The header of 16 bytes. -/
def hdrOf (l : List Byte) : BitVec 128 := BitVec.ofNat 128 ((l.take 16).foldl (fun v b => 256 * v + b.toNat) 0)

/-- The cell of a header and payload bytes. -/
def cellOf (l : List Byte) : Cell := { hdr := hdrOf l, pay := l.drop 16 }

/-- The bytes of a cell without its tag. -/
def cellBytes (c : Cell) : List Byte := hdrBytes c.hdr ++ c.pay

/-! ### Link encryption (R206) -/

/-- The key and the salt of a port's direction and epoch; zeros for epoch 0 (R208). A loaded epoch holds the transmitter's 32 and 8
bytes, then the receiver's. -/
def State.linkKey (s : State) (p epoch : Nat) (tx : Bool) : List Byte × List Byte :=
  if epoch = 0 then (List.replicate 32 0, List.replicate 8 0)
  else
    let k := (tget (fun _ => []) (s.port p).keys epoch).drop (if tx then 0 else 40)
    (k.take 32, (k.drop 32).take 8)

/-- The 96-bit IV: the salt, the short position, SCNT. -/
def linkIv (salt : List Byte) (pos scnt : Nat) : List Byte :=
  bytesLE 12 (scnt % 2 ^ 32 + pos * 2 ^ 32 + leBytes salt % 2 ^ 62 * 2 ^ 34)

/-- A SYNC cell, whose whole payload is additional data. -/
def cSync (c : Cell) : Bool := cCT c = 5 && cSUB c = 3

/-- Additional data and text of a cell's bytes after its header. -/
def linkAad (c : Cell) : List Byte := hdrBytes c.hdr ++ (if cSync c then c.pay else [])
def linkText (c : Cell) : List Byte := if cSync c then [] else c.pay

/-- AES-256-GCM over a cell, as the named primitive 18: the payload as sent and the tag. -/
def linkSeal (k : List Byte × List Byte) (pos scnt : Nat) (c : Cell) : List Byte × List Byte :=
  let t := linkText c
  let o := cryptoN 18 (k.1 ++ linkIv k.2 pos scnt ++ linkAad c ++ t) 0 (t.length + 16)
  (if cSync c then c.pay else o.take t.length, o.drop t.length)

/-- The bytes of a cell as sent; a poisoned cell carries the complement of its tag (R210). -/
def State.wireBytes (s : State) (p epoch pos scnt : Nat) (c : Cell) (poison : Bool) : List Byte :=
  let (ct, tag) := linkSeal (s.linkKey p epoch true) pos scnt c
  hdrBytes c.hdr ++ ct ++ (if poison then tag.map fun b => ~~~b else tag)

/-- What the verdict on a received cell's tag rests on, for primitive 19: key, IV, additional data, ciphertext, tag. -/
def linkInput (k : List Byte × List Byte) (pos scnt : Nat) (c : Cell) (tag : List Byte) : List Byte :=
  k.1 ++ linkIv k.2 pos scnt ++ linkAad c ++ linkText c ++ tag

/-- A cell opened under a key. -/
def linkOpen (k : List Byte × List Byte) (pos scnt : Nat) (c : Cell) : Cell :=
  if cSync c then c
  else { c with pay := cryptoN 19 (k.1 ++ linkIv k.2 pos scnt ++ linkAad c ++ linkText c) 0 c.pay.length }

/-- The check of a received cell (R207 to R209, R221): under the current epoch; poisoned; under the pending epoch, with the count from
the superframe boundary; under epoch 0. While the count is lost a SYNC is checked with the count that its payload shows. -/
def State.linkCheck (s : State) (p epoch : Nat) (r : RxCell) : Cell × TagCheck :=
  let n := r.bytes.length - 16
  let c := cellOf (r.bytes.take n)
  let tag := r.bytes.drop n
  let right := fun (k : List Byte × List Byte) (n : Nat) => Config.cryptoOk 19 (linkInput k r.pos n c tag)
  let scnt := if cSync c && !(s.port p).cntOk then pWord c 32 else r.scnt
  let k := s.linkKey p epoch false
  let k0 := s.linkKey p 0 false
  if right k scnt then (linkOpen k r.pos scnt c, .current)
  else if Config.cryptoOk 19 (linkInput k r.pos scnt c (tag.map fun b => ~~~b)) then (c, .poisoned)
  else match (s.port p).rxPend with
    | some e =>
      let ke := s.linkKey p e false
      if right ke r.slot then (linkOpen ke r.pos r.slot c, .pending)
      else if right k0 scnt then (linkOpen k0 r.pos scnt c, .zero) else (c, .bad r.early)
    | none => if right k0 scnt then (linkOpen k0 r.pos scnt c, .zero) else (c, .bad r.early)

/-! ### The transmit lane (R190 to R193) -/

/-- One codeword formed of 2,580 message bits: scrambled, encoded, the parity inverted in codeword 0, and sent as PAM4 levels. -/
def Port.sendWord (t : Port) (bits : List Bool) : Port :=
  let (d, b) := scramble t.scr bits
  let w := rsEncode (bitsSyms 258 b)
  let w := if t.txCw = 0 then invertParity w else w
  { t with scr := d, txCw := (t.txCw + 1) % 192, lane := t.lane ++ [pamLevels (w.flatMap (bitsMsb 10))] }

/-- The codewords that the message bits complete. `fuel` bounds the number. -/
def Port.sendWords : Nat → Port → Port
  | 0, t => t
  | n + 1, t =>
    if t.txBits.length < 2580 then t
    else Port.sendWords n ({ t with txBits := t.txBits.drop 2580 }.sendWord (t.txBits.take 2580))

/-- The message bits of the slot just ended join the lane (R195). -/
def Port.sendSlot (t : Port) : Port :=
  Port.sendWords 2 { t with lane := [], txBits := t.txBits ++ t.out.flatMap fun o => bytesBits o.wire }

/-! ### A received slot (R195) -/

/-- The cells of a slot: one full cell, or three short ones, as the header of the first decides. `before` is the number of its bits that
came before the codeword that ended it; a cell whose header lies among them, and its end not, can have begun to leave (R224). -/
def slotCells (slot scnt before : Nat) (d : List Byte) : List RxCell :=
  let n := if cShort (cellOf d) then 96 else 288
  (List.range (288 / n)).map fun i =>
    { slot := slot, scnt := scnt, pos := i, early := 8 * n * i + 128 ≤ before && before < 8 * n * (i + 1),
      bytes := (d.drop (n * i)).take n }

end Sys2Proof.Machine
end

