-- ==== Sys2Proof/Machine/Wire.lean ====
section
/-! DEFINITION. The port datapath (R194 to R223): its flags and events, the credit and queue moves, going UP, RETRAIN and
DOWN, sequencing, replay and credit blocks, control cells, and the selection of Snag injections (R347). -/

namespace Sys2Proof.Machine

/-! ### Port state -/

/-- LSTATE: 0 DOWN, 1 TRAIN, 2 SECURE, 3 UP, 4 RETRAIN, 5 DRAIN. -/
def State.lstate (s : State) (p : Nat) : Nat := s.fld (addrLnkState p) fldLnkState_LSTATE
/-- A field of LNK_STATE set by the hardware. -/
def State.lnk (s : State) (p : Nat) (b : Bits) (v : Nat) : State := s.setFld (addrLnkState p) b v
/-- A field of LNK_STATE. -/
def State.lnkOn (s : State) (p : Nat) (b : Bits) : Bool := s.on (addrLnkState p) b

/-- A bit of LNK_STATUS set, with unit event 4p + 2 (R226). -/
def State.lnkFlag (s : State) (p : Nat) (b : Bits) : State :=
  if s.on (addrLnkStatus p) b then s else (s.setFld (addrLnkStatus p) b 1).raise (4 * p + 2)

/-- A link counter counted up. -/
def State.lnkCount (s : State) (p i : Nat) (d : Nat := 1) : State := s.bump (addrLnkCnt p i) fldLnkCnt_COUNT d

/-- Probation ends when the lane leaves UP or RETRAIN (R339). -/
def State.endProbation (s : State) (p old new : Nat) : State :=
  if (old = 3 ∨ old = 4) ∧ new ≠ 3 ∧ new ≠ 4 ∧ s.on (addrTnsSt p) fldTnsSt_PROB then
    (s.setFld (addrTnsSt p) fldTnsSt_PROB 0).modPort p fun t => { t with trigger := false, probLeft := 0 }
  else s

/-- A change of LSTATE, with its unit event and the pulse of producer 264 + p (R226, R352). -/
def State.setLstate (s : State) (p v : Nat) : State :=
  let old := s.lstate p
  if old = v then s
  else (((s.endProbation p old v).lnk p fldLnkState_LSTATE v).raise (4 * p + 1)).fireProd (264 + p)

/-- An element of a per-class list changed. -/
def modNth (l : List Nat) (i : Nat) (f : Nat → Nat) : List Nat := setNth l i (f (nth 0 l i))

/-- RESEC is 1 (R221). -/
def State.resec (s : State) (p : Nat) : Bool := s.lnkOn p fldLnkState_RESEC

/-- Sequenced cells are taken: UP, DRAIN, or RETRAIN with the keys kept (R217, R221). -/
def State.carries (s : State) (p : Nat) : Bool :=
  let l := s.lstate p
  l = 3 || l = 5 || (l = 4 && !s.resec p)

/-- This device. -/
def State.devId (s : State) : Nat := s.fld addrRteId fldRteId_DEVID
/-- The device's identifier is set (R227). -/
def State.idSet (s : State) : Bool := s.on addrRteId fldRteId_SET
/-- A device is the port's partner (R229). -/
def State.isPartner (s : State) (p d : Nat) : Bool :=
  s.lnkOn p fldLnkState_PVALID && s.fld (addrLnkState p) fldLnkState_PARTNER = d
/-- The port's role: 0 LOCAL, 1 GLOBAL, 2 SERVICE (R228). -/
def State.role (s : State) (p : Nat) : Nat := s.fld (addrRtePcfg p) fldRtePcfg_ROLE

/-- A route counter counted up, and a route flag set. -/
def State.rteCount (s : State) (i : Nat) : State := s.bump (addrRteCnt i) fldRteCnt_COUNT
def State.rteFlag (s : State) (b : Bits) : State := s.setFld addrRteStatus b 1

/-! ### TX messages of a bobbin (R26, R170) -/

/-- The fetched slips of a TX bobbin. -/
def State.txOf (s : State) (k : Nat) : List TxMsg := tget (fun _ => []) s.txq k
/-- The fetched slips replaced. -/
def State.setTx (s : State) (k : Nat) (l : List TxMsg) : State := { s with txq := tset s.txq k l }
/-- The pool of a TX bobbin. -/
def State.poolOf (s : State) (k : Nat) : Nat := s.bdf k 6 bdPOOL
/-- A completion slip written to a TX bobbin's CPLB by its home engine (R172); the contents of a descriptor whose V is 0 have no
effect (R166). -/
def State.txSlip (s : State) (k kind detail idx : Nat) (w : List Nat) (peer msgid : Nat) : State :=
  if !s.bobValid k then s
  else s.putSlip (64 + s.bdf k 1 bdHOME) (s.bdf k 1 bdCPLB) (s.cplSlip kind detail k idx (nth 0 w 6) (nth 0 w 7) peer msgid)

/-- The completion of one slip at the head of its bobbin: CONS passes it, and its slip is written (R170, R173, R184). A
message sent again from its record completes nothing here, unless it is cancelled (R169). -/
def State.txComplete (s : State) (k : Nat) (m : TxMsg) : State :=
  if m.resend then (if m.stage = .cancelled then s.txSlip k 4 0 m.idx m.words 0 0 else s)
  else
    let s := s.advCons k m.ents
    match m.stage with
    | .fault d => s.txSlip k 5 d m.idx m.words 0 0
    | .cancelled => s.txSlip k 4 0 m.idx m.words 0 0
    | _ => if slCQ m.words then s.txSlip k 1 0 m.idx m.words 0 0 else s

/-- The finished slips at the head of a bobbin completed, in ring order. -/
def State.txFlush (s : State) (k : Nat) : List TxMsg → State
  | [] => s.setTx k []
  | m :: r =>
    match m.stage with
    | .held => s.setTx k (m :: r)
    | .running => s.setTx k (m :: r)
    | _ => (s.txComplete k m).txFlush k r

/-- One cell of a message has entered replay, or has been retired. -/
def cellDone (idx : Nat) (retired : Bool) : List TxMsg → List TxMsg
  | [] => []
  | m :: r =>
    if m.idx = idx ∧ m.stage = .running then
      let st := if m.left ≤ 1 then (if retired then .cancelled else .sent) else m.stage
      { m with left := m.left - 1, stage := st } :: r
    else m :: cellDone idx retired r

/-- A send record changed. -/
def modRec (k idx : Nat) (f : SendRec → SendRec) (l : List SendRec) : List SendRec :=
  l.map fun r => if r.bob = k ∧ r.idx = idx then f r else r

/-- The pool and the record of an originated cell that enters replay (R184); when the record has been retired already, the credit comes
back at once. -/
def State.cellSent (s : State) (k idx : Nat) : State :=
  let s := s.move (s.poolOf k) .held .flight 1
  let s := if s.sends.any fun r => r.bob = k ∧ r.idx = idx then s else s.move (s.poolOf k) .flight .free 1
  let s := { s with sends := modRec k idx (fun r => { r with flight := r.flight + 1 }) s.sends }
  let l := cellDone idx false (s.txOf k)
  s.txFlush k l

/-- The pool and the record of an originated cell that is retired before framing (R184, R222): the record of a message
that has sent nothing goes with its last cell. -/
def State.cellRetired (s : State) (k idx : Nat) : State :=
  let s := s.move (s.poolOf k) .held .free 1
  let l := cellDone idx true (s.txOf k)
  let gone := !l.any (fun m => m.idx = idx ∧ m.stage = .running)
  let s := if gone then { s with sends := s.sends.filter fun r => !(r.bob = k ∧ r.idx = idx ∧ r.flight = 0) } else s
  s.txFlush k l

/-! ### Tokens of skein cells (R184, R323) -/

/-- A skein context. -/
def State.skn (s : State) (c : Nat) : SkCtx := tget (fun _ => {}) s.skns c
/-- A context changed. -/
def State.modSkn (s : State) (c : Nat) (f : SkCtx → SkCtx) : State := { s with skns := tset s.skns c (f (s.skn c)) }
/-- Descriptor word `i`, by its offset over 4. -/
def SkCtx.w (t : SkCtx) (i : Nat) : Nat := nth 0 t.desc i
/-- The token pool. -/
def SkCtx.pool (t : SkCtx) : Nat := natField (t.w 2) ⟨27, 16⟩

/-- A queued skein cell of context `c` leaves the queue: its token moves as given. -/
def State.sknUnqueue (s : State) (c : Nat) (dst : Ctr) : State :=
  if (s.skn c).queued = 0 then s
  else (s.move (s.skn c).pool .held dst 1).modSkn c fun t => { t with queued := t.queued - 1 }

/-- A skein cell enters replay: its token counts for the operation that its OPSEQ names (R323). -/
def State.sknFramed (s : State) (c : Nat) (cell : Cell) : State :=
  let mine := hdrF cell 87 72 = s.fld (addrSknCst c) fldSknCst_OPSEQ
  if (s.skn c).queued = 0 then s
  else (s.sknUnqueue c .flight).modSkn c fun t =>
    if mine then { t with flying := t.flying + 1 } else { t with before := t.before + 1 }

/-! ### Credits and queues (R184, R214, R237, R238) -/

/-- The quota of transit holding of an ingress port. -/
def State.thq (s : State) (p : Nat) : Nat := quotaSet (s.fld (addrRtePcfg p) fldRtePcfg_THQ)

/-- A held cell's unit moved out (R184). -/
def State.freeHeld (s : State) (c : QCell) : State :=
  match c.held, c.ingress with
  | some _, some i => (s.move (s.thq i) .held .flight 1).move (s.thq i) .flight .free 1
  | _, _ => s

/-- The creel units of 256 bytes in use: transit holding and reorder units. -/
def State.unitsUsed (s : State) : List Nat :=
  (s.ports.flatMap fun x => x.2.q.filterMap (·.held)) ++ s.ctxs.flatMap fun x => x.2.units

/-- The lowest free unit of a partition from `lo` to `hi`, none when there is none; `n` more bounds the search. -/
def freeUnit (used : List Nat) (lo hi : Nat) : Option Nat :=
  let a := (firstBelow (used.length + 1) fun i => !used.contains (lo + 256 * i)).getD 0
  if lo + 256 * a + 256 ≤ hi then some (lo + 256 * a) else none

/-- A free unit in the creel partitions of a use, outside the reorder structures (R237, R240); which one is a DESIGN CHOICE (log 104). -/
def State.findUnit (s : State) (use : Nat) : Option Nat :=
  (List.range 32).findSome? fun k =>
    let at_ := addrMemCpattr k
    let base := s.fld (addrMemCpbase k) fldMemCpbase_BASE * 65536
    if s.on at_ fldMemCpattr_V && s.fld at_ fldMemCpattr_USE = use then
      freeUnit s.unitsUsed (if base = s.fld addrRteRbase fldRteRbase_BASE * 65536 then base + 0x300000 else base)
        ((s.fld (addrMemCplim k) fldMemCplim_LIMIT + 1) * 65536)
    else none

/-- Bytes of a port's own buffer written by port P(p), as S-world supervisor (R151); bad data is marked bad (R159). -/
def State.bufPut (s : State) (p a : Nat) (d : List Byte) (bad : Bool) : State :=
  if !s.grantedAll (64 + p) false true .write a d.length then s
  else if bad then s.memBad a d.length else (s.memWrite (64 + p) a d).1

/-- Bytes of a port's own buffer read; none when they are bad, or refused. -/
def State.bufGet (s : State) (p a n : Nat) : State × Option (List Byte) :=
  if !s.grantedAll (64 + p) false true .read a n then (s, none) else s.memRead (64 + p) a n

/-- The onward rule of LOCAL ports: the credits that a cell must leave (R238). -/
def State.reserve (s : State) (p : Nat) (c : Cell) : Nat :=
  if s.role p = 0 ∧ !s.isPartner p (cDST c) then s.fld addrRteLrsv ⟨4 * cTC c + 3, 4 * cTC c⟩ else 0

/-- A cell can be assigned a credit of its class at port `p`. -/
def State.assignable (s : State) (p : Nat) (c : Cell) : Bool := s.reserve p c < s.ctr (portSet p (cTC c)) .free

/-- The payload of a held cell read back from its unit (R28); bad data makes the cell bad (R159, R210). -/
def State.unheld (s : State) (c : QCell) : State × QCell :=
  match c.held, c.ingress with
  | some a, some i =>
    match s.bufGet i a c.cell.pay.length with
    | (s, some d) => (s, { c with cell := { c.cell with pay := d } })
    | (s, none) => (s, { c with bad := true })
  | _, _ => (s, c)

/-- A cell assigned (R184): what transit holding held moves out. -/
def State.assign (s : State) (p : Nat) (c : QCell) : State × QCell :=
  if c.assigned then (s, c)
  else
    let s := s.move (portSet p (cTC c.cell)) .free .held 1
    let (s, d) := s.unheld c
    (s.freeHeld c, { d with assigned := true, held := none })

/-- Two cells share a FIFO of port `p`: one class, and on a LOCAL port both last-hop or both onward (R238). -/
def State.sameFifo (s : State) (p : Nat) (a b : Cell) : Bool :=
  cTC a = cTC b && (s.role p ≠ 0 || s.isPartner p (cDST a) == s.isPartner p (cDST b))

/-- A new cell of port `p` takes a credit at once: one is there, and no cell of its FIFO waits for one. -/
def State.takesCredit (s : State) (p : Nat) (c : Cell) : Bool :=
  s.assignable p c && !(s.port p).q.any (fun x => !x.assigned && s.sameFifo p x.cell c)

/-- A cell joins the queue of its class at port `p`. -/
def State.enqueue (s : State) (p : Nat) (c : QCell) : State :=
  let (s, c) := if s.takesCredit p c.cell then s.assign p c else (s, c)
  s.modPort p fun t => { t with q := t.q ++ [c] }

/-- A cell held for a port retired (R222). -/
def State.retireCell (s : State) (c : QCell) : State :=
  let s := s.freeHeld c
  match c.bob, c.skn with
  | some k, _ => s.cellRetired k c.idx
  | none, some x => s.sknUnqueue x .free
  | none, none => s

/-- A receive buffer freed: one credit released (R214). -/
def State.relCredit (s : State) (p tc : Nat) : State :=
  s.modPort p fun t => { t with rxHeld := modNth t.rxHeld tc (· - 1), ccnt := modNth t.ccnt tc (fun v => (v + 1) % 2 ^ 24) }

/-! ### Link states (R217, R220 to R223) -/

/-- Both epoch keys erased (R208, R209, R222): both directions fall to epoch 0, whose count begins with the slot's number in the
superframe (DEDUCED, log 106), and the receiver has its count to regain. -/
def State.eraseKeys (s : State) (p : Nat) : State :=
  let s := s.modPort p fun t => { t with keys := [], rxPend := none, txPend := none, hiScnt := none, cntOk := false }
  ((s.lnk p fldLnkState_EPTX 0).lnk p fldLnkState_EPRX 0).setFld (addrLnkScnttx p) fldLnkScnttx_SCNT (s.port p).txSlot

/-- The dialogue of a re-secure begins anew (R221). -/
def Port.freshSecure (t : Port) : Port :=
  { t with grantSent := none, grantRecv := none, confSent := false, confRecv := false, tries := (0, 0, 0), dseqs := [], ident := [] }

/-- The dialogue of a bring-up begins anew. -/
def Port.freshDialogue (t : Port) : Port :=
  { t.freshSecure with dr1Sent := false, dr1Recv := false, dr2Sent := false, dr2Recv := false }

/-- The bits of word `k` of a setting set (R333). -/
def setMask (k : Nat) : Nat := nth 0 [0x003F3F1F, 0xFFFFFFFF, 0xFFFFFFFF, 0xFFFFFFFF, 0xFFFF, 0xFFFFFFFF, 0xFFFF, 0] k

/-- Training loads MAIN with values that the spec does not give; PREV then holds no setting (R333, TNS_ST.PVALID). -/
def State.loadMain (s : State) (p : Nat) : State :=
  let s := (List.range 8).foldl (fun s k =>
    let (n, s) := s.nextFree
    s.wr (addrTnsMain p k) (Config.freeWord n &&& wordOf (setMask k))) s
  s.setFld (addrTnsSt p) fldTnsSt_PVALID 0

/-- Entry to TRAIN. -/
def State.goTrain (s : State) (p : Nat) : State := ((s.modPort p Port.freshDialogue).loadMain p).setLstate p 1

/-- A snapshot in progress is incomplete. -/
def SkCtx.spoil (t : SkCtx) : SkCtx := if t.op = 2 then { t with incompl := true } else t

/-- Every skein context changed. -/
def State.eachSkn (s : State) (f : SkCtx → SkCtx) : State :=
  let l : Tbl SkCtx := s.skns.map (fun (x : Nat × SkCtx) => (x.1, f x.2))
  { s with skns := l }

/-- Transit paths to an egress port that goes DOWN lead nowhere from then on (R237). -/
def Port.dropPath (q : Nat) (t : Port) : Port :=
  { t with paths := t.paths.map fun x => if x.2.2 = some q then (x.1, x.2.1, none) else x }

/-- What a port's DOWN means for ingress port `i`: its paths to it, and the cells in its receive buffers that wait for it, which are
retired (R222, R237). -/
def State.cutPaths (s : State) (q i : Nat) : State :=
  let lost := (s.port i).rxWait.filter fun x => x.2 = some q
  let s := s.modPort i fun t => { t.dropPath q with rxWait := t.rxWait.filter fun x => x.2 ≠ some q }
  lost.foldl (fun s x => (s.rteCount 12).relCredit i (cTC x.1)) s

/-- A port reaches DOWN (R222): the steps in order; a snapshot in progress is incomplete (R326). -/
def State.goDown (s : State) (p : Nat) : State :=
  let s := (s.setLstate p 0).lnkFlag p fldLnkStatus_DOWNEV
  let s := s.eachSkn SkCtx.spoil
  let held := (s.port p).q ++ (s.port p).framing.map (·.2)
  let s := s.modPort p fun t =>
    { t with q := [], framing := [], replay := [], resend := none, paths := [], ctlq := [], rxq := [], fw := none }
  let s := held.foldl State.retireCell s
  let s := (s.ports.map (·.1)).foldl (fun s i => s.cutPaths p i) s
  let s := (s.setFld (addrReelPst p) fldReelPst_GOBACK 0).setFld (addrLnkRply p) fldLnkRply_UNITS 0
  let s := (List.range 8).foldl (fun s tc => s.setAll (portSet p tc) 0 0 0 0) s
  let s := s.eraseKeys p
  let s := (((s.lnk p fldLnkState_PVALID 0).lnk p fldLnkState_RESEC 0).lnk p fldLnkState_KEYEXH 0).lnk p fldLnkState_GAP 0
  (s.setFld (addrLnkCtxcmd p) fldLnkCtxcmd_BUSY 0).modPort p Port.freshDialogue

/-- Entry to RETRAIN (R217, R220). -/
def State.goRetrain (s : State) (p : Nat) : State :=
  if s.lstate p = 4 then s else (s.setLstate p 4).lnkFlag p fldLnkStatus_RETRAINEV

/-- Keys erased, RESEC set, and RETRAIN (R208, R209, R221). -/
def State.eraseRetrain (s : State) (p : Nat) : State :=
  (((s.eraseKeys p).lnk p fldLnkState_RESEC 1).modPort p Port.freshSecure).goRetrain p

/-- A control cell put in line for a position. -/
def State.queueCtl (s : State) (p : Nat) (c : CtlCell) : State := s.modPort p fun t => { t with ctlq := t.ctlq ++ [c] }

/-- The SYNC that answers a request, due within 2 slots (R207): it goes before the others in line. -/
def syncReply : CtlCell := { sub := 3, body := [0] }

/-- A NAK with ESEQ and a reason (R203, R212). -/
def State.queueNak (s : State) (p reason : Nat) : State :=
  s.queueCtl p { sub := 2, body := bytesLE 4 (s.fld (addrLnkEseq p) fldLnkEseq_LSEQ) ++ bytesLE 1 reason }

/-- A NAK on the return from RETRAIN (R220, R221): the spec gives it no REASON, so a free byte stands there. -/
def State.queueNakBack (s : State) (p : Nat) : State :=
  let (n, s) := s.nextFree
  s.queueNak p (Config.freeByte n).toNat

/-- Entry to UP after the GRANTs (R214, R218): ledger grants, counts and sequence numbers from 0. -/
def State.goUp (s : State) (p : Nat) : State :=
  let t := s.port p
  let g := t.grantRecv.getD []
  let s := (List.range 7).foldl (fun s tc => s.setAll (portSet p tc) (nth 0 g tc) (nth 0 g tc) 0 0) s
  let s := s.modPort p fun t =>
    { t with granted := t.grantSent.getD [], rxHeld := List.replicate 7 0, ccnt := List.replicate 7 0, replay := [],
             resend := none, gbAt := none, expiries := 0, sinceBlk := 0, rxWait := [] }
  let s := (List.range 7).foldl (fun s tc => (s.wr (addrLnkCrtx p tc) 0).wr (addrLnkCrrx p tc) 0) s
  let s := ((s.wr (addrLnkTxnext p) 0).wr (addrLnkTxack p) 0).wr (addrLnkEseq p) 0
  let s := (s.wr (addrLnkRply p) 0).lnk p fldLnkState_GAP 0
  (s.lnk p fldLnkState_RESEC 0).setLstate p 3

/-- A drain is under way on the port (R223): a request sent or received, or its enable cleared. -/
def State.draining (s : State) (p : Nat) : Bool :=
  (s.port p).dr1Sent || (s.port p).dr1Recv || s.unitState (addrLnkCtl p) = 3

/-- The return to UP from RETRAIN or from a re-secure (R220, R221), or to DRAIN where a drain had begun: no new sequenced cell starts
(R223). -/
def State.backUp (s : State) (p : Nat) : State :=
  ((s.lnk p fldLnkState_RESEC 0).setLstate p (if s.draining p then 5 else 3)).queueNakBack p

/-- Locks and count held in RETRAIN (R217): UP, or SECURE when RESEC is 1. -/
def State.regained (s : State) (p : Nat) : State :=
  if s.lstate p = 4 ∧ s.lnkOn p fldLnkState_SFLOCK ∧ s.lnkOn p fldLnkState_CWLOCK ∧ (s.port p).cntOk then
    if s.resec p then (s.modPort p Port.freshSecure).setLstate p 2 else s.backUp p
  else s

/-- Both locks cleared (R194): the count is lost, and a port in UP enters RETRAIN (R217); a drain goes on (R223). -/
def State.loseLocks (s : State) (p : Nat) : State :=
  let s := (s.lnk p fldLnkState_CWLOCK 0).lnk p fldLnkState_SFLOCK 0
  let s := s.modPort p fun t => { t with uncRun := 0, missed := 0, sinceSf := none, cntOk := false, part := [], rxq := [] }
  if s.lstate p = 3 then s.goRetrain p else s

/-- A drain begins (R223); while a re-secure runs it waits for its end. -/
def State.goDrain (s : State) (p : Nat) : State :=
  if s.lstate p = 3 ∨ (s.lstate p = 4 ∧ !s.resec p) then s.setLstate p 5 else s

/-! ### Sequencing and replay (R211 to R213) -/

/-- TXNEXT, TXACK, ESEQ. -/
def State.txNext (s : State) (p : Nat) : Nat := s.fld (addrLnkTxnext p) fldLnkTxnext_LSEQ
def State.txAck (s : State) (p : Nat) : Nat := s.fld (addrLnkTxack p) fldLnkTxack_LSEQ
def State.eseq (s : State) (p : Nat) : Nat := s.fld (addrLnkEseq p) fldLnkEseq_LSEQ

/-- A difference of sequence numbers. -/
def seqDiff (a b : Nat) : Nat := (a + 2 ^ 20 - b) % 2 ^ 20

/-- The go-back's next LSEQ, and GOBACK, which ends at TXNEXT. -/
def State.setResend (s : State) (p : Nat) (r : Option Nat) : State :=
  let r := match r with
    | some n => if n = s.txNext p then none else some n
    | none => none
  (s.modPort p fun t => { t with resend := r }).setFld (addrReelPst p) fldReelPst_GOBACK (b2n r.isSome)

/-- The replay units in use shown in LNK_RPLY. -/
def State.showReplay (s : State) (p : Nat) : State :=
  s.setFld (addrLnkRply p) fldLnkRply_UNITS (((s.port p).replay.map (·.units)).foldl (· + ·) 0)

/-- A LACK processed (R213); false when it lies outside the window. -/
def State.takeLack (s : State) (p lack : Nat) : State × Bool :=
  let a := s.txAck p
  let u := seqDiff lack a
  if u ≤ seqDiff (s.txNext p) a then
    let t := s.port p
    let s := s.modPort p fun t =>
      { t with replay := t.replay.filter fun r => u ≤ seqDiff r.lseq a, expiries := if u = 0 then t.expiries else 0 }
    let s := s.setFld (addrLnkTxack p) fldLnkTxack_LSEQ lack
    let s := match t.resend with
      | some n => if seqDiff n a < u then s.setResend p (some lack) else s
      | none => s
    (s.showReplay p, true)
  else (s.lnkFlag p fldLnkStatus_ACKERR, false)

/-- A go-back from a sequence number (R213). -/
def State.goBack (s : State) (p n : Nat) : State :=
  if n = s.txNext p then s
  else ((s.modPort p fun t => { t with gbAt := some (n, s.tb64) }).setResend p (some n)).lnkCount p 5

/-- A loss (R212): GAP, and a NAK when it was clear. -/
def State.loss (s : State) (p reason : Nat) : State :=
  if !s.carries p || s.lnkOn p fldLnkState_GAP then s
  else (s.lnk p fldLnkState_GAP 1).queueNak p reason

/-- The port has entered UP since it was last DOWN: its counts are in force (R202), through a re-secure too (R221). -/
def State.beenUp (s : State) (p : Nat) : Bool := 3 ≤ s.lstate p || (s.lstate p = 2 && s.resec p)

/-- A credit block processed (R215); a class whose return exceeds FLIGHT takes the port DOWN. -/
def State.takeCredits (s : State) (p : Nat) (c : Cell) : State :=
  if !s.beenUp p then s
  else
    let ds := (List.range 7).map fun tc => (tc, pWord c (4 * tc) % 2 ^ 24,
      (pWord c (4 * tc) % 2 ^ 24 + 2 ^ 24 - s.fld (addrLnkCrrx p tc) fldLnkCrrx_CCNT) % 2 ^ 24)
    if ds.any fun d => s.ctr (portSet p d.1) .flight < d.2.2 then (s.lnkFlag p fldLnkStatus_CRDERR).goDown p
    else ds.foldl (fun s d => (s.setFld (addrLnkCrrx p d.1) fldLnkCrrx_CCNT d.2.1).move (portSet p d.1) .flight .free d.2.2) s

/-! ### Link tags (R207 to R209) -/

/-- The receive epoch switches to the pending one (R207). -/
def State.switchRx (s : State) (p : Nat) : State :=
  match (s.port p).rxPend with
  | some e =>
    let s := s.lnk p fldLnkState_EPRX e
    (s.wr (addrLnkScntrx p) (wordOf (((s.port p).slotNo + 214) % 215))).modPort p fun t => { t with rxPend := none, hiScnt := none }
  | none => s

/-- A burst of tag failures in the audit log (R209, R404): one entry a second while bursts go on at the port, with their count. -/
def State.tagBurst (s : State) (p : Nat) : State :=
  let t := s.port p
  let n := t.tagfCnt + 1
  let due : Bool := match t.tagfAt with | some at_ => decide (at_ + 1000000000 ≤ s.tb64) | none => true
  if due then
    (s.auditSoon 0x0D 1 (bytesLE 2 p ++ bytesLE 4 n)).modPort p fun t => { t with tagfAt := some s.tb64, tagfCnt := 0 }
  else s.modPort p fun t => { t with tagfCnt := n }

/-- A wrong tag (R209): counted, TAGF, a loss; more than 16 in 1 ms erase the keys and retrain. -/
def State.tagFailure (s : State) (p : Nat) : State :=
  let s := (s.lnkCount p 3).lnkFlag p fldLnkStatus_TAGF
  let l := ((s.port p).tagFails.filter fun x => s.tb64 < x + 1000000) ++ [s.tb64]
  if 16 < l.length then ((s.modPort p fun t => { t with tagFails := [] }).tagBurst p).eraseRetrain p
  else (s.modPort p fun t => { t with tagFails := l }).loss p 2

/-- A cell of epoch 0 that the receiver accepts (R208): CT 5 of SUB 0x01 to 0x09, 0x30 and 0x31. -/
def epoch0Ok (c : Cell) : Bool :=
  cCT c = 5 && ((1 ≤ cSUB c && cSUB c ≤ 9) || cSUB c = 0x30 || cSUB c = 0x31)

/-- The tag check of a received cell, and the acceptance rules of its epoch: true when the cell is verified. -/
def State.tagCheck (s : State) (p : Nat) (c : Cell) (tag : TagCheck) : State × Bool :=
  if s.lstate p = 0 ∨ !s.lnkOn p fldLnkState_SFLOCK ∨ (s.port p).fresh then (s, false)
  else match tag with
    | .current =>
      let s := if (s.port p).cntOk then s.modPort p fun t => { t with hiScnt := some (s.rd (addrLnkScntrx p)).toNat } else s
      (s, s.fld (addrLnkState p) fldLnkState_EPRX ≠ 0 || epoch0Ok c)
    | .pending =>
      match (s.port p).rxPend with
      | some _ => (s.switchRx p, true)
      | none => (s.tagFailure p, false)
    | .zero =>
      if (s.lstate p = 3 ∨ s.lstate p = 4) ∧ cCT c = 5 ∧ cSUB c = 4 then (s.eraseRetrain p, true)
      else (s.tagFailure p, false)
    | .poisoned => (s.lnkCount p 4, false)
    | .bad _ => (s.tagFailure p, false)

/-! ### Control cells (R201 to R205) -/

/-- The credit block that the port writes (R202); 0 before UP. -/
def State.creditBytes (s : State) (p : Nat) : List Byte :=
  if !s.beenUp p then List.replicate 32 0
  else (padTo 8 0 (padTo 7 0 (s.port p).ccnt)).flatMap (bytesLE 4)

/-- The block has gone out: LNK_CRTX shows the counts sent (R216). -/
def State.blockSent (s : State) (p : Nat) : State :=
  let t := s.port p
  let s := s.modPort p fun t => { t with sinceBlk := 0 }
  if !s.beenUp p then s
  else (List.range 7).foldl (fun s tc => s.setFld (addrLnkCrtx p tc) fldLnkCrtx_CCNT (nth 0 t.ccnt tc)) s

/-- DST and DU of a control cell (R201). -/
def State.partnerHdr (s : State) (p : Nat) : List (Nat × Nat) :=
  if s.lnkOn p fldLnkState_PVALID then [(108, s.fld (addrLnkState p) fldLnkState_PARTNER)] else [(120, 1)]

/-- A hardware control cell as sent: a CT 7 cell for subtype 256, else a short CT 5 cell. A SYNC holds the count of its slot,
its epoch and REQ, and no credit block (R203). -/
def State.ctlToCell (s : State) (p scnt : Nat) (c : CtlCell) : Cell :=
  let common := [(121, 7), (96, s.devId), (24, s.eseq p)] ++ s.partnerHdr p
  if c.sub = 256 then
    { hdr := mkHdr ((124, 7) :: common.filter (fun x => x.1 ≠ 120)), pay := s.creditBytes p ++ List.replicate 32 0 }
  else if c.sub = 3 then
    { hdr := mkHdr ((124, 5) :: (88, 3) :: common),
      pay := padTo 64 0 (List.replicate 32 0 ++ bytesLE 4 scnt ++ bytesLE 1 (s.fld (addrLnkState p) fldLnkState_EPTX) ++ c.body) }
  else { hdr := mkHdr ((124, 5) :: (88, c.sub) :: common), pay := padTo 64 0 (s.creditBytes p ++ c.body) }

/-- Firmware's cell as sent (R226): the port writes bytes 0 to 31. -/
def State.fwToCell (s : State) (p : Nat) (f : FwCell) : Cell :=
  { hdr := mkHdr ([(124, 5), (121, 7), (96, s.devId), (24, s.eseq p), (88, f.sub), (87, b2n f.full), (80, f.frag),
                   (64, f.dseq), (0, f.last)] ++ s.partnerHdr p),
    pay := s.creditBytes p ++ (padTo (if f.full then 256 else 64) 0 f.pay).drop 32 }

/-- A cell that begins a dialogue message of a bring-up or re-secure (R218). -/
def FwCell.begins (f : FwCell) : Bool := 4 ≤ f.sub && f.sub ≤ 9 && f.frag = 0

/-- The attempts at the dialogue message of a cell so far. -/
def State.attempts (s : State) (p : Nat) (f : FwCell) : Nat :=
  let t := (s.port p).tries
  if t.1 = f.sub ∧ t.2.1 = f.dseq then t.2.2 else 0

/-- An attempt at a dialogue message counted when its first fragment leaves. -/
def State.attempt (s : State) (p : Nat) (f : FwCell) : State :=
  if f.begins then s.modPort p fun t => { t with tries := (f.sub, f.dseq, s.attempts p f + 1) } else s

/-- What sending firmware's cell means for the link (R217, R218, R221, R223): the GRANT and CONFIRM of this side, the
DRAIN request and reply. -/
def State.fwSent (s : State) (p : Nat) (f : FwCell) : State :=
  let c : Cell := { hdr := 0, pay := f.pay }
  let s := s.attempt p f
  let s := match f.sub with
    | 8 => s.modPort p fun t => { t with confSent := true }
    | 9 => s.modPort p fun t => { t with grantSent := some ((List.range 7).map fun tc => pWord c (32 + 4 * tc)) }
    | 12 =>
      if pByte c 32 = 1 then (s.modPort p fun t => { t with dr1Sent := true }).goDrain p
      else if pByte c 32 = 2 then s.modPort p fun t => { t with dr2Sent := true }
      else s
    | _ => s
  let t := s.port p
  if s.lstate p ≠ 2 then s
  else if s.resec p then (if t.confSent && t.confRecv then s.backUp p else s)
  else if t.grantSent.isSome && t.grantRecv.isSome then s.goUp p
  else s

/-- A received HELLO is acceptable (R219, R228). -/
def State.helloOk (s : State) (p : Nat) (c : Cell) : Bool :=
  let d := pWord c 32 % 65536
  let dev := d % 4096
  dev ≠ s.devId && pByte c 35 = s.role p &&
    (s.role p ≠ 0 || dev / 64 = s.devId / 64) && (s.role p ≠ 1 || dev / 64 ≠ s.devId / 64)

/-- A refusal of a partner (R219, R228): the audit entry (port, DEVID, and a reason that the spec does not number), IDCONF and DOWN.
After an identity or signature check that fails no attempt begins for 1 s. -/
def State.refusePartner (s : State) (p dev : Nat) (identity : Bool) : State :=
  let (n, s) := s.nextFree
  let s := s.auditSoon 0x0C 1 (bytesLE 2 p ++ bytesLE 2 dev ++ [Config.freeByte n])
  let s := if identity then s.modPort p fun t => { t with holdTil := s.tb64 + 1000000000 } else s
  (s.lnkFlag p fldLnkStatus_IDCONF).goDown p

/-- A subtype that the port gives to firmware (R204). -/
def fwSub (n : Nat) : Bool := (4 ≤ n && n ≤ 12) || n = 0x30 || n = 0x31

/-- A control cell whose subtype is known and whose reserved header bits are 0 (R203, R204). -/
def ctlWellFormed (c : Cell) : Bool :=
  (cSUB c = 1 || cSUB c = 2 || cSUB c = 3 || cSUB c = 0x20 || fwSub (cSUB c)) &&
    hdrF c 63 44 = 0 && hdrF c 23 7 = 0 && cTC c = 7

/-- A control cell delivered to firmware (R204, R226): with 16 held it is discarded and CTLOV is set. -/
def State.deliverCtl (s : State) (p : Nat) (c : Cell) : State × Bool :=
  if (s.port p).crx.length < 16 then
    ((s.modPort p fun t => { t with crx := t.crx ++ [c] }).raise (4 * p), true)
  else (s.lnkFlag p fldLnkStatus_CTLOV, false)

/-- DSEQ of a dialogue message; whether a cell is the fragment that completes it (R201, R204). -/
def cDSEQ (c : Cell) : Nat := hdrF c 79 64
def cLastFrag (c : Cell) : Bool := hdrF c 86 80 = hdrF c 6 0

/-- A dialogue cell of a bring-up or re-secure that means nothing to the link: its message is not complete, or its DSEQ has been taken
before (R218). -/
def State.dialogueIdle (s : State) (p : Nat) (c : Cell) : Bool :=
  4 ≤ cSUB c && cSUB c ≤ 9 && (!cLastFrag c || (s.port p).dseqs.contains (cDSEQ c))

/-- A fragment of an IDENT message kept (R204); a new message drops those of the one before. -/
def State.keepFragment (s : State) (p : Nat) (c : Cell) : State :=
  if cSUB c ≠ 5 then s
  else s.modPort p fun t =>
    let l := if t.identSeq = cDSEQ c then t.ident else []
    { t with identSeq := cDSEQ c, ident := tset l (hdrF c 86 80) (c.pay.drop 32) }

/-- The content of the IDENT message that a last fragment completes: fragments 0 to LAST after the length word. -/
def State.identMsg (s : State) (p : Nat) (c : Cell) : List Byte :=
  let m := (List.range (hdrF c 6 0 + 1)).flatMap fun k => tget (fun _ => []) (s.port p).ident k
  (m.drop 4).take (leBytes (m.take 4))

/-- The outcome of firmware's checks on a dialogue message of SECURE that fails them: the partner is refused (R219). -/
def State.judge (s : State) (p : Nat) (accepted : Bool) : State :=
  if s.lstate p = 2 ∧ !accepted then s.refusePartner p (s.fld (addrLnkState p) fldLnkState_PARTNER) true else s

/-- A HELLO judged (R217, R219, R228): the partner known, or refused. -/
def State.hello (s : State) (p : Nat) (c : Cell) (accepted : Bool) : State :=
  if s.lstate p = 1 ∨ s.lstate p = 2 then
    if accepted && s.helloOk p c then
      (s.lnk p fldLnkState_PARTNER (pWord c 32 % 4096)).lnk p fldLnkState_PVALID 1
    else s.refusePartner p (pWord c 32 % 4096) (!accepted)
  else s

/-- A dialogue message taken: its DSEQ is not taken again (R218). -/
def State.takeDseq (s : State) (p : Nat) (c : Cell) : State :=
  if 4 ≤ cSUB c ∧ cSUB c ≤ 9 ∧ (s.lstate p = 1 ∨ s.lstate p = 2) then
    s.modPort p fun t => { t with dseqs := cDSEQ c :: t.dseqs }
  else s

/-- The steps that a complete dialogue message brings about, with the verdict of firmware's checks on it (R217 to R219, R221,
R223); an IDENT message's certificates are judged here (R381). -/
def State.dialogueStep (s : State) (p : Nat) (c : Cell) (accepted : Bool) : State :=
  match cSUB c with
  | 4 => s.hello p c accepted
  | 5 => s.judge p (s.identOk (s.identMsg p c) (s.fld (addrLnkState p) fldLnkState_PARTNER))
  | 6 => s.judge p accepted
  | 7 => s.judge p accepted
  | 8 =>
    if s.lstate p = 2 ∧ accepted then
      let s := s.modPort p fun t => { t with confRecv := true }
      if s.resec p && (s.port p).confSent then s.backUp p else s
    else s.judge p accepted
  | 9 =>
    if s.lstate p = 2 ∧ !s.resec p then
      let s := s.modPort p fun t => { t with grantRecv := some ((List.range 7).map fun tc => pWord c (32 + 4 * tc)) }
      if (s.port p).grantSent.isSome then s.goUp p else s
    else s
  | 12 =>
    if pByte c 32 = 1 then (s.modPort p fun t => { t with dr1Recv := true }).goDrain p
    else if pByte c 32 = 2 then s.modPort p fun t => { t with dr2Recv := true }
    else s
  | _ => s

/-- What a control cell delivered to firmware brings about for the link. -/
def State.dialogue (s : State) (p : Nat) (c : Cell) (accepted : Bool) : State :=
  let s := s.keepFragment p c
  if s.dialogueIdle p c then s else (s.takeDseq p c).dialogueStep p c accepted

/-! ### Snag (R347, R348) -/

/-- The LFSR x^32 + x^22 + x^2 + x + 1 stepped, shifting left (log 20). -/
def lfsrStep (v : Nat) : Nat :=
  let b := b2n (v.testBit 31) + b2n (v.testBit 21) + b2n (v.testBit 1) + b2n (v.testBit 0)
  (2 * v + b % 2) % 2 ^ 32

/-- An entry's class mask admits the event (R348). -/
def State.snagClass (s : State) (p i kind tc : Nat) : Bool :=
  kind = 1 || kind = 5 || (s.fld (addrSngEcfg p i) fldSngEcfg_CLS).testBit tc

/-- One entry evaluated on an event: its pattern pointer or the LFSR advances, and it selects or not (R347). -/
def State.snagEntry (s : State) (p i : Nat) : State × Bool :=
  let t := s.port p
  let full := s.rd (addrSngElim p i) ≠ 0 && (s.rd (addrSngElim p i)).toNat ≤ (s.rd (addrSngEcnt p i)).toNat
  if s.on (addrSngEcfg p i) fldSngEcfg_SEL then
    let v := lfsrStep t.snLfsr
    (s.modPort p fun t => { t with snLfsr := v }, v % 2 ^ 24 < s.fld (addrSngEprob p i) fldSngEprob_PROB && !full)
  else
    let j := nth 0 t.snPtr i % 64
    let pat := (s.rd (addrSngEpat p i 0)).toNat + (s.rd (addrSngEpat p i 1)).toNat * 2 ^ 32
    (s.modPort p fun t => { t with snPtr := modNth t.snPtr i (· + 1) }, pat.testBit j && !full)

/-- The entries evaluated on an event that is eligible for the given kinds: the kind and PARAM of the one that acts. -/
def State.snag (s : State) (p : Nat) (kinds : List Nat) (tc : Nat) : State × Option (Nat × Nat) :=
  if s.unitState addrSngCtl = 2 ∧ s.lstate p = 3 ∧ !(s.port p).squelch then
    (List.range 4).foldl (fun (acc : State × Option (Nat × Nat)) i =>
      let (s, got) := acc
      let a := addrSngEcfg p i
      let kind := s.fld a fldSngEcfg_KIND
      if s.on a fldSngEcfg_V && kinds.contains kind && s.snagClass p i kind tc then
        let (s, sel) := s.snagEntry p i
        if !sel then (s, got)
        else match got with
          | some _ => (s.bump (addrSngSkip p) fldSngSkip_COUNT, got)
          | none =>
            let s := (s.bump (addrSngEcnt p i) fldSngEcnt_COUNT).setFld addrSngSt fldSngSt_INJ 1
            let s := if s.rd (addrSngElim p i) ≠ 0 ∧ s.rd (addrSngEcnt p i) = s.rd (addrSngElim p i) then s.raise 0x0A01 else s
            (s, some (kind, s.fld a fldSngEcfg_PARAM))
      else acc) (s, none)
  else (s, none)

end Sys2Proof.Machine
end

