-- ==== Sys2Proof/Machine/Forward.lean ====
section
/-! DEFINITION. Forwarding (R227 to R237), the reorder unit (R240 to R246), the source's messages and their acknowledgement
(R171, R173, R247, R248), landing (R178) and the arrival slips (R172). -/

namespace Sys2Proof.Machine

/-! ### Route lookup (R229 to R235) -/

/-- The candidate that step `k` of entry `d` names. -/
def State.stepPort (s : State) (d k : Nat) : Nat :=
  let c := if k < 10 then (s.rd (addrRtePatlo d)).toNat / 2 ^ (3 * k) % 8
           else (s.rd (addrRtePathi d)).toNat / 2 ^ (3 * (k - 10)) % 8
  if c < 4 then (s.rd (addrRteCandlo d)).toNat / 2 ^ (8 * c) % 256
  else (s.rd (addrRteCandhi d)).toNat / 2 ^ (8 * (c - 4)) % 256

/-- A cell for `d` may leave on port `q` (R229); `ingress` is none for an originated cell. -/
def State.permits (s : State) (q d : Nat) (ingress : Option Nat) : Bool :=
  let partner := s.isPartner q d
  match ingress.map s.role, s.role q with
  | none, 2 => partner
  | none, _ => true
  | some 0, 1 => true
  | some 0, 2 => partner
  | some 1, 0 => partner
  | some 1, 2 => partner
  | some _, _ => false

/-- The port is UP or RETRAIN. -/
def State.usable (s : State) (q : Nat) : Bool := q < 144 && (s.lstate q = 3 || s.lstate q = 4)

/-- The steps of a lookup from step pointer `st` on (R233). -/
def State.lookupFrom (s : State) (d plen st : Nat) (ingress : Option Nat) : List Nat → State × Option Nat
  | [] => (s, none)
  | i :: r =>
    let k := (st + i) % (plen + 1)
    let q := s.stepPort d k
    if !s.usable q then s.lookupFrom d plen st ingress r
    else if s.permits q d ingress then (s.setFld (addrRteStep d) fldRteStep_STEP ((k + 1) % (plen + 1)), some q)
    else ((s.rteCount 4).rteFlag fldRteStatus_PHASE).lookupFrom d plen st ingress r

/-- A lookup for another device (R233). -/
def State.lookup (s : State) (d : Nat) (ingress : Option Nat) : State × Option Nat :=
  if s.on (addrRtePathi d) fldRtePathi_V then
    let plen := s.fld (addrRtePathi d) fldRtePathi_PLEN
    s.lookupFrom d plen (s.fld (addrRteStep d) fldRteStep_STEP) ingress (List.range (plen + 1))
  else (s, none)

/-! ### The reorder unit (R240 to R246) -/

/-- A source state. -/
def State.src (s : State) (d : Nat) : SrcState := tget (fun _ => {}) s.srcs d
/-- The address of a structure of the reorder unit (R240); none while RTE_RBASE names no creel address. -/
def State.rteAt (s : State) (off : Nat) : Option Nat :=
  let b := s.fld addrRteRbase fldRteRbase_BASE * 65536
  if inCreel b then some (b + off) else none
def srcOff (d : Nat) : Nat := 32 * d
def ctxOff (c : Nat) : Nat := 0x20000 + 32 * c
def recOff (r : Nat) : Nat := 0xA0000 + 32 * r
/-- A structure of 32 bytes written where R240 puts it, in a layout that the spec leaves open (log 105). -/
def State.rteArea (s : State) (off : Nat) : State :=
  match s.rteAt off with
  | some a => s.memOpen a 32
  | none => s
/-- A structure read: its errors noted, and whether it can be used (R159; log 103). -/
def State.rteRead (s : State) (off : Nat) : State × Bool :=
  match s.rteAt off with
  | some a => (s.touchFree a 32, s.sound a 32)
  | none => (s, true)

/-- A source state replaced. -/
def State.setSrc (s : State) (d : Nat) (x : SrcState) : State := { s with srcs := tset s.srcs d x }.rteArea (srcOff d)
/-- A context, none when it is free. -/
def State.ctx (s : State) (c : Nat) : Option RCtx := (s.ctxs.find? fun x => x.1 = c).map (·.2)
/-- A context replaced. -/
def State.setCtx (s : State) (c : Nat) (x : RCtx) : State := { s with ctxs := tset s.ctxs c x }.rteArea (ctxOff c)
/-- The reorder quota's counter set (R240). -/
def State.rq (s : State) : Nat := quotaSet (s.fld addrRteRq fldRteRq_QUOTA)

/-- NEXT advanced past every closed MSGID. -/
def advNext : Nat → SrcState → SrcState
  | 0, x => x
  | fuel + 1, x =>
    if x.done.contains x.next then advNext fuel { x with next := x.next + 1, done := x.done.filter (· ≠ x.next) } else x

/-- A MSGID closed with a status for the acknowledgement (R242). -/
def State.closeMsg (s : State) (src xmsg status : Nat) : State :=
  let x := s.src src
  let x := { x with done := x.done ++ [xmsg], report := x.report ++ [(xmsg, status)] }
  s.setSrc src (advNext x.done.length x)

/-- A context and its units freed. -/
def State.freeCtx (s : State) (c : Nat) (x : RCtx) : State :=
  let n := x.cells.length
  { (s.move s.rq .held .flight n).move s.rq .flight .free n with ctxs := terase s.ctxs c }.rteArea (ctxOff c)

/-- What becomes of a terminating cell (R241): discarded, kept, or waiting in its receive buffer. -/
inductive Arrival where
  | taken | waits
  deriving DecidableEq, Repr

/-- A cell appended to a context: its payload is written to a reorder unit by the port that feeds the context, and the timer restarts;
with no unit free it waits (R239). -/
def State.appendCell (s : State) (c : Nat) (x : RCtx) (cell : Cell) (bad : Bool) : State × Arrival :=
  match if s.canMove s.rq .free 1 then s.findUnit 2 else none with
  | some u =>
    (((s.move s.rq .free .held 1).bufPut x.port u cell.pay bad).setCtx c
      { x with cells := x.cells ++ [cell], units := x.units ++ [u], last := cLast cell, why := 1, expired := false }, .taken)
  | none => (s.rteFlag fldRteStatus_RQFULL, .waits)

/-- The message epoch check and the contexts (R241), for a data cell of this device that came through port `p`. -/
def State.reorder (s : State) (p : Nat) (cell : Cell) (bad : Bool) : State × Arrival :=
  let src := cSRC cell
  match s.rteRead (srcOff src) with
  | (s, false) => (s, .waits)
  | (s, true) =>
    let x := s.src src
    let d := (cMSGID cell + 2 ^ 16 - x.next % 2 ^ 16) % 2 ^ 16
    let xm := x.next + d
    let orphan := fun (s : State) => ((s.rteCount 6).rteFlag fldRteStatus_ORPH, Arrival.taken)
    if 2 ^ 15 ≤ d ∨ x.done.contains xm then (s.rteCount 4, .taken)
    else if 128 ≤ d then ((s.rteCount 5).rteFlag fldRteStatus_WINERR, .taken)
    else match s.ctxs.find? (fun y => y.2.src = src && y.2.xmsg = xm) with
      | some (c, y) =>
        match s.rteRead (ctxOff c) with
        | (s, false) => (s, .waits)
        | (s, true) =>
          if cOFF cell = y.cells.length % 4096 ∧ !y.last ∧ !cFirst cell then s.appendCell c y cell bad else orphan s
      | none =>
        if cFirst cell ∨ cCT cell = 4 then
          match firstBelow 16384 (fun c => (s.ctx c).isNone) with
          | some c =>
            s.appendCell c { src := src, xmsg := xm, port := p, cells := [], units := [], last := false, why := 1, expired := false } cell bad
          | none => (s.rteFlag fldRteStatus_CTXFULL, .waits)
        else orphan s

/-- A cell whose DST is this device; `bad` says that its data is marked bad. -/
def State.terminate (s : State) (p : Nat) (cell : Cell) (bad : Bool) : State × Arrival :=
  if cCT cell = 6 then ({ s with sknIn := s.sknIn ++ [(p, cell)] }, .taken)
  else if cIsAck cell then ({ s with ackIn := s.ackIn ++ [cell] }, .taken)
  else s.reorder p cell bad

/-! ### Transit (R235 to R237) -/

/-- The open transit path of a message at ingress port `p`: its egress port, or none within once that has gone DOWN. -/
def State.pathOf (s : State) (p : Nat) (cell : Cell) : Option (Option Nat) :=
  ((s.port p).paths.find? fun x => x.1 = cSRC cell && x.2.1 = cMSGID cell).map (·.2.2)

/-- The path of a cell's message closed. -/
def State.closePath (s : State) (p : Nat) (cell : Cell) : State :=
  s.modPort p fun t => { t with paths := t.paths.filter fun x => !(x.1 = cSRC cell && x.2.1 = cMSGID cell) }

/-- A lookup for a transit cell (R233, R235): with no usable step the cell is discarded. -/
def State.transitLookup (s : State) (p : Nat) (cell : Cell) : State × Option Nat :=
  match s.lookup (cDST cell) (some p) with
  | (s, some q) => (s, some q)
  | (s, none) => ((s.rteCount 2).rteFlag fldRteStatus_NOROUTE, none)

/-- The egress port of a transit cell (R236): by its path, or by a lookup, which opens a path for a CT 0 cell in place of one still open
for its SRC and MSGID. The outer none says that the cell waits for a path entry, the inner one that it is discarded. -/
def State.transitPort (s : State) (p : Nat) (cell : Cell) : State × Option (Option Nat) :=
  let ct := cCT cell
  let open_ := s.pathOf p cell
  if ct = 0 then
    let s := s.closePath p cell
    if 64 ≤ (s.port p).paths.length then (s.rteFlag fldRteStatus_TPTFULL, none)
    else match s.transitLookup p cell with
      | (s, some q) => (s.modPort p fun t => { t with paths := t.paths ++ [(cSRC cell, cMSGID cell, some q)] }, some (some q))
      | (s, none) => (s, some none)
  else match open_ with
    | some way =>
      if ct = 1 ∨ ct = 2 ∨ ct = 4 then
        let s := if ct = 1 then s else s.closePath p cell
        match way with
        | some q => (s, some (some q))
        | none => (s.rteCount 12, some none)
      else let (s, q) := s.transitLookup p cell; (s, some q)
    | none =>
      if ct = 1 ∨ ct = 2 then ((s.rteCount 6).rteFlag fldRteStatus_ORPH, some none)
      else let (s, q) := s.transitLookup p cell; (s, some q)

/-- A cell written into transit holding: its payload into a unit of USE 3, counted in the quota of its ingress port (R28, R237). -/
def State.hold (s : State) (p q a : Nat) (cell : Cell) : State :=
  (((s.move (s.thq p) .free .held 1).bufPut p a cell.pay false).rteCount 1).modPort q fun t =>
    { t with q := t.q ++ [{ cell := cell, ingress := some p, held := some a }] }

/-- A transit cell placed at its egress port: with credit, or into holding, or it waits in its receive buffer (R237). -/
def State.place (s : State) (p q : Nat) (cell : Cell) : State × Arrival :=
  if s.takesCredit q cell then ((s.rteCount 0).enqueue q { cell := cell, ingress := some p }, .taken)
  else match if s.canMove (s.thq p) .free 1 then s.findUnit 3 else none with
    | some a => (s.hold p q a cell, .taken)
    | none => (s, .waits)

/-- An accepted cell at ingress port `p`, with the egress port that an earlier try chose: its receive buffer is freed
unless it waits (R214, R227); what waits is given back. -/
def State.tryForward (s : State) (p : Nat) (cell : Cell) (chosen : Option Nat) : State × Option (Cell × Option Nat) :=
  let gone := fun (s : State) => (s.relCredit p (cTC cell), (none : Option (Cell × Option Nat)))
  if !s.idSet then gone (s.rteCount 3)
  else if cDST cell = s.devId then
    match s.terminate p cell false with
    | (s, .taken) => gone s
    | (s, .waits) => (s, some (cell, none))
  else
    let (s, dest) := match chosen with
      | some q => (s, some (some q))
      | none => s.transitPort p cell
    match dest with
    | none => (s, some (cell, none))
    | some none => gone s
    | some (some q) =>
      match s.place p q cell with
      | (s, .taken) => gone s
      | (s, .waits) => (s, some (cell, some q))


/-- Two cells belong to one message. -/
def sameMsg (a b : Cell) : Bool := cSRC a = cSRC b && cMSGID a = cMSGID b

/-- A waiting cell tried again, unless a cell of its message still waits before it. -/
def State.retryCell (s : State) (p : Nat) (x : Cell × Option Nat) : State :=
  let wait := fun (s : State) (x : Cell × Option Nat) => s.modPort p fun t => { t with rxWait := t.rxWait ++ [x] }
  if (s.port p).rxWait.any fun y => sameMsg y.1 x.1 then wait s x
  else match s.tryForward p x.1 x.2 with
    | (s, some y) => wait s y
    | (s, none) => s

/-- An accepted cell passed on: it waits behind a waiting cell of its message. -/
def State.forward (s : State) (p : Nat) (cell : Cell) : State := s.retryCell p (cell, none)

/-- The first held cell of an ingress port in a queue that can take a credit now. -/
def State.assignHeld (s : State) (p q : Nat) : State :=
  let rec go (pre : List QCell) : List QCell → State
    | [] => s
    | c :: r =>
      if c.held.isSome && c.ingress = some p && s.assignable q c.cell && !pre.any (fun x => !x.assigned && s.sameFifo q x.cell c.cell) then
        let (s, c) := s.assign q c
        s.modPort q fun t => { t with q := pre ++ c :: r }
      else go (pre ++ [c]) r
  go [] (s.port q).q

/-- TRANSIT_RELEASE (R237, R241): the cells that wait at an ingress port are tried again in order, and its held cells take the
credits that have come. -/
def execTransitRelease (p : PortNo) (s : State) : Out :=
  let s := (List.range 144).foldl (fun s q => s.assignHeld p q) s
  .next ((s.port p).rxWait.foldl (fun s x => s.retryCell p x) (s.modPort p fun t => { t with rxWait := [] }))

/-! ### Receiving a cell (R209, R212) -/

/-- A verified sequenced cell (R212): true when it is accepted. -/
def State.sequence (s : State) (p : Nat) (c : Cell) : State × Bool :=
  let (s, _) := s.takeLack p (cLACK c)
  let d := seqDiff (cLSEQ c) (s.eseq p)
  let tc := cTC c
  let t := s.port p
  if d = 0 then
    if nth 0 t.rxHeld tc < nth 0 t.granted tc then
      let s := (s.setFld (addrLnkEseq p) fldLnkEseq_LSEQ (s.eseq p + 1)).lnk p fldLnkState_GAP 0
      (s.modPort p fun t => { t with rxHeld := modNth t.rxHeld tc (· + 1) }, true)
    else ((s.lnkFlag p fldLnkStatus_CRDERR).loss p 4, false)
  else if d < 2 ^ 19 then (s.loss p 3, false)
  else (s, false)

/-- A cell is a first cell at this port (R233), a CT 4 cell by the open paths and contexts. -/
def State.isFirst (s : State) (p : Nat) (c : Cell) : Bool :=
  cFirst c || (cCT c = 4 && (s.pathOf p c).isNone &&
    !s.ctxs.any fun y => y.2.src = cSRC c && y.2.xmsg % 65536 = cMSGID c)

/-- A cell of a held message added to it. -/
def SnagMsg.take (m : SnagMsg) (c : Cell) : SnagMsg :=
  if m.src = cSRC c && m.msgid = cMSGID c then { m with cells := m.cells ++ [c], complete := cLast c } else m

/-- The cells by source that an accepted cell adds to a tally (R328): a message's cell counts for its source; an
acknowledgement counts the cells of this device's messages that it reports. -/
def State.tallyOf (s : State) (c : Cell) : List (Nat × Nat) :=
  if cIsAck c then
    (List.range 128).filterMap fun i =>
      let n := pByte c (i / 2) / 16 ^ (i % 2) % 16
      if 1 ≤ n ∧ n ≤ 6 then
        (s.sends.find? fun r => r.dst = cSRC c && r.msgid = (cMSGID c + i) % 65536).map fun r => (s.devId, r.flight)
      else none
  else if cCT c = 6 then [] else [(cSRC c, 1)]

/-- The counts of an accepted cell join a snapshot that still waits for the port's MARKER. -/
def SkCtx.countCell (t : SkCtx) (p : Nat) (l : List (Nat × Nat)) : SkCtx :=
  if t.op = 2 ∧ !t.marks.contains p then { t with tally := t.tally ++ l } else t

/-- The channel state of a snapshot in progress (R326): cells accepted on a port whose MARKER has not come. -/
def State.tallyAccepted (s : State) (p : Nat) (c : Cell) : State :=
  s.eachSkn fun t => t.countCell p (s.tallyOf c)

/-- An accepted cell handed to the forwarding path, or held by Snag (R348, R349). -/
def State.accepted (s : State) (p : Nat) (c : Cell) : State :=
  let s := s.tallyAccepted p c
  let t := s.port p
  let hold := fun (s : State) => s.modPort p fun t => { t with snHold := t.snHold.map (·.take c) }
  let slow := fun (s : State) => s.modPort p fun t => { t with snDelay := t.snDelay ++ [c] }
  if t.snHold.any (fun m => m.src = cSRC c && m.msgid = cMSGID c && !m.complete) then hold s
  else
    let first := s.isFirst p c
    let kinds := (if first && t.snHold.length < 4 then [3] else []) ++ [4]
    match s.snag p kinds (cTC c) with
    | (s, some (3, _)) =>
      let m : SnagMsg := { src := cSRC c, msgid := cMSGID c, cells := [c], complete := cLast c }
      s.modPort p fun t => { t with snHold := t.snHold ++ [m] }
    | (s, some _) => slow (s.modPort p fun t => { t with snDelays := true })
    | (s, none) => if (s.port p).snDelays then slow s else s.forward p c

/-- The egress port that a copy of a transit cell takes before its tag is known (R28): a first cell's by a lookup, a later one's by its
path. The copy opens and closes no path, since the good copy follows (DEDUCED, log 66). -/
def State.cutThrough (s : State) (p : Nat) (c : Cell) : State × Option Nat :=
  if s.isFirst p c then s.lookup (cDST c) (some p)
  else (s, ((s.pathOf p c).getD none).filter s.usable)

/-- A copy of a transit cell whose ingress tag failed after it had begun to leave: queued at its egress to be poisoned
(R28, R210). Only a cell that finds credit begins to leave. -/
def State.poisonCopy (s : State) (p : Nat) (c : Cell) : State :=
  if !s.idSet ∨ cDST c = s.devId then s
  else match s.cutThrough p c with
    | (s', some q) => if s'.takesCredit q c then s'.enqueue q { cell := c, ingress := some p, bad := true } else s
    | (_, none) => s

/-- The cell that an arrival command takes at a port: the next one that the lane brought, when the command is for its kind, with the
verdict on its tag; or where the lane has brought none, the command's own (log 10). A tag failure in the first cell of a slot discards
the whole slot (R209). -/
def State.arrive (s : State) (p : Nat) (suits : Cell → Bool) (cell : Cell) (tag : TagCheck) : State × Option (Cell × TagCheck) :=
  match (s.port p).rxq with
  | [] => (s, some (cell, tag))
  | r :: rest =>
    if !suits (cellOf r.bytes) then (s, none)
    else
      let (c, v) := s.linkCheck p (s.fld (addrLnkState p) fldLnkState_EPRX) r
      let lost : Bool := match v with | .bad _ => decide (r.pos = 0) | _ => false
      (s.modPort p fun t => { t with rxq := if lost then rest.dropWhile fun x => x.slot = r.slot else rest }, some (c, v))

/-- A cell for the sequence rules: no control cell. -/
def cData (c : Cell) : Bool := cCT c ≠ 5 && cCT c ≠ 7

/-- A received sequenced cell (R209, R212): the tag's verdict, Snag's injections on a decoded cell, and the sequence rules. -/
def State.cellIn (s : State) (p : Nat) (cell : Cell) (tag : TagCheck) : State :=
  let good := tag = .current || tag = .pending
  let (s, inj) := if s.carries p then s.snag p (2 :: (if good then [0] else [])) (cTC cell) else (s, none)
  let tag' := if inj.map (·.1) = some 2 then TagCheck.bad false else tag
  let s := match tag' with
    | .bad true => if s.carries p then s.poisonCopy p cell else s
    | _ => s
  match s.tagCheck p cell tag' with
  | (s, false) => s
  | (s, true) =>
    if inj.map (·.1) = some 0 then s.loss p 2
    else if !s.carries p then s
    else match s.sequence p cell with
      | (s, true) => s.accepted p cell
      | (s, false) => s

/-- CELL_RECEIVED (R209, R212). -/
def execCellReceived (p : PortNo) (cell : Cell) (tag : TagCheck) (s : State) : Out :=
  if (s.port p).squelch then .next s
  else match s.arrive p cData cell tag with
    | (s, some (c, v)) => .next (s.cellIn p c v)
    | (s, none) => .next s

/-- SNAG_REORDER_RELEASE (R348): the first complete message held at a port is passed on in order, or else the first
delayed cell. -/
def execSnagReorderRelease (p : PortNo) (s : State) : Out :=
  let t := s.port p
  match t.snHold.find? (·.complete), t.snDelay with
  | some m, _ =>
    .next (m.cells.foldl (fun s c => s.forward p c) (s.modPort p fun t => { t with snHold := t.snHold.filter (· ≠ m) }))
  | none, c :: r => .next ((s.modPort p fun t => { t with snDelay := r }).forward p c)
  | none, [] => .next s

/-- SQUELCH_END (R348). -/
def execSquelchEnd (p : PortNo) (s : State) : Out := .next (s.modPort p fun t => { t with squelch := false })

/-! ### Landing (R178, R242) -/

/-- A window's base address, in block or host space, and its size in bytes. -/
def State.winBase (s : State) (w : Nat) : Nat :=
  s.fld (addrBobLwlo w) fldBobLwlo_BASE * 256 +
    (if s.on (addrBobLwhi w) fldBobLwhi_LOC then s.fld (addrBobLwhi w) fldBobLwhi_BASEH * 2 ^ 32 else 0)
def State.winUnits (s : State) (w : Nat) : Nat := s.fld (addrBobLwsz w) fldBobLwsz_SIZE

/-- Runs of good bytes with their addresses. -/
def goodRuns : Nat → List (Byte × Bool) → List (Nat × List Byte)
  | _, [] => []
  | a, (b, bad) :: r =>
    match bad, goodRuns (a + 1) r with
    | true, l => l
    | false, (x, d) :: l => if x = a + 1 then (a, b :: d) :: l else (a, [b]) :: (x, d) :: l
    | false, [] => [(a, [b])]

/-- Bytes marked bad where their flags say so. -/
def State.markBad (s : State) (a : Nat) (fl : List Bool) : State :=
  ((List.range fl.length).zip fl).foldl (fun s x => if x.2 then s.memBad (a + x.1) 1 else s) s

/-- Payload bytes written at an offset of a window, by the home engine in the owner's world at user level (R151): bad bytes stay marked
bad in creel, and are not written to the host (R159; log 107). False when the regions or the map refuse them (R142, R177). -/
def State.winWrite (s : State) (m k w off : Nat) (d : List Byte) (fl : List Bool) : State × Bool :=
  let a := s.winBase w + off
  let z := s.bobZ k
  if d.isEmpty then (s, true)
  else if s.on (addrBobLwhi w) fldBobLwhi_LOC then ((goodRuns a (d.zip fl)).foldl (fun s x => s.hostWrite m z .none 0 x.1 x.2) s, true)
  else if inCreel a && inCreel (a + d.length - 1) && s.grantedAll m z false .write a d.length then
    (((s.memWrite m a d).1).markBad a fl, true)
  else (s, false)

/-- What landing a message comes to. -/
inductive Land where
  | done (s : State) (off : Nat)
  | discard (detail : Nat)
  | waits
  deriving DecidableEq, Repr

/-- A record of a landed message. -/
def State.noteLanding (s : State) (w k units : Nat) (ring : Bool) : State :=
  let lw := tget (fun _ => {}) s.lwins w
  let n := s.winUnits w
  let r : Landing := { bob := k, units := units, ring := ring, released := false }
  let lw' := { lw with free := if ring then (lw.free + units) % max n 1 else lw.free, recs := lw.recs ++ [r] }
  { s with lwins := tset s.lwins w lw' }

/-- The payload of a message landed for RX bobbin `k` (R178); `fl` says which of its bytes are bad. -/
def State.land (s : State) (k : Nat) (m : Message) (fl : List Bool) : Land :=
  let w := s.bdf k 1 bdLWIN
  let q := quotaSet (s.fld (addrBobLwq w) fldBobLwq_QUOTA)
  let mst := 64 + s.bdf k 1 bdHOME
  let len := m.len + 1
  let u := (len + 255) / 256
  let n := s.winUnits w
  if m.put then
    if m.roff + len > 256 * n then .discard 2
    else if !s.canMove q .free u then .waits
    else match (s.move q .free .held u).winWrite mst k w m.roff m.body fl with
      | (s, true) => .done (s.noteLanding w k u false) m.roff
      | (_, false) => .discard 2
  else
    let lw := tget (fun _ => {}) s.lwins w
    let used := (lw.recs.filter (·.ring)).foldl (fun a r => a + r.units) 0
    if n < used + u ∨ !s.canMove q .free u then .waits
    else
      let off := 256 * lw.free
      let k1 := min len (256 * n - off)
      match (s.move q .free .held u).winWrite mst k w off (m.body.take k1) (fl.take k1) with
      | (_, false) => .discard 2
      | (s, true) =>
        match s.winWrite mst k w 0 (m.body.drop k1) (fl.drop k1) with
        | (s, true) => .done (s.noteLanding w k u true) off
        | (_, false) => .discard 2

/-- The KIND 6 slip (R172). -/
def State.arrivalSlip (s : State) (c : Cell) (m : Message) (off : Nat) : List Nat :=
  let (t0, t1) := s.tbWords
  [6 * 2 ^ 28 + cTC c * 2 ^ 25 + b2n (cE c) * 2 ^ 24 + b2n m.put * 2 ^ 23 + m.len, cSRC c * 2 ^ 16 + cMSGID c, off,
   if cE c then cKS c else 0, 0, 0, t0, t1]

/-- A key slot is valid and granted to a world (R397). -/
def State.slotOk (s : State) (k : Nat) (z : Bool) : Bool :=
  s.on (addrSecKslot0 k) fldSecKslot0_V && s.on (addrSecKslot0 k) fldSecKslot0_WORLD == z

/-- The plaintext of a complete message, none when its end-to-end tag fails (R27, R397, R399). -/
def State.openMessage (s : State) (x : RCtx) (c : Cell) (m : Message) : Option Message :=
  if cE c then
    if s.slotOk (cKS c) (s.bobZ (cDBOB c)) then
      (openData (s.slotKey (cKS c)) (sealHead (cSRC c) (cDST c) x.xmsg (cDBOB c) (cKS c) (cTC c) m.head) m.body m.tag).map
        fun d => { m with body := d }
    else none
  else some m

/-- The cells of a context read back from their units, each with whether its data is bad (R159). -/
def State.readUnits (s : State) (p : Nat) : List (Cell × Nat) → State × List (Cell × Bool)
  | [] => (s, [])
  | (c, u) :: r =>
    match s.bufGet p u c.pay.length with
    | (s, some d) => let (s, l) := s.readUnits p r; (s, ({ c with pay := d }, false) :: l)
    | (s, none) => let (s, l) := s.readUnits p r; (s, (c, true) :: l)

/-- The message can be told from its cells: with E = 1 all of them count for the tag, else a trailer must be good (log 107). -/
def readableCells (l : List (Cell × Bool)) : Bool :=
  match l.getLast? with
  | some (c, bad) => if cE c then l.all (!·.2) else !bad || 0x800 ≤ cKS c
  | none => false

/-- The flags of a message's bytes. -/
def byteFlags (n : Nat) (l : List (Cell × Bool)) : List Bool := (List.range n).map fun i => nth false (l.map (·.2)) (i / 256)

/-- A slip to the completion bobbin of RX bobbin `k` by its home engine; the contents of a descriptor whose V is 0 have no effect
(R166). -/
def State.rxSlip (s : State) (k : Nat) (ws : List Nat) : State :=
  if s.bobServes k then s.putSlip (64 + s.bdf k 1 bdHOME) (s.bdf k 1 bdCPLB) ws else s

/-- A message closed without landing: KIND 3 with a DETAIL, and a status for the source (R178, R242, R245). -/
def State.failMsg (s : State) (c : Nat) (x : RCtx) (k msgid detail status : Nat) : State :=
  ((s.rxSlip k (s.errSlip detail k x.src msgid)).freeCtx c x).closeMsg x.src x.xmsg status

/-- A complete message checked, landed, slipped and closed, or made to wait for landing space (R242). -/
def State.finish (s : State) (c : Nat) (x : RCtx) : State :=
  match x.cells with
  | [] => s
  | cell :: _ =>
    let k := cDBOB cell
    let msgid := cMSGID cell
    let s := if s.bobHeld k then s.bobTouch (64 + s.bdf k 1 bdHOME) k else s
    if !s.bobServes k ∨ !s.bobOn k ∨ s.bobType k ≠ tyRX then s.failMsg c x k msgid 3 4
    else
      let (s, l) := s.readUnits x.port (x.cells.zip x.units)
      match if readableCells l then s.openMessage x cell (readMessage (l.map (·.1))) else none with
      | none => s.failMsg c x k msgid 1 2
      | some m =>
        match s.land k m (byteFlags (m.len + 1) l) with
        | .waits => s.setCtx c { x with why := 2, expired := x.expired && x.why = 2 }
        | .discard d => s.failMsg c x k msgid d 3
        | .done s off =>
          let s := s.putSlip (64 + s.bdf k 1 bdHOME) k (s.arrivalSlip cell m off)
          ((s.freeCtx c x).closeMsg x.src x.xmsg 1).rteCount 7

/-- The class of a context's message lands in MSGID order (R242). -/
def State.ordered (s : State) (x : RCtx) : Bool :=
  match x.cells with
  | cell :: _ => (s.fld addrRteCfg fldRteCfg_ORD).testBit (cTC cell)
  | [] => false

/-- MESSAGE_COMPLETE (R242): a message whose last cell has arrived; an ordered one waits for lower MSGIDs. -/
def execMessageComplete (c : Fin 16384) (s : State) : Out :=
  match s.ctx c with
  | some x =>
    if x.last ∧ x.why = 1 then
      if s.ordered x && x.xmsg ≠ (s.src x.src).next then .next (s.setCtx c { x with why := 3, expired := false })
      else .next (s.finish c x)
    else .next s
  | none => .next s

/-- LANDING_SPACE_FREE (R178): a message that waits for landing space is tried again. -/
def execLandingSpaceFree (c : Fin 16384) (s : State) : Out :=
  match s.ctx c with
  | some x => if x.why = 2 then .next (s.finish c x) else .next s
  | none => .next s

/-- ORDERED_LANDING (R242): an ordered message whose lower MSGIDs are all closed. -/
def execOrderedLanding (c : Fin 16384) (s : State) : Out :=
  match s.ctx c with
  | some x => if x.why = 3 ∧ x.xmsg = (s.src x.src).next then .next (s.finish c x) else .next s
  | none => .next s

/-- STALL_TIMER_EXPIRE (R243): a KIND 7 slip to the stall bobbin, whose EN holds expiries back. -/
def execStallTimerExpire (c : Fin 16384) (s : State) : Out :=
  match s.ctx c with
  | some x =>
    let a := addrRteStallbob (x.port / 4)
    if x.expired || !s.on a fldRteStallbob_EN then .next s
    else
      let dbob := match x.cells with | cell :: _ => cDBOB cell | [] => 0
      let s := s.putSlip (64 + x.port) (s.fld a fldRteStallbob_BOB)
        (evtSlip [c.val, x.src * 2 ^ 16 + x.xmsg % 65536, dbob, x.cells.length, x.why] 0 0)
      .next (s.setCtx c { x with expired := true })
  | none => .next s

/-- RTE_CTXCMD (R243): an OP on a context that waits after expiry. -/
def State.ctxCmd (s : State) (op c : Nat) : State :=
  match s.ctx c with
  | some x =>
    if !x.expired then s
    else match op with
      | 1 => s.setCtx c { x with expired := false }
      | 2 => (s.freeCtx c x).closeMsg x.src x.xmsg 6
      | 3 => ((s.freeCtx c x).closeMsg x.src x.xmsg 5).rteCount 8
      | _ => s
  | none => s

/-! ### Acknowledgement (R245 to R247) -/

/-- The status nibbles of an acknowledgement cell for a list of reports (R245). -/
def ackNibbles (base : Nat) (l : List (Nat × Nat)) : List Byte :=
  bytesLE 64 (l.foldl (fun v r => v + r.2 * 2 ^ (4 * (r.1 - base))) 0)

/-- ACK_SEND (R246): one acknowledgement cell for a source with closed MSGIDs to report. -/
def execAckSend (src : Fin 4096) (s : State) : Out :=
  let x := s.src src
  match x.report with
  | [] => .next s
  | r :: l =>
    let base := l.foldl (fun b y => min b y.1) r.1
    let now := x.report.filter fun y => y.1 < base + 128
    let cell : Cell :=
      { hdr := mkHdr [(124, 4), (121, s.fld addrRteCfg fldRteCfg_ACKTC), (108, src.val), (96, s.devId),
                      (64, base % 65536), (12, 0x400)],
        pay := ackNibbles base now }
    let sent := fun (s : State) => (s.setSrc src { x with report := x.report.filter fun y => base + 128 ≤ y.1 }).rteCount 9
    if src.val = s.devId then .next (sent { s with ackIn := s.ackIn ++ [cell] })
    else match s.lookup src none with
      | (s, some q) => .next (sent (s.enqueue q { cell := cell }))
      | (s, none) => .next (s.rteFlag fldRteStatus_NOROUTE)

/-- One reported MSGID at the source (R247); a bobbin that is no longer ON or STOPPING sends nothing again. -/
def State.report (s : State) (peer msgid n : Nat) : State :=
  match s.sends.find? fun r => r.dst = peer && r.msgid = msgid with
  | none => s.setFld addrLgrStatus fldLgrStatus_LATEACK 1
  | some r =>
    let s := { s with sends := s.sends.filter fun y => !(y.dst = peer && y.msgid = msgid) }
    let s := s.move r.pool .flight .free r.flight
    let dlv := slDLV r.words
    match n with
    | 1 => if dlv then s.txSlip r.bob 2 0 r.idx r.words peer msgid else s
    | 2 => s.txSlip r.bob 2 1 r.idx r.words peer msgid
    | 3 => s.txSlip r.bob 2 2 r.idx r.words peer msgid
    | 4 => s.txSlip r.bob 2 3 r.idx r.words peer msgid
    | 6 =>
      if dlv && s.bobValid r.bob && 2 ≤ s.unitState (addrBobBctl r.bob) then
        (s.setTx r.bob (s.txOf r.bob ++ [{ idx := r.idx, words := r.words, inl := r.inl, ents := 0, cells := r.cells,
                                           left := r.cells, stage := .held, resend := true }])).rteCount 11
      else s.txSlip r.bob 4 0 r.idx r.words peer msgid
    | _ => s.txSlip r.bob 4 0 r.idx r.words peer msgid

/-- ACK_RECEIVED (R247): the oldest acknowledgement cell, nibble by nibble. -/
def execAckReceived (s : State) : Out :=
  match s.ackIn with
  | [] => .next s
  | c :: r =>
    let s := { s with ackIn := r }.rteCount 10
    .next ((List.range 128).foldl (fun s i =>
      let n := pByte c (i / 2) / 16 ^ (i % 2) % 16
      if 1 ≤ n ∧ n ≤ 6 then s.report (cSRC c) ((cMSGID c + i) % 65536) n else s) s)

/-! ### Starting messages (R171, R173, R248) -/

/-- A source in block space that the home engine may read (R141, R152, R419): wholly in creel, in the laps, or in enabled host windows,
and granted to the owner's world at user level. -/
def State.srcOk (s : State) (k : Nat) (w : List Nat) : Bool :=
  let a := slSRC w
  let b := a + slLEN w
  (if 0x80000000 ≤ a then b < 2 ^ 32 && (s.winAddr a).isSome && (s.winAddr b).isSome
   else (inCreel a && inCreel b) || (inLap a && inLap b)) &&
  s.grantedAll (64 + s.bdf k 1 bdHOME) (s.bobZ k) false .read a (slLEN w + 1)

/-- The check of a TX slip (R173): the DETAIL of a fault, the lowest where several checks fail (DESIGN CHOICE, log 101). A NOP reads no
source. -/
def State.slipFault (s : State) (k : Nat) (w : List Nat) : Option Nat :=
  let w0 := nth 0 w 0
  let w5 := nth 0 w 5
  if 2 < slOP w ∨ w0.testBit 20 ∨ slTC w = 7 ∨ 2 ^ 28 ≤ nth 0 w 1 ∨ 4096 ≤ nth 0 w 2 ∨ (!slE w ∧ slKSLOT w ≠ 0) ∨
     (slOP w = 1 ∧ slROFF w ≠ 0) ∨ 2 ^ 21 ≤ w5 ∨ (!slSLOC w ∧ w5 % 2 ^ 20 ≠ 0) then some 1
  else if slINL w ∧ 63 < slLEN w then some 2
  else if slOP w ≠ 0 ∧ !slINL w ∧ !slSLOC w ∧ !s.srcOk k w then some 3
  else if slE w ∧ !s.slotOk (slKSLOT w) (s.bobZ k) then some 4
  else if Config.systemDevices ≤ slDST w then some 5
  else none

/-- The ring words of entry `i` of a TX ring as its home engine reads them: from creel in the owner's world at user level,
or the bytes that the host returned. -/
def State.ringRead (s : State) (k i : Nat) (host : Option (List Byte)) (part : Nat) : State × Option (List Byte) :=
  let m := 64 + s.bdf k 1 bdHOME
  let a := s.entryAddr k i
  if s.bdf k 0 bdLOC = 1 then (s.askHost m (s.bobZ k) a 64, host.map fun d => padTo 64 0 (d.drop (64 * part)))
  else if s.grantedAll m (s.bobZ k) false .read a 64 then s.memRead m a 64
  else (s, none)

/-- The little-endian words of a slip's bytes. -/
def slipWords (d : List Byte) : List Nat := (List.range 16).map fun i => leBytes ((d.drop (4 * i)).take 4)

/-- The PROD count of the next slip to fetch. -/
def State.txNextIdx (s : State) (k : Nat) : Nat :=
  (s.cons k + ((s.txOf k).filter (fun m => !m.resend)).foldl (fun a m => a + m.ents) 0) % 2 ^ 32

/-- Entries not yet fetched. -/
def State.txAvail (s : State) (k : Nat) : Nat := (s.prod k + 2 ^ 32 - s.txNextIdx k) % 2 ^ 32

/-- A fetched slip put at the end of its bobbin's list, and the finished ones completed. -/
def State.txPush (s : State) (k : Nat) (m : TxMsg) : State :=
  let l := s.txOf k ++ [m]
  s.txFlush k l

/-- A slip fault: KIND 5 whatever CQ holds, SFCNT counted, no credits (R173). -/
def State.txFault (s : State) (k detail idx ents : Nat) (w : List Nat) : State :=
  let w6 := s.bd k 6
  let s := s.setBd k 6 (natField w6 ⟨15, 0⟩ + 2 ^ 16 * min (w6 / 2 ^ 16 + 1) 65535)
  s.txPush k { idx := idx, words := w, inl := [], ents := ents, cells := 0, left := 0, stage := .fault detail }

/-- The stage of a fetched slip that passed its checks: a NOP completes without sending (R171). -/
def fetchedStage (nop : Bool) : TxStage := if nop then .sent else .held

/-- A slip taken into its engine, in order of the ring: it takes its pool credits, or the bobbin waits (R184). -/
def State.takeSlip (s : State) (k i ents : Nat) (w : List Nat) (host : Option (List Byte)) : State :=
  let stopping := s.unitState (addrBobBctl k) = 3
  let c := slCells w
  if stopping then
    s.txPush k { idx := i, words := w, inl := [], ents := min ents (s.txAvail k), cells := 0, left := 0, stage := .cancelled }
  else match s.slipFault k w with
    | some f => if s.txAvail k < ents then s else s.txFault k f i ents w
    | none =>
      if s.txAvail k < ents ∨ !s.canMove (s.poolOf k) .free c then s
      else match (if slINL w then s.ringRead k ((i + 1) % 2 ^ 32) host 1 else (s, some [])) with
        | (s, none) => s.txFault k 3 i ents w
        | (s, some inl) =>
          (s.move (s.poolOf k) .free .held c).txPush k
            { idx := i, words := w, inl := inl, ents := ents, cells := c, left := c, stage := fetchedStage (slOP w = 0) }

/-- TX_SLIP_FETCH (R169, R173, R184): the home engine of an ON TX bobbin fetches and checks its next slip; while STOPPING it
fetches the unconsumed slips to cancel them. -/
def execTxSlipFetch (k : Fin 65536) (host : Option (List (BitVec 8))) (s : State) : Out :=
  let st := s.unitState (addrBobBctl k)
  let s := if s.bobHeld k then s.bobTouch (64 + s.bdf k 1 bdHOME) k else s
  if !s.bobServes k ∨ st < 2 ∨ s.bobType k ≠ tyTX ∨ s.txAvail k = 0 then .next s
  else
    let i := s.txNextIdx k
    match s.ringRead k i host 0 with
    | (s, none) => .next (s.txFault k 3 i 1 [])
    | (s, some d) => let w := slipWords d; .next (s.takeSlip k i (if slINL w then 2 else 1) w host)

/-- A run of `n` bytes of block space in host windows as host addresses (R419): window by window. -/
def State.hostSpans (s : State) (a n : Nat) : List (Nat × Nat) :=
  let k := min n (2 ^ 27 - a % 2 ^ 27)
  [(a, k), (a + k, n - k)].filterMap fun x => if x.2 = 0 then none else (s.winAddr x.1).map fun h => (h, x.2)

/-- What a host read brought: its bytes, all of them bad where it failed (R417). -/
def hostBytes (n : Nat) (host : Option (List Byte)) : List Byte × List Bool :=
  match host with
  | some d => (padTo n 0 d, List.replicate n false)
  | none => (List.replicate n 0, List.replicate n true)

/-- The payload of a message and which of its bytes are bad (R159, R210): inline, from memory as master P(HOME), or from the host, at
the address of the slip or through the windows. -/
def State.payload (s : State) (k : Nat) (m : TxMsg) (host : Option (List Byte)) : State × List Byte × List Bool :=
  let n := slLEN m.words + 1
  let a := slSRC m.words
  let mst := 64 + s.bdf k 1 bdHOME
  let ask := fun (l : List (Nat × Nat)) => l.foldl (fun s x => s.askHost mst (s.bobZ k) x.1 x.2) s
  if slINL m.words then (s, padTo n 0 m.inl, List.replicate n false)
  else if slSLOC m.words then (ask [(a, n)], hostBytes n host)
  else if 0x80000000 ≤ a then
    let l := s.hostSpans a n
    (ask l, hostBytes n (if (l.map (·.2)).foldl (· + ·) 0 = n then host else none))
  else s.memFlags mst a n

/-- Cell `i` of `n` holds bad data (R210): of its own bytes, or, in the cell with the end-to-end tag, of any. -/
def cellBad (e : Bool) (fl : List Bool) (n i : Nat) : Bool :=
  ((fl.drop (256 * i)).take 256).any id || (e && i + 1 = n && fl.any id)

/-- Messages without a report to a destination (R248). -/
def State.unreported (s : State) (d : Nat) : Nat := (s.sends.filter fun r => r.dst = d).length

/-- The first slip of a bobbin that has not started. -/
def State.txReady (s : State) (k : Nat) : Option TxMsg := (s.txOf k).find? fun m => m.stage = .held

/-- The slip marked as started. -/
def startMsg (m : TxMsg) (l : List TxMsg) : List TxMsg := l.map fun x => if x = m then { x with stage := .running } else x

/-- The creel units of a use that are free. -/
def State.unitsFree (s : State) (use : Nat) : Nat :=
  (List.range 32).foldl (fun n k =>
    let at_ := addrMemCpattr k
    let base := s.fld (addrMemCpbase k) fldMemCpbase_BASE * 65536
    let lo := if base = s.fld addrRteRbase fldRteRbase_BASE * 65536 then base + 0x300000 else base
    let hi := (s.fld (addrMemCplim k) fldMemCplim_LIMIT + 1) * 65536
    if s.on at_ fldMemCpattr_V && s.fld at_ fldMemCpattr_USE = use then
      n + ((hi - lo) / 256 - (s.unitsUsed.filter fun u => lo ≤ u && u < hi).length)
    else n) 0

/-- The lowest free send record (which one is a DESIGN CHOICE, log 105). -/
def State.freeRec (s : State) : Nat := (firstBelow 65536 fun i => !s.sends.any fun r => r.slot = i).getD 0

/-- A message begins on egress port `q`, or in this device's own reorder unit: its record, its MSGID, its cells, those with bad data
marked (R210). -/
def State.launch (s : State) (k : Nat) (m : TxMsg) (q : Option Nat) (host : Option (List Byte)) : State :=
  let dst := slDST m.words
  let s := if m.resend then s.move (s.poolOf k) .free .held m.cells else s
  let (s, d, fl) := s.payload k m host
  let x := tget (fun _ => 0) s.msgids dst
  let r : SendRec := { slot := s.freeRec, bob := k, idx := m.idx, words := m.words, inl := m.inl, cells := m.cells, flight := 0,
                       dst := dst, msgid := x % 65536, pool := s.poolOf k }
  let s := { s with msgids := tset s.msgids dst ((x + 1) % 2 ^ 48), sends := s.sends ++ [r] }.rteArea (recOff r.slot)
  let s := s.setTx k (startMsg m (s.txOf k))
  let cells := s.messageCells m.words s.devId x d
  let n := cells.length
  ((List.range n).zip cells).foldl (fun s y =>
    let bad := cellBad (slE m.words) fl n y.1
    match q with
    | some q => s.enqueue q { cell := y.2, bob := some k, idx := m.idx, bad := bad }
    | none => ((s.terminate (s.bdf k 1 bdHOME) y.2 bad).1).cellSent k m.idx) s

/-- This device's own reorder unit can take a message of `n` cells now. -/
def State.ownRoom (s : State) (n : Nat) : Bool :=
  s.canMove s.rq .free n && n ≤ s.unitsFree 2 && (s.rteRead (srcOff s.devId)).2 && (firstBelow 16384 fun c => (s.ctx c).isNone).isSome

/-- The start of a bobbin's next message (R233, R235, R248): credits for a resend, a record, the window of 128, and a
usable step. A STOPPING bobbin has only messages to send again left (R169). -/
def State.txStart (s : State) (k : Nat) (host : Option (List Byte)) : State :=
  if !s.bobServes k ∨ s.unitState (addrBobBctl k) < 2 ∨ s.bobType k ≠ tyTX ∨ s.fld addrPwrStatus fldPwrStatus_STATE = 2 ∨
      s.skns.any (fun x => x.2.op = 3) then s
  else match s.txReady k with
    | none => s
    | some m =>
      let dst := slDST m.words
      if m.resend && !s.canMove (s.poolOf k) .free m.cells then s
      else if 65536 ≤ s.sends.length ∨ 128 ≤ s.unreported dst ∨ !s.idSet then s
      else if dst = s.devId then
        if s.ownRoom m.cells then s.launch k m none host else s.rteFlag fldRteStatus_RQFULL
      else match s.lookup dst none with
        | (s, some q) => s.launch k m (some q) host
        | (s, none) => s.rteFlag fldRteStatus_NOROUTE

/-- TX_MESSAGE_START (R248). -/
def execTxMessageStart (k : Fin 65536) (host : Option (List (BitVec 8))) (s : State) : Out := .next (s.txStart k host)

/-- NOROUTE_RETRY (R235): the message that found no usable step looks up again. -/
def execNorouteRetry (k : Fin 65536) (host : Option (List (BitVec 8))) (s : State) : Out := .next (s.txStart k host)

end Sys2Proof.Machine
end

