-- ==== Sys2Proof/Machine/Receive.lean ====
section
/-! DEFINITION. The receive side of a lane: codewords, locks and slots (R191 to R195), superframe stamps (R309), the
tensioner's error counts and triggers (R334, R338), control cells, NAK, credit blocks and SYNC (R203 to R208, R212 to R223). -/

namespace Sys2Proof.Machine

/-! ### Superframe stamps (R309) -/

/-- A stamp in the format of R103, truncated to 0.5 ns. -/
def stampWord (tb : Nat) : Nat := tb / 2 ^ 40 % 2 ^ 48 * 2 ^ 16 + tb / 2 ^ 39 % 2 * 2 ^ 15

/-- The start of a superframe stamped: `rx` for the receive direction, with the epoch and the slot count of its slot 0. -/
def State.stamp (s : State) (p : Nat) (rx : Bool) (epoch scnt : Nat) : State :=
  if s.lstate p = 3 ∨ s.lstate p = 4 then
    let t := s.port p
    let i := if rx then 8 + t.rxStampN % 8 else t.txStampN % 8
    let k := s.free
    let (s, now) := s.instant
    let d : Int := (Config.crossing k : Nat)
    let at_ := wrapTo 104 ((now : Int) + (if rx then -d else d))
    let v := stampWord at_
    let s := ((s.wr (addrSknTsh p i 0) (wordOf (epoch * 2 ^ 30 + scnt / 215 % 2 ^ 30))).wr (addrSknTsh p i 1) 0)
    let s := (s.wr (addrSknTsh p i 2) (wordOf v)).wr (addrSknTsh p i 3) (wordOf (v / 2 ^ 32))
    s.modPort p fun t => if rx then { t with rxStampN := t.rxStampN + 1 }
      else { t with txStampN := t.txStampN + 1, txStampHi := at_ / 2 ^ 88 % 2 ^ 16 }
  else s

/-! ### The tensioner's view of a codeword (R334, R338) -/

/-- The number of 1 bits in which two lists of symbols differ. -/
def diffBits (a b : List Nat) : Nat := (a.zip b).foldl (fun n x => n + popCount 10 (x.1 ^^^ x.2)) 0
/-- The number of symbols in which they differ. -/
def diffSyms (a b : List Nat) : Nat := ((a.zip b).filter fun x => x.1 ≠ x.2).length

/-- A codeword counted in probation: corrected bits, corrected symbols, or an uncorrectable one that no injection made. -/
def State.tnsCodeword (s : State) (p bits syms : Nat) (unc : Bool) : State :=
  let s := s.bump (addrTnsEbits p) fldTnsEbits_COUNT bits
  let s := s.modPort p fun t => { t with reelBits := t.reelBits + bits }
  if s.on (addrTnsSt p) fldTnsSt_PROB then
    let t := s.port p
    let n := t.probBits + bits
    let symt := s.fld (addrTnsCtl p) fldTnsCtl_SYMT
    let hit := s.fld (addrTnsCtl p) fldTnsCtl_REVT ≤ n || (symt ≤ 7 && symt ≤ syms) || unc
    s.modPort p fun t => { t with probBits := n, probLeft := t.probLeft - 1, trigger := t.trigger || hit }
  else s

/-! ### Codewords and slots (R192 to R195) -/

/-- The complete slots at the head of a run of message bits, those without a lost bit, and what is left. `fuel` bounds the
number. -/
def takeSlots : Nat → Nat → List (Option Bool) → List (Nat × List Byte) × List (Option Bool) × Nat
  | 0, n, l => ([], l, n)
  | fuel + 1, n, l =>
    if l.length < 2304 then ([], l, n)
    else
      let (r, rest, n') := takeSlots fuel ((n + 1) % 215) (l.drop 2304)
      let b := l.take 2304
      if b.all (·.isSome) then ((n, bitsBytes 288 (b.map (·.getD false))) :: r, rest, n') else (r, rest, n')

/-- Message bits added to the slot in progress; the receive slot count follows the slots (R207), and the cells of complete slots wait
for their check (R195). -/
def State.rxBits (s : State) (p : Nat) (l : List (Option Bool)) : State :=
  let t := s.port p
  let (done, rest, n) := takeSlots 3 t.slotNo (t.part ++ l)
  let k := (n + 215 - t.slotNo) % 215
  let c := s.fld (addrLnkScntrx p) fldLnkScntrx_SCNT
  let cells := done.flatMap fun x =>
    slotCells x.1 ((c + 1 + (x.1 + 215 - t.slotNo) % 215) % 2 ^ 32) (if x.1 = t.slotNo then t.part.length else 0) x.2
  let s := if t.cntOk then s.setFld (addrLnkScntrx p) fldLnkScntrx_SCNT (c + k) else s
  s.modPort p fun t => { t with part := rest, slotNo := n, rxq := t.rxq ++ cells }

/-- The start of a superframe under lock: cells of the first superframe after the lock end here (R191), and keys of an
epoch no longer in use are erased (R207). -/
def State.superframe (s : State) (p : Nat) : State :=
  let rx := s.fld (addrLnkState p) fldLnkState_EPRX
  let tx := s.fld (addrLnkState p) fldLnkState_EPTX
  let t := s.port p
  let s := s.modPort p fun t =>
    { t with fresh := false, missed := 0,
             keys := t.keys.filter fun x => x.1 = rx || x.1 = tx || some x.1 = t.rxPend || some x.1 = t.txPend }
  if t.cntOk then s.stamp p true rx (s.fld (addrLnkScntrx p) fldLnkScntrx_SCNT + 1) else s

/-- A codeword that decodes as a superframe start, or not, moves the locks on (R194); true when superframe lock holds
after it and its bits belong to the slots. -/
def State.lockStep (s : State) (p : Nat) (start : Bool) : State :=
  let s := s.lnk p fldLnkState_CWLOCK 1
  let t := s.port p
  if s.lnkOn p fldLnkState_SFLOCK then
    if t.cwIdx = 0 then
      if start then s.superframe p
      else if 1 ≤ t.missed then s.loseLocks p
      else s.modPort p fun t => { t with missed := t.missed + 1 }
    else s
  else if start then
    if t.sinceSf = some 192 then
      (s.lnk p fldLnkState_SFLOCK 1).modPort p fun t =>
        { t with fresh := true, cwIdx := 0, missed := 0, part := [], slotNo := 0, rxq := [], sinceSf := none }
    else s.modPort p fun t => { t with sinceSf := some 0 }
  else s

/-- A codeword has passed: its number in the superframe, and the distance from the last start. -/
def State.cwPassed (s : State) (p : Nat) : State :=
  s.modPort p fun t => { t with cwIdx := (t.cwIdx + 1) % 192, sinceSf := t.sinceSf.map (· + 1) }

/-- The positions that a CORRUPT_PRE injection inverts: distinct values of the LFSR modulo 272 (log 20). -/
def corruptAt : Nat → Nat → Nat → List Nat → Nat × List Nat
  | 0, v, _, l => (v, l)
  | fuel + 1, v, n, l =>
    if n = 0 then (v, l)
    else
      let v := lfsrStep v
      if l.contains (v % 272) then corruptAt fuel v n l else corruptAt fuel v (n - 1) (v % 272 :: l)

/-- The symbols with some inverted. -/
def invertAt (r l : List Nat) : List Nat :=
  ((List.range r.length).zip r).map fun x => if l.contains x.1 then x.2 ^^^ 0x3FF else x.2

/-- A codeword of a lane decoded, plain or with its parity inverted (R193): the symbols, the number corrected, and whether
it starts a superframe. -/
def decodeEither (r : List Nat) : Option (List Nat × Nat × Bool) :=
  match rsDecode r with
  | some (c, n) => some (c, n, false)
  | none => (rsDecode (invertParity r)).map fun x => (x.1, x.2, true)

/-- A received codeword after injection: `raw` is what the lane brought, `r` what the decoder sees. -/
def State.codeword (s : State) (p : Nat) (raw r : List Nat) : State :=
  let t := s.port p
  match decodeEither r with
  | some (c, n, start) =>
    let s := ((s.lnkCount p 0).lnkCount p 1 n).modPort p fun t => { t with uncRun := 0 }
    let ref := if start then invertParity raw else raw
    let s := s.tnsCodeword p (diffBits ref c) (diffSyms ref c) false
    let (d, bits) := descramble t.descr (messageBits c)
    let s := (s.modPort p fun t => { t with descr := d }).lockStep p start
    let s := if s.lnkOn p fldLnkState_SFLOCK then s.rxBits p (bits.map some) else s
    s.cwPassed p
  | none =>
    let s := (s.lnkCount p 2).lnkFlag p fldLnkStatus_UNC
    let s := s.tnsCodeword p 0 0 ((decodeEither raw).isNone)
    let s := s.modPort p fun t => { t with uncRun := t.uncRun + 1, descr := (descramble t.descr (messageBits r)).1, sinceSf := none }
    let late := s.lnkOn p fldLnkState_SFLOCK && t.cwIdx = 0
    if 2 ≤ (s.port p).uncRun ∨ (late ∧ 1 ≤ t.missed) then (s.loss p 1).loseLocks p
    else
      let s := if late then s.modPort p fun t => { t with missed := t.missed + 1 } else s
      let s := if s.lnkOn p fldLnkState_SFLOCK then s.rxBits p (List.replicate 2580 none) else s
      (s.loss p 1).cwPassed p

/-- CODEWORD_RECEIVED (R192 to R195): Snag's LINKDOWN at a superframe start and CORRUPT_PRE (R348), then decoding. -/
def execCodewordReceived (p : PortNo) (syms : List (BitVec 10)) (s : State) : Out :=
  let raw := padTo 272 0 (syms.map (·.toNat))
  let t := s.port p
  if t.squelch then .next s
  else
    let (s, down) := if s.lnkOn p fldLnkState_SFLOCK && t.cwIdx = 0 then s.snag p [5] 0 else (s, none)
    if down.isSome then .next ((s.modPort p fun t => { t with squelch := true }).loseLocks p)
    else match s.snag p [1] 0 with
      | (s, some (_, param)) =>
        let (v, l) := corruptAt 4096 (s.port p).snLfsr (param % 16) []
        .next ((s.modPort p fun t => { t with snLfsr := v }).codeword p raw (invertAt raw l))
      | (s, none) => .next (s.codeword p raw raw)

/-- LOSS_OF_SIGNAL (R459): the locks clear. -/
def execLossOfSignal (p : PortNo) (s : State) : Out := .next (s.loseLocks p)

/-- LANE_STOPS_DEAD (R194): the locks clear. -/
def execLaneStopsDead (p : PortNo) (s : State) : Out := .next (s.loseLocks p)

/-! ### Control cells (R201 to R223) -/

/-- What every verified control cell brings: its LACK and, but for a SYNC, its credit block (R203, R212, R215). -/
def State.ctlCommon (s : State) (p : Nat) (c : Cell) : State :=
  if !s.beenUp p then s
  else
    let s := (s.takeLack p (cLACK c)).1
    if cCT c = 5 ∧ cSUB c = 3 then s else s.takeCredits p c

/-- A HELLO that a port in UP or RETRAIN would join under epoch 0 (R221) and that is not well formed. -/
def State.spoiltHello (s : State) (p : Nat) (c : Cell) (tag : TagCheck) : Bool :=
  tag = .zero && (s.lstate p = 3 || s.lstate p = 4) && cCT c = 5 && cSUB c = 4 && !ctlWellFormed c

/-- A control cell checked: verified, and well formed for its type; one with a reserved subtype or field is discarded and counted, and
causes nothing else (R204). -/
def State.ctlCheck (s : State) (p : Nat) (c : Cell) (tag : TagCheck) : State × Bool :=
  if (s.port p).squelch then (s, false)
  else if s.spoiltHello p c tag then (s.lnkCount p 8, false)
  else match s.tagCheck p c tag with
    | (s, false) => (s, false)
    | (s, true) => if cCT c = 7 ∨ ctlWellFormed c then (s, true) else (s.lnkCount p 8, false)

/-- A control cell taken by an arrival command and checked: none when there is nothing to go on with. -/
def State.ctlIn (s : State) (p : Nat) (suits : Cell → Bool) (cell : Cell) (tag : TagCheck) : State × Option (Cell × TagCheck) :=
  match s.arrive p suits cell tag with
  | (s, none) => (s, none)
  | (s, some (c, v)) =>
    match s.ctlCheck p c v with
    | (s, true) => (s, some (c, v))
    | (s, false) => (s, none)

/-- A CT 5 cell of a subtype; one that no command of its own takes. -/
def cSub (n : Nat) (c : Cell) : Bool := cCT c = 5 && cSUB c = n
def cOtherSub (c : Cell) : Bool := cCT c = 5 && !(cSUB c = 1 || cSUB c = 2 || cSUB c = 3 || cSUB c = 0x20)

/-- CONTROL_CELL_RECEIVED (R204): a verified CT 5 cell for firmware. `accepted` is the outcome of firmware's identity,
signature and MAC checks on the dialogue message that the cell completes (R218, R219). -/
def execControlCellReceived (p : PortNo) (cell : Cell) (tag : TagCheck) (accepted : Bool) (s : State) : Out :=
  match s.ctlIn p cOtherSub cell tag with
  | (s, none) => .next s
  | (s, some (c, _)) =>
    let s := s.ctlCommon p c
    if cCT c = 5 ∧ fwSub (cSUB c) ∧ s.lstate p ≠ 0 then
      match s.deliverCtl p c with
      | (s, true) => .next (s.dialogue p c accepted)
      | (s, false) => .next s
    else .next s

/-- A NAK acted on (R213): first a LACK of its ESEQ, then a go-back from it, unless one from it began less than RTO ago. -/
def State.nakIn (s : State) (p : Nat) (c : Cell) : State :=
  let n := pWord c 32 % 2 ^ 20
  match s.takeLack p n with
  | (s, false) => s
  | (s, true) =>
    let rto := 250 * s.fld (addrLnkCfg p) fldLnkCfg_RTO
    match (s.port p).gbAt with
    | some (m, t) => if m = n ∧ s.tb64 < t + rto then s else s.goBack p n
    | none => s.goBack p n

/-- NAK_RECEIVED (R213). -/
def execNakReceived (p : PortNo) (cell : Cell) (tag : TagCheck) (s : State) : Out :=
  match s.ctlIn p (cSub 2) cell tag with
  | (s, none) => .next s
  | (s, some (c, _)) =>
    let s := (s.ctlCommon p c).lnkCount p 7
    .next (if cSub 2 c ∧ 3 ≤ s.lstate p then s.nakIn p c else s)

/-- CREDIT_BLOCK (R215): the block of a verified control or credit-return cell. -/
def execCreditBlock (p : PortNo) (cell : Cell) (tag : TagCheck) (s : State) : Out :=
  match s.ctlIn p (fun c => cCT c = 7 || cSub 1 c) cell tag with
  | (s, none) => .next s
  | (s, some (c, _)) => .next (s.ctlCommon p c)

/-- A SYNC sets the receiver's count (R207): its count agrees with the slot number, and exceeds the highest accepted. -/
def State.syncCount (s : State) (p scnt : Nat) : State :=
  let t := s.port p
  let fresh := match t.hiScnt with
    | some h => h < scnt
    | none => true
  if !t.cntOk && scnt % 215 = (t.slotNo + 214) % 215 && fresh then
    ((s.setFld (addrLnkScntrx p) fldLnkScntrx_SCNT scnt).modPort p fun t => { t with cntOk := true, hiScnt := some scnt }).regained p
  else s

/-- A verified SYNC acted on: the count is set, a request is answered, and a port in TRAIN enters SECURE (R207, R217). `named` is the
epoch under which it verified. -/
def State.syncIn (s : State) (p named : Nat) (c : Cell) : State :=
  let s := s.ctlCommon p c
  let s := if pByte c 36 = named then s.syncCount p (pWord c 32) else s
  let s := if pByte c 37 = 1 then s.modPort p fun t => { t with ctlq := syncReply :: t.ctlq } else s
  if s.lstate p = 1 ∧ s.lnkOn p fldLnkState_SFLOCK then s.setLstate p 2 else s

/-- SYNC_RECEIVED (R207, R217). -/
def execSyncReceived (p : PortNo) (cell : Cell) (tag : TagCheck) (s : State) : Out :=
  let pend := (s.port p).rxPend.getD 0
  let now := s.fld (addrLnkState p) fldLnkState_EPRX
  match s.arrive p (cSub 3) cell tag with
  | (s, none) => .next s
  | (s, some (c, v)) =>
    if !cSub 3 c then .next s
    else match s.ctlCheck p c v with
      | (s, false) => .next s
      | (s, true) => .next (s.syncIn p (if v = .pending then pend else now) c)

/-- SYNC_REQUEST (R207): a receiver that has lost its slot count asks for it. -/
def execSyncRequest (p : PortNo) (s : State) : Out :=
  if s.lnkOn p fldLnkState_SFLOCK ∧ !(s.port p).cntOk ∧ s.lstate p ≠ 0 then
    .next (s.queueCtl p { sub := 3, body := bytesLE 1 1 })
  else .next s

/-- CREDIT_RETURN_SEND (R216): a CT 7 cell when a released count has advanced by 8, or at all for 32 slots. -/
def execCreditReturnSend (p : PortNo) (s : State) : Out :=
  let t := s.port p
  let adv := (List.range 7).map fun tc => (nth 0 t.ccnt tc + 2 ^ 24 - s.fld (addrLnkCrtx p tc) fldLnkCrtx_CCNT) % 2 ^ 24
  if 3 ≤ s.lstate p ∧ (adv.any (8 ≤ ·) ∨ (32 ≤ t.sinceBlk ∧ adv.any (1 ≤ ·))) ∧ !t.ctlq.any (fun c => c.sub = 256) then
    .next (s.queueCtl p { sub := 256, body := [] })
  else .next s

/-- REPLAY_TIMEOUT (R213): a go-back to TXACK; after RMAX expiries without progress, RETRAIN; a drain goes on (R223). -/
def execReplayTimeout (p : PortNo) (s : State) : Out :=
  if s.txAck p ≠ s.txNext p ∧ s.carries p then
    let n := (s.port p).expiries + 1
    if s.fld (addrLnkCfg p) fldLnkCfg_RMAX ≤ n then
      let s := (s.modPort p fun t => { t with expiries := 0 }).lnkFlag p fldLnkStatus_RMAXX
      .next (if s.lstate p = 5 then s.goBack p (s.txAck p) else s.goRetrain p)
    else .next ((s.modPort p fun t => { t with expiries := n }).goBack p (s.txAck p))
  else .next s

/-- NAK_REPEAT (R212). -/
def execNakRepeat (p : PortNo) (s : State) : Out :=
  if s.lnkOn p fldLnkState_GAP ∧ s.carries p then .next (s.queueNak p 5) else .next s

/-- KEY_EXHAUST (R208): sequenced cells stop, with event e = 3. -/
def execKeyExhaust (p : PortNo) (s : State) : Out :=
  if 0xFFF00000 ≤ (s.rd (addrLnkScnttx p)).toNat ∧ !s.lnkOn p fldLnkState_KEYEXH then
    .next ((s.lnk p fldLnkState_KEYEXH 1).raise (4 * p + 3))
  else .next s

/-- KEY_ERASE_RETRAIN (R208). -/
def execKeyEraseRetrain (p : PortNo) (s : State) : Out :=
  if 0xFFFF0000 ≤ (s.rd (addrLnkScnttx p)).toNat ∧ s.lstate p ≠ 0 then .next (s.eraseRetrain p) else .next s

/-- RETRAIN_TIMEOUT (R221 to R223): DOWNT has passed in RETRAIN, in the re-secure that followed it, or in a drain. -/
def execRetrainTimeout (p : PortNo) (s : State) : Out :=
  let l := s.lstate p
  if l = 4 ∨ l = 5 ∨ (l = 2 ∧ s.resec p) then .next (s.goDown p) else .next s

/-- DRAIN_DONE (R223): DRAIN 2 sent and received. -/
def execDrainDone (p : PortNo) (s : State) : Out :=
  let t := s.port p
  if t.dr2Sent ∧ t.dr2Recv ∧ s.lstate p = 5 then .next (s.goDown p) else .next s

end Sys2Proof.Machine
end

