-- ==== Sys2Proof/Machine/Egress.lean ====
section
/-! DEFINITION. The transmit side of a lane: what each slot carries (R216, R249, R250), framing and replay (R210, R211),
the egress sequence (R251), the reel and its boundary (R252 to R256). -/

namespace Sys2Proof.Machine

/-! ### Putting cells on the lane -/

/-- The count of the slot being decided: SCNT has passed it. -/
def State.slotScnt (s : State) (p : Nat) : Nat := (s.fld (addrLnkScnttx p) fldLnkScnttx_SCNT + 2 ^ 32 - 1) % 2 ^ 32

/-- A cell put into the current slot, with its bytes as sent (R206, R211): encrypted afresh under the slot's count. -/
def State.emit (s : State) (p pos : Nat) (c : Cell) (poison : Bool) : State :=
  let scnt := s.slotScnt p
  let epoch := s.fld (addrLnkState p) fldLnkState_EPTX
  let o : OutCell := { pos := pos, scnt := scnt, epoch := epoch, cell := c, poison := poison,
                       wire := s.wireBytes p epoch pos scnt c poison }
  s.modPort p fun t => { t with out := t.out ++ [o] }

/-! ### The replay buffer (R145, R211) -/

/-- The 96-byte units of a port's replay buffer in creel, used as a ring (DESIGN CHOICE, log 104). -/
def rplUnit (p i : Nat) : Nat := 0x10200000 + p * 0x10000 + 96 * (i % 682)

/-- The unit after the newest entry. -/
def Port.rplNext (t : Port) : Nat :=
  match t.replay.getLast? with
  | some r => (r.at_ + r.units) % 682
  | none => 0

/-- A cell's bytes written from unit `i` on. -/
def State.rplPut (s : State) (p i : Nat) (c : Cell) : State :=
  let d := cellBytes c
  (List.range (cUnits c)).foldl (fun s j => s.bufPut p (rplUnit p (i + j)) ((d.drop (96 * j)).take 96) false) s

/-- The bytes of an entry read back: those of `n` units, and whether all are good. -/
def State.rplGet (s : State) (p i : Nat) : Nat → State × List Byte × Bool
  | 0 => (s, [], true)
  | n + 1 =>
    let (s, d, ok) := s.rplGet p i n
    match s.bufGet p (rplUnit p (i + n)) 96 with
    | (s, some e) => (s, d ++ e, ok)
    | (s, none) => (s, d ++ List.replicate 96 0, false)

/-- A replay entry as a cell, and whether it is bad (R159). -/
def State.rplCell (s : State) (p : Nat) (r : Replay) : State × Cell × Bool :=
  let (s, d, ok) := s.rplGet p r.at_ r.units
  (s, cellOf (d.take (if r.units = 1 then 80 else 272)), !ok)

/-- A telemetry count of the reel in progress. -/
def State.tele (s : State) (p i : Nat) (f : Nat → Nat) : State :=
  s.modPort p fun t => { t with telem := modNth t.telem i fun v => min (f v) (2 ^ 32 - 1) }

/-- A sequenced cell kept for replay: its header without LACK, and its payload, in creel. -/
def State.keep (s : State) (p n : Nat) (c : Cell) : State :=
  let i := (s.port p).rplNext
  ((s.rplPut p i (withSeq c n 0)).modPort p fun t =>
    { t with replay := t.replay ++ [{ lseq := n, at_ := i, units := cUnits c }] }).showReplay p

/-- A sequenced cell framed (R210, R211, R184): its LSEQ, its replay entry and the moves; a bad cell leaves poisoned, with
the LSEQ kept for the next cell and its credit undone. -/
def State.frame (s : State) (p pos : Nat) (c : QCell) : State :=
  let set := portSet p (cTC c.cell)
  let n := s.txNext p
  let s := (s.emit p pos (withSeq c.cell n (s.eseq p)) c.bad).tele p 0 (· + 1)
  let s := s.move set .held .flight 1
  let s := if c.bad then s.move set .flight .free 1
    else (s.setFld (addrLnkTxnext p) fldLnkTxnext_LSEQ (n + 1)).keep p n c.cell
  match c.bob, c.skn with
  | some k, _ => s.cellSent k c.idx
  | none, some x => s.sknFramed x c.cell
  | none, none => s

/-- CELL_FRAMED (R211): the oldest cell decided for the slot is framed. -/
def execCellFramed (p : PortNo) (s : State) : Out :=
  match (s.port p).framing with
  | [] => .next s
  | (pos, c) :: r => .next ((s.modPort p fun t => { t with framing := r }).frame p pos c)

/-- Cells decided for an earlier slot framed before the next slot is decided. -/
def State.frameAll (s : State) (p : Nat) : State :=
  let l := (s.port p).framing
  l.foldl (fun s x => s.frame p x.1 x.2) (s.modPort p fun t => { t with framing := [] })

/-- Only IDLE and SYNC may leave: TRAIN, and RETRAIN with RESEC (R217). -/
def State.idleOnly (s : State) (p : Nat) : Bool := s.lstate p = 1 || (s.lstate p = 4 && s.resec p)

/-- IDLE for a position. -/
def State.sendIdle (s : State) (p pos : Nat) : State :=
  (s.emit p pos (s.ctlToCell p (s.slotScnt p) { sub := 1, body := [] }) false).blockSent p

/-- Firmware's cell for a position (R226). -/
def State.sendFw (s : State) (p pos : Nat) (f : FwCell) : State :=
  let s := (s.modPort p fun t => { t with fw := none }).setFld (addrLnkCtxcmd p) fldLnkCtxcmd_BUSY 0
  ((s.emit p pos (s.fwToCell p f) false).blockSent p).fwSent p f

/-- One short control cell for a position (R216, R226): the first of the hardware's in line, else firmware's short cell where it may
stand, else IDLE. -/
def State.sendCtl (s : State) (p : Nat) (fwToo : Bool) (pos : Nat) : State :=
  let t := s.port p
  match t.ctlq.find? fun c => !s.idleOnly p || c.sub = 3 with
  | some c =>
    let cell := s.ctlToCell p (s.slotScnt p) c
    let s := (s.modPort p fun t => { t with ctlq := t.ctlq.erase c, ctlWait := 0 }).emit p pos cell false
    let s := if c.sub = 2 then s.lnkCount p 6 else s
    if c.sub = 3 then s else s.blockSent p
  | none =>
    match t.fw with
    | some f => if fwToo && !f.full && !s.idleOnly p then s.sendFw p pos f else s.sendIdle p pos
    | none => s.sendIdle p pos

/-- The positions of a slot from `pos` on filled with short control cells. -/
def State.fillShort (s : State) (p : Nat) (fwToo : Bool) (pos : Nat) : State :=
  (List.range (3 - pos)).foldl (fun s i => s.sendCtl p fwToo (pos + i)) s

/-- The positions of a slot from `pos` on filled with control cells; firmware's full cell takes a whole slot. -/
def State.fillCtl (s : State) (p pos : Nat) : State :=
  match (s.port p).fw with
  | some f =>
    if pos = 0 ∧ f.full ∧ !s.idleOnly p ∧ (s.port p).ctlq.isEmpty then s.sendFw p 0 f else s.fillShort p true pos
  | none => s.fillShort p true pos

/-! ### Choosing sequenced cells (R238, R249, R250) -/

/-- Replay units still free, with the cells already decided for this slot. -/
def State.replayRoom (s : State) (p : Nat) : Nat :=
  let t := s.port p
  682 - ((t.replay.map (·.units)) ++ (t.framing.map fun x => cUnits x.2.cell)).foldl (· + ·) 0

/-- New sequenced cells may start: UP, or RETRAIN with the keys kept; no drain and no key exhaustion (R208, R217, R223). -/
def State.mayStart (s : State) (p : Nat) : Bool :=
  (s.lstate p = 3 || (s.lstate p = 4 && !s.resec p)) && !s.draining p && !s.lnkOn p fldLnkState_KEYEXH

/-- Queued cell `i` is ready among the cells of a kind: the first of the kind in its FIFO, assigned or assignable, with room in replay. -/
def State.readyAt (s : State) (p : Nat) (kind : QCell → Bool) (i : Nat) (c : QCell) : Bool :=
  (c.assigned || s.assignable p c.cell) && cUnits c.cell ≤ s.replayRoom p &&
    !((s.port p).q.take i).any fun x => kind x && s.sameFifo p x.cell c.cell

/-- The oldest ready cell of a kind, with its place; `ok` is asked of it too. -/
def State.oldest (s : State) (p : Nat) (kind : QCell → Bool) (ok : QCell → Bool := fun _ => true) : Option (Nat × QCell) :=
  (((List.range (s.port p).q.length).zip (s.port p).q).find? fun x => kind x.2 && ok x.2 && s.readyAt p kind x.1 x.2)

/-- A cell of a class in general. -/
def inClass (tc : Nat) (c : QCell) : Bool := cTC c.cell = tc

/-- A queued cell taken for a position: assigned now if it was not. -/
def State.takeCell (s : State) (p pos i : Nat) (c : QCell) : State :=
  let (s, c) := s.assign p c
  s.modPort p fun t => { t with q := t.q.eraseIdx i, framing := t.framing ++ [(pos, c)] }

/-- The class for a donated slot or position: the first ready one after the class donated last; TC5 takes none. -/
def State.donateTo (s : State) (p : Nat) (short : Bool) : Option (Nat × QCell) :=
  let d := (s.port p).donated
  (List.range 7).findSome? fun i =>
    let tc := (d + 1 + i) % 7
    if tc = 5 then none else s.oldest p (inClass tc) fun c => !short || cShort c.cell

/-- Positions 1 and 2 after a short cell: cells of the reserved entry's kind, or of the class and then by donation; control
cells for what remains (R250). `own` is the condition of the slot, `donate` says whether donation follows. -/
def State.restOfSlot (s : State) (p : Nat) (own : QCell → Bool) (donate : Bool) : Nat → Nat → State
  | 0, _ => s
  | fuel + 1, pos =>
    match s.oldest p own fun c => cShort c.cell with
    | some (i, c) => (s.takeCell p pos i c).restOfSlot p own donate fuel (pos + 1)
    | none =>
      match (if donate then s.donateTo p true else none) with
      | some (i, c) =>
        ((s.takeCell p pos i c).modPort p fun t => { t with donated := cTC c.cell }).restOfSlot p own donate fuel (pos + 1)
      | none => s.fillCtl p pos

/-- A slot given to a cell; `own` chooses the short cells that follow a short one. -/
def State.slotOf (s : State) (p i : Nat) (c : QCell) (own : QCell → Bool) (donate : Bool) : State :=
  let s := s.takeCell p 0 i c
  if cShort c.cell then s.restOfSlot p own donate 2 1 else s

/-! ### Go-back (R213, R249) -/

/-- The next replayed cells of a slot, from `pos` on; one whose bytes are bad in creel leaves poisoned (R159, R210). -/
def State.replaySlot (s : State) (p : Nat) : Nat → Nat → State
  | 0, _ => s
  | fuel + 1, pos =>
    match (s.port p).resend with
    | none => s.fillCtl p pos
    | some n =>
      match (s.port p).replay.find? (fun r => r.lseq = n) with
      | none => (s.setResend p none).fillCtl p pos
      | some r =>
        if pos = 0 ∨ r.units = 1 then
          let (s, c, bad) := s.rplCell p r
          let s := (s.emit p pos (withSeq c n (s.eseq p)) bad).setResend p (some ((n + 1) % 2 ^ 20))
          if r.units = 1 then s.replaySlot p fuel (pos + 1) else s
        else s.fillCtl p pos

/-! ### The reel (R252 to R255) -/

/-- A reel table entry read ahead by the port as master P(p); none for one treated as free, with BADENT when it is
wrong (R252). The last entry is the guard slot. -/
def State.reelEntry (s : State) (p : Nat) : State × Option (Nat × Nat × Nat) :=
  let i := s.fld (addrReelPst p) fldReelPst_SLOT
  let a := s.fld (addrReelAbase p) fldReelAbase_BASE * 64 + 4 * i
  let bad := fun (s : State) => (s.setFld (addrReelPst p) fldReelPst_BADENT 1, (none : Option (Nat × Nat × Nat)))
  if !s.on (addrReelPctl p) fldReelPctl_RUSE || (s.port p).gapSlots then (s, none)
  else if !(inCreel a && s.grantedAll (64 + p) false true .read a 4) then bad s
  else match s.memRead (64 + p) a 4 with
    | (s, none) => bad s
    | (s, some d) =>
      let w := leBytes d
      let res := w.testBit 31
      let tc := natField w ⟨30, 28⟩
      let m := natField w ⟨27, 26⟩
      let bob := w % 65536
      if natField w ⟨25, 16⟩ ≠ 0 ∨ m = 3 ∨ (m = 0 ∧ bob ≠ 0) then bad s
      else if !res then (s, none)
      else if tc = 7 ∨ i = s.fld addrReelCfgst fldReelCfgst_ALEN then bad s
      else (s, some (tc, m, bob))

/-- A cell matches a reserved entry (R252). -/
def matches_ (tc m bob : Nat) (c : QCell) : Bool :=
  inClass tc c && (match m with
    | 0 => true
    | 1 => c.bob = some bob
    | _ => c.ingress.isSome && cDBOB c.cell = bob)

/-- The reel has stepped one slot on. -/
def State.reelStep (s : State) (p : Nat) : State :=
  let i := s.fld (addrReelPst p) fldReelPst_SLOT
  if i = s.fld addrReelCfgst fldReelCfgst_ALEN then s.modPort p fun t => { t with gapSlots := true }
  else s.setFld (addrReelPst p) fldReelPst_SLOT (i + 1)

/-! ### The egress sequence (R251) -/

/-- The egress sequence pointer advances; after entry 63 a pending shadow swaps in. -/
def State.eseqStep (s : State) (p : Nat) : State :=
  let n := (s.port p).esqPtr + 1
  let s := s.modPort p fun t => { t with esqPtr := n % 64 }
  if n = 64 ∧ s.on (addrReelPst p) fldReelPst_ESQPEND ∧ !s.on (addrReelPctl p) fldReelPctl_ESQHOLD then
    let s := (List.range 64).foldl (fun s e => s.wr (addrReelEseqa p e) (s.rd (addrReelEseq p e))) s
    s.setFld (addrReelPst p) fldReelPst_ESQPEND 0
  else s

/-- The content of a free slot (R249): the class that the sequence names, or by donation, or control cells. -/
def State.freeSlot (s : State) (p : Nat) : State :=
  let a := addrReelEseqa p (s.port p).esqPtr
  let tc := s.fld a fldReelEseqa_TC
  let named := if s.on a fldReelEseqa_USE then s.oldest p (inClass tc) else none
  let s' := s.eseqStep p
  match named with
  | some (i, c) => s'.slotOf p i c (inClass tc) true
  | none =>
    match s.donateTo p false with
    | some (i, c) => (s'.modPort p fun t => { t with donated := cTC c.cell }).slotOf p i c (inClass (cTC c.cell)) true
    | none => s'.fillCtl p 0

/-- A pending NAK, SYNC or CT 7 cell has waited CTLMAX slots (R216), or the answer to a SYNC request waits (R207). -/
def State.ctlForced (s : State) (p : Nat) : Bool :=
  let t := s.port p
  t.ctlq.contains syncReply || (!t.ctlq.isEmpty && s.fld (addrLnkCfg p) fldLnkCfg_CTLMAX ≤ t.ctlWait)

/-- A class has a cell queued at a port. -/
def State.classQueued (s : State) (p tc : Nat) : Bool := (s.port p).q.any (inClass tc)

/-- A class holds a queued cell that lacks only credit (R256, word 1). -/
def State.lacksCredit (s : State) (p : Nat) : Bool :=
  (s.port p).q.any fun c => !c.assigned && !s.assignable p c.cell && cUnits c.cell ≤ s.replayRoom p

/-- A reserved slot (R216, R249): the oldest ready cell that matches, or three of the hardware's short control cells. -/
def State.reservedSlot (s : State) (p : Nat) (kind : QCell → Bool) : State :=
  match if s.mayStart p then s.oldest p kind else none with
  | some (i, c) => s.slotOf p i c kind false
  | none => (s.tele p 2 (· + 1)).fillShort p false 0

/-- What a slot carries on a port that sends cells (R249): a control cell that is due takes the slot, but no reserved one whose class
has a cell queued (R216); else the go-back; else what the reel or the egress sequence says. The sequence pointer advances for each
free slot. -/
def State.slotContent (s : State) (p : Nat) : State :=
  let (s, ent) := s.reelEntry p
  match ent with
  | some (tc, m, bob) =>
    if s.ctlForced p && !s.classQueued p tc then s.fillShort p false 0
    else if (s.port p).resend.isSome then s.replaySlot p 3 0
    else s.reservedSlot p (matches_ tc m bob)
  | none =>
    if s.ctlForced p then (s.eseqStep p).fillCtl p 0
    else if (s.port p).resend.isSome then (s.eseqStep p).replaySlot p 3 0
    else if s.mayStart p then s.freeSlot p
    else (s.eseqStep p).fillCtl p 0

/-- The start of a transmit superframe: a new epoch begins, with count 0 at slot 0 (R207), and the stamp (R309). -/
def State.txSuperframe (s : State) (p : Nat) : State :=
  if (s.port p).txSlot = 0 then
    let s := match (s.port p).txPend with
      | some e =>
        let s := (s.lnk p fldLnkState_EPTX e).setFld (addrLnkScnttx p) fldLnkScnttx_SCNT 0
        (s.lnk p fldLnkState_KEYEXH 0).modPort p fun t => { t with txPend := none }
      | none => s
    (s.stamp p false (s.fld (addrLnkState p) fldLnkState_EPTX) (s.fld (addrLnkScnttx p) fldLnkScnttx_SCNT)).modPort p fun t =>
      { t with tsCount := t.tsCount + 1 }
  else s

/-- The counts that go with a slot: the bits of the slot before join the lane (R190 to R193). -/
def State.slotClock (s : State) (p : Nat) : State :=
  let s := ((s.frameAll p).modPort p Port.sendSlot).txSuperframe p
  let s := s.setFld (addrLnkScnttx p) fldLnkScnttx_SCNT (s.fld (addrLnkScnttx p) fldLnkScnttx_SCNT + 1)
  let s := s.modPort p fun t =>
    { t with out := [], txSlot := (t.txSlot + 1) % 215, sinceBlk := t.sinceBlk + 1,
             ctlWait := if t.ctlq.isEmpty then 0 else t.ctlWait + 1 }
  (if s.lacksCredit p then s.tele p 1 (· + 1) else s).tele p 3 (max (s.port p).q.length)

/-- A lane without slots, squelched or with PRBS13Q (R217): superframes begin anew after it, and the slot count goes on at the next
multiple of 215, so that none is used twice (R207). -/
def State.noSlots (s : State) (p : Nat) : State :=
  let n := s.fld (addrLnkScnttx p) fldLnkScnttx_SCNT
  (s.setFld (addrLnkScnttx p) fldLnkScnttx_SCNT ((n + 214) / 215 * 215)).modPort p fun t =>
    { t with out := [], txSlot := 0, txBits := [], txCw := 0, lane := [] }

/-- A dialogue message that has had its 16 attempts is not sent again (R218): the port returns to TRAIN and sets DLGF. -/
def State.dialogueOver (s : State) (p : Nat) : State :=
  match (s.port p).fw with
  | some f =>
    if f.begins && (s.lstate p = 1 || s.lstate p = 2) && 16 ≤ s.attempts p f then
      (((s.modPort p fun t => { t with fw := none }).setFld (addrLnkCtxcmd p) fldLnkCtxcmd_BUSY 0).lnkFlag p fldLnkStatus_DLGF).goTrain p
    else s
  | none => s

/-- EGRESS_SLOT (R217, R249): the port decides a slot. A port in DOWN whose enable and AUTO are set proceeds to TRAIN, no sooner than
1 s after a refusal that says so (R219); one that sends PRBS13Q carries no slots. In RETRAIN with its locks and count held the port
goes on (R217). -/
def execEgressSlot (p : PortNo) (s : State) : Out :=
  let c := addrLnkCtl p
  if s.lstate p = 0 then
    if s.unitState c = 2 ∧ s.on c fldLnkCtl_AUTO ∧ s.on c fldLnkCtl_EN ∧ (s.port p).holdTil ≤ s.tb64 then
      .next ((s.noSlots p).goTrain p)
    else .next s
  else
    let s := (s.regained p).dialogueOver p
    if s.on c fldLnkCtl_PRBS ∨ (s.lstate p = 1 ∧ !s.on c fldLnkCtl_RXRDY) then .next (s.noSlots p)
    else
      let s := s.slotClock p
      let s := if s.lstate p = 1 ∨ s.lstate p = 2 ∨ s.idleOnly p then s.fillCtl p 0 else s.slotContent p
      .next (s.reelStep p)

/-! ### The reel boundary (R253 to R256) -/

/-- Changes armed for CFGTB take effect, as they were armed (R255). -/
def State.reelApply (s : State) : State :=
  let (len, per, at_) := s.reelArm
  if s.on addrReelCfgst fldReelCfgst_ARMED ∧ at_ ≤ s.tb64 + 11 then
    let s := s.setFld addrReelCfgst fldReelCfgst_ALEN len
    (s.setFld addrReelAper fldReelAper_PER per).setFld addrReelCfgst fldReelCfgst_ARMED 0
  else s

/-- The number of the latest reel whose slot 0 has come due: B_m - 10.80 ns has passed (R253). -/
def State.reelDue (s : State) : Nat := (10 * s.shadow + 108 * 2 ^ 40) / (10 * s.fld addrReelAper fldReelAper_PER * 2 ^ 40)

/-- The telemetry of the reel just ended latched, and the counts begun anew (R256). -/
def State.reelLatch (s : State) (p ended : Nat) : State :=
  let t := s.port p
  let s := (List.range 4).foldl (fun s i => s.wr (addrReelTsnap p i) (wordOf (nth 0 t.telem i))) s
  let s := (s.wr (addrReelTsnap p 4) (wordOf ended)).wr (addrTnsRsnap p) (wordOf (min t.reelBits (2 ^ 32 - 1)))
  s.modPort p fun t => { t with telem := List.replicate 4 0, gapSlots := false, reelBits := 0 }

/-- A requested table swap whose request is old enough (R254). -/
def State.reelSwap (s : State) (p : Nat) : State :=
  if s.on (addrReelPctl p) fldReelPctl_SWAP ∧ (s.port p).swapAt + 128 ≤ s.cycle then
    let a := s.rd (addrReelAbase p)
    let b := s.rd (addrReelSbase p)
    ((s.wr (addrReelAbase p) b).wr (addrReelSbase p) a).hwClear (addrReelPctl p) fldReelPctl_SWAP
  else s

/-- REEL_BOUNDARY (R253 to R256): a reel has come due since the last one began at the port. Telemetry is latched, armed changes and a
swap take effect, and the next slot is reel slot 0. -/
def execReelBoundary (p : PortNo) (s : State) : Out :=
  let m := s.reelDue
  if (s.port p).reelNo = some m then .next s
  else
    let ended := ((s.port p).reelNo.getD (m + 2 ^ 32 - 1)) % 2 ^ 32
    let s := ((s.reelLatch p ended).setFld (addrReelPst p) fldReelPst_SLOT 0).reelApply
    .next ((s.modPort p fun t => { t with reelNo := some s.reelDue }).reelSwap p)

end Sys2Proof.Machine
end

