-- ==== Sys2Proof/Machine/RegAccess.lean ====
section
/-! DEFINITION. What the access codes do (R16 to R19): the rights of a writer, the privilege check field by field,
reserved bits, the value a write leaves, the value a read returns, and the RSVD_WR flag of each unit (R469). -/

namespace Sys2Proof.Machine

/-- The writer's rights admit a field's code (R16). -/
def Req.admits (rq : Req) : Access → Bool
  | .rws => rq.sup
  | .rwi => rq.inst
  | .rwm => rq.mak
  | _ => true

/-- A write would change a field in the sense of R18: a command or set-only field counts when written with 1, a read-only
or cleared field is not checked. -/
def Field.changes (f : Field) (old v : Word) : Bool :=
  match f.acc, f.kind with
  | .rws, .plain | .rwi, .plain | .rwm, .plain => getF v f.bits ≠ getF old f.bits
  | .rws, _ | .rwi, _ | .rwm, _ => getF v f.bits ≠ 0
  | _, _ => false

/-- A write is a privilege violation (R18). -/
def privViolation (rq : Req) (fl : List Field) (old v : Word) : Bool :=
  fl.any fun f => f.changes old v && !rq.admits f.acc

/-- The bits that some field lists. -/
def fieldMask (fl : List Field) : Nat := fl.foldl (fun m f => m ||| maskF f.bits) 0

/-- A write sets a reserved bit (R19). -/
def setsReserved (fl : List Field) (v : Word) : Bool := v.toNat &&& fieldMask fl ≠ v.toNat

/-- The value that a write leaves in one field (R16, R17). -/
def Field.after (f : Field) (old v : Nat) : Nat :=
  match f.acc, f.kind with
  | .ro, _ => old
  | .wo, _ => old
  | .w1c, _ => old &&& (2 ^ f.bits.width - 1 - v)
  | .w1s, _ => old ||| v
  | _, .plain => v
  | _, .command => old
  | _, .setOnly => old ||| v

/-- The value that a write leaves in a register: its reserved bits hold 0 (R19). -/
def merged (fl : List Field) (old v : Word) : Word :=
  fl.foldl (fun w f => setF w f.bits (f.after (getF old f.bits) (getF v f.bits))) 0

/-- The value that a read returns: write-only and command fields read 0 (R16, R17). -/
def readable (fl : List Field) (w : Word) : Word :=
  fl.foldl (fun r f => if f.acc = .wo ∨ f.kind = .command then r else setF r f.bits (getF w f.bits)) 0

/-- The RSVD_WR flag of the unit that an address belongs to; an instance beyond the last sets the last one's (R469). -/
def rsvdFlag (a : Nat) : Nat × Bits :=
  let off := a % 2 ^ 24
  match a / 2 ^ 24 with
  | 0x40 => (addrWhlStatus (min (off / 0x10000) 39), fldWhlStatus_RSVD_WR)
  | 0x41 => if off < 0x100000 then (addrBobStatus, fldBobStatus_RSVD_WR) else (addrLgrStatus, fldLgrStatus_RSVD_WR)
  | 0x42 => (addrLnkStatus (min (off / 0x10000) 143), fldLnkStatus_RSVD_WR)
  | 0x43 => if off < 0x800000 then (addrRteStatus, fldRteStatus_RSVD_WR) else (addrReelCfgst, fldReelCfgst_RSVD_WR)
  | 0x44 => (addrDrfStatus (min (off / 0x1000) 7), fldDrfStatus_RSVD_WR)
  | 0x45 => if off < 0x10000 then (addrPlyStatus (min (off / 0x1000) 15), fldPlyStatus_RSVD_WR)
            else (addrPlyGstat, fldPlyGstat_RSVD_WR)
  | 0x46 => (addrSknStatus, fldSknStatus_RSVD_WR)
  | 0x47 => if off < 0x100000 then (addrTnsSt (min (off / 0x1000) 143), fldTnsSt_RSVD_WR)
            else (addrTnsAgectl, fldTnsAgectl_RSVD_WR)
  | 0x48 => (addrSngSt, fldSngSt_RSVD_WR)
  | 0x49 => (addrTrdStatus, fldTrdStatus_RSVD_WR)
  | 0x4A => (addrPinStatus, fldPinStatus_RSVD_WR)
  | 0x4B => (addrSecStatus, fldSecStatus_RSVD_WR)
  | 0x4C => (addrHapGstat, fldHapGstat_RSVD_WR)
  | 0x4D => (addrPwrStatus, fldPwrStatus_RSVD_WR)
  | 0x4E => (addrMemEccst, fldMemEccst_RSVD_WR)
  | _ => (addrDbgStatus, fldDbgStatus_RSVD_WR)

/-- RSVD_WR set for a write at an address (R19, R469); a bit of LNK_STATUS that comes to be set has its unit event (R226). -/
def State.rsvd (s : State) (a : Nat) : State :=
  let (f, b) := rsvdFlag a
  let s' := s.setFld f b 1
  if a / 2 ^ 24 = 0x42 ∧ !s.on f b then s'.raise (4 * min (a % 2 ^ 24 / 0x10000) 143 + 2) else s'

/-- The master index of a writer (R151); the debug port is no master. -/
def masterOf : Writer → Nat
  | .thread g => g.val / 32
  | .host c => 208 + c.val
  | .draft e => 40 + e.val
  | .debugPort => 255

/-- The rights of a thread's access (R16, R393): RW-I and RW-M admit WH39 T2 alone, while the grant is set. -/
def State.reqOf (s : State) (g : ThreadNo) : Req :=
  let th := s.thr g
  { who := .thread g, sup := th.isSup && !th.isZ,
    inst := g.val = 1250 && s.on addrSecGrant fldSecGrant_INS,
    mak := g.val = 1250 && s.on addrSecGrant fldSecGrant_MAK,
    z := th.isZ, lv := th.isSup }

/-- The rights of a host channel's access: Z world, user level (R151). -/
def hostReq (c : Fin 8) : Req := { who := .host c, sup := false, inst := false, mak := false, z := true, lv := false }

/-- The rights of a draft engine's access: those of the thread that started the list (R151). -/
def draftReq (e : Fin 8) (z lv : Bool) : Req :=
  { who := .draft e, sup := lv && !z, inst := false, mak := false, z := z, lv := lv }

/-- The rights of the debug port: it writes the DBG window and the mailbox under the fixed grant of R154. -/
def debugReq : Req := { who := .debugPort, sup := false, inst := false, mak := false, z := true, lv := false }

/-- What a writer is told (R18, R19, R161): the write was performed, refused as a privilege violation, discarded with
RSVD_WR, refused by the regions, or a doorbell, release or start refused (R175, R260). -/
inductive Told where
  | done | privilege | discarded | region | refused
  deriving DecidableEq, Repr

end Sys2Proof.Machine
end

