-- ==== Sys2Proof/Machine/Bobbin.lean ====
section
/-! DEFINITION. The bobbin unit and the ledger: setting up descriptors (R167, R168), enabling (R169, R181), doorbells and
releases (R174, R175), the checks of the bobbin instructions (R174, R176, R180 to R182, R185), allocation (R180), retirement,
grants, override and the ledger check (R184 to R188). -/

namespace Sys2Proof.Machine

/-! ### Descriptors set up through the stage (R167, R168) -/

/-- A ring of `n` bytes at `a` lies wholly in one creel partition with USE 1 or 5. -/
def State.ringInPart (s : State) (a n : Nat) : Bool :=
  (List.range 32).any fun k =>
    let at_ := addrMemCpattr k
    s.on at_ fldMemCpattr_V && (s.fld at_ fldMemCpattr_USE = 1 || s.fld at_ fldMemCpattr_USE = 5) &&
    s.fld (addrMemCpbase k) fldMemCpbase_BASE * 65536 ≤ a && a + n ≤ (s.fld (addrMemCplim k) fldMemCplim_LIMIT + 1) * 65536

/-- The staged words pass the checks of R168. -/
def State.stageOk (s : State) (w : Nat → Nat) : Bool :=
  let ty := natField (w 0) bdTYPE
  let host := natField (w 0) bdLOC = 1
  let size := natField (w 0) bdSIZE
  let own := natField (w 0) bdOWNER
  let home := natField (w 1) bdHOME
  let lwin := natField (w 1) bdLWIN
  let cplb := natField (w 1) bdCPLB
  let pool := natField (w 6) bdPOOL
  let ps := natField (w 0) bdPSCOPE
  let oww := natField (w 0) bdOWW
  let bytes := 64 * 2 ^ (size + 4)
  let base := w 2 + (if host then natField (w 3) bdRBASEH * 2 ^ 32 else 0)
  let portHome := home < 144 && own / 32 = home / 4
  let whHome := 160 ≤ home && home < 200 && own / 32 = home - 160
  let txrx := ty ≤ tyRX
  ty ≤ tyCHN && natField (w 0) ⟨19, 11⟩ = 0 && size ≤ 12 && own < 1280 && w 2 % 64 = 0 && natField (w 3) ⟨31, 20⟩ = 0 &&
  natField (w 6) ⟨15, 12⟩ = 0 && (host || w 3 = 0) && (ty = tyRX || lwin = 0) && (txrx || cplb = 0) && (ty = tyTX || pool = 0) &&
  base % bytes = 0 && (host || s.ringInPart base bytes) && (ty ≠ tyCHN || !host) && (ps ≠ 3 || oww = 1) &&
  (if txrx then portHome else portHome || whHome) &&
  (!txrx || (s.bobValid cplb && s.bobType cplb = tyCPL && s.bdf cplb 0 bdOWW = oww)) &&
  (ty ≠ tyTX || (s.poolZ pool == decide (oww = 1)))

/-- The ring size in 4 KiB units, rounded up (R180). -/
def ringUnits (size : Nat) : Nat := (64 * 2 ^ (size + 4) + 4095) / 4096

/-- BUF of a thread's use counted by the units of a bobbin's creel ring (R181); the field wraps (DESIGN CHOICE, log 95). -/
def State.useBuf (s : State) (k : Nat) (add : Bool) : State :=
  if s.bdf k 0 bdLOC = 1 then s
  else
    let g := s.bdf k 0 bdOWNER
    let a := addrWhlTuse (g / 32) (g % 32)
    let u := ringUnits (s.bdf k 0 bdSIZE)
    let v := s.fld a fldWhlTuse_BUF
    s.setFld a fldWhlTuse_BUF (if add then v + u else v - u)

/-- V set or cleared in the unit's own array and mirrored into word 0 (R166). -/
def State.setValid (s : State) (k : Nat) (v : Bool) : State :=
  let w := s.bd k 0
  { s with bobV := tput (fun _ => false) s.bobV k v }.setBd k 0 (w % 2 ^ 31 + b2n v * 2 ^ 31)

/-- The last command was refused. -/
def State.setErr (s : State) : State := s.setFld addrBobSetst fldBobSetst_ERR 1

/-- OP 1 (R167): a descriptor written from the stage; V set, PROD and CONS 0, STATE left at OFF. -/
def State.setWrite (s : State) (k : Nat) : State :=
  let w := fun i => (s.rd (addrBobStage i)).toNat
  if s.unitState (addrBobBctl k) = 0 ∧ s.stageOk w then
    let s := if s.bobHeld k then s.useBuf k false else s
    let words := [w 0, w 1, w 2, w 3, 0, 0, w 6, (s.rd (addrBobBctl k)).toNat]
    let s := ((s.memWrite 0 (bdAddr k 0) (words.flatMap (bytesLE 4))).1).setValid k true
    ({ s with bobDyn := tset s.bobDyn k none, txq := tset s.txq k [] }.useBuf k true)
  else s.setErr

/-- OP 2: a descriptor read into the stage. -/
def State.setRead (s : State) (k : Nat) : State :=
  let (n, s) := s.nextFree
  let s := s.bobTouch (Config.freeByte n).toNat k
  (List.range 8).foldl (fun s i => s.wr (addrBobStage i) (wordOf (s.bd k i))) s

/-- OP 3: V of an OFF bobbin cleared. -/
def State.setClear (s : State) (k : Nat) : State :=
  if s.unitState (addrBobBctl k) = 0 then (if s.bobHeld k then (s.useBuf k false).setValid k false else s) else s.setErr

/-- BOB_SETCMD. -/
def State.setCmd (s : State) (op k : Nat) : State :=
  match op with
  | 1 => s.setWrite k
  | 2 => s.setRead k
  | 3 => s.setClear k
  | _ => s

/-! ### States (R169, R181) -/

/-- A disabled TX bobbin cancels every fetched slip that has not started, with its credits; a message to be sent again has been
segmented, so the engine finishes it (R169). -/
def State.cancelHeld (s : State) (k : Nat) : State :=
  let l := s.txOf k
  let new := fun (m : TxMsg) => decide (m.stage = .held) && !m.resend
  let s := (l.filter new).foldl (fun s m => s.move (s.poolOf k) .held .free m.cells) s
  s.txFlush k (l.map fun m => if new m then { m with stage := .cancelled } else m)

/-- EN of a bobbin written (R169, R440): an enable loads the descriptor, a disable begins STOPPING. -/
def State.bobEnable (s : State) (k en : Nat) : State :=
  let w := s.rd (addrBobBctl k)
  let s := s.setBctl k (enableRule w en)
  if getF w enSTATE = 2 ∧ s.unitState (addrBobBctl k) = 3 ∧ s.bobType k = tyTX then s.cancelHeld k else s

/-- A STOPPING bobbin holds nothing that it started (R169). -/
def State.bobIdle (s : State) (k : Nat) : Bool := s.bobType k ≠ tyTX || ((s.txOf k).isEmpty && s.txAvail k = 0)

/-- A dynamic bobbin that BFREE has released returns its number and ring when it reaches OFF (R181). -/
def State.bobFreed (s : State) (k : Nat) : State :=
  match tget (fun _ => false) s.bobFree k, tget (fun _ => none) s.bobDyn k with
  | true, some _ =>
    let g := s.bdf k 0 bdOWNER
    let a := addrWhlTuse (g / 32) (g % 32)
    let s := (s.setFld a fldWhlTuse_BOBS (s.fld a fldWhlTuse_BOBS - 1)).useBuf k false
    { s with bobDyn := tset s.bobDyn k none, bobFree := tput (fun _ => false) s.bobFree k false }.setValid k false
  | _, _ => s

/-- The end of STARTING and of STOPPING of a bobbin (R440). -/
def State.bobStarted (s : State) (k : Nat) : State :=
  let s := s.setBctl k (startingEnd (s.rd (addrBobBctl k)))
  if s.unitState (addrBobBctl k) = 3 ∧ s.bobType k = tyTX then s.cancelHeld k else s
def State.bobStopped (s : State) (k : Nat) : State :=
  if s.unitState (addrBobBctl k) = 3 ∧ s.bobIdle k then
    let s := s.setBctl k (stoppingEnd (s.rd (addrBobBctl k)))
    if s.unitState (addrBobBctl k) = 0 then s.bobFreed k else s
  else s

/-! ### Doorbells and releases (R174, R175) -/

/-- A writer may ring or release through BOB_DB: a thread as for BDB, the host under PSCOPE 3, a draft engine as a thread of
the world of its list (log 13). -/
def State.ringAllowed (s : State) (k : Nat) (rq : Req) : Bool :=
  match rq.who with
  | .thread g => s.bobThreadOk k g
  | .host _ => s.bdf k 0 bdPSCOPE = 3
  | .draft _ => 2 ≤ s.bdf k 0 bdPSCOPE && rq.z == s.bobZ k
  | .debugPort => false

/-- A write of BOB_DB (R175): false when it is refused. -/
def State.dbWrite (s : State) (k : Nat) (rq : Req) (v : Word) : State × Bool :=
  let cnt := getF v fldBobDb_COUNT
  if !s.bobValid k ∨ !s.ringAllowed k rq then (s, false)
  else s.ring k cnt (isOn v fldBobDb_REL) (masterOf rq.who) rq.z

/-! ### Checks of the bobbin instructions (R182) -/

/-- The DETAIL of a bobbin fault for an instruction on bobbin `k`: operand bits, V, type, ownership. -/
def State.bobFault (s : State) (g k : Nat) (rsvd : Bool) (types : List Nat) : Option Nat :=
  if rsvd then some 5
  else if !s.bobValid k then some 1
  else if !types.contains (s.bobType k) then some 3
  else if !s.bobThreadOk k g then some 2
  else none

/-- BPOP (R176): the result, or the DETAIL of its fault. -/
def State.bpop (s : State) (g : Nat) (a : Word) : State × Except Nat Word :=
  let k := a.toNat % 65536
  let s := s.bobTouch (g / 32) k
  match s.bobFault g k (a.toNat / 2 ^ 17 ≠ 0) [tyRX, tyCPL, tyEVT, tyCHN] with
  | some d => (s, .error d)
  | none =>
    let head := fun (s : State) =>
      if s.prod k ≠ s.cons k then wordOf (0x80000000 + s.cons k % s.bobN k) else 0
    if a.toNat.testBit 16 then
      if s.prod k = s.cons k then (s, .error 4) else let s := s.advCons k 1; (s, .ok (head s))
    else (s, .ok (head s))

/-- The creel rings in use: base and end. -/
def State.ringsUsed (s : State) : List (Nat × Nat) :=
  (s.bobV.filter fun x => x.2 && s.bdf x.1 0 bdLOC = 0).map fun x =>
    (s.ringBase x.1, s.ringBase x.1 + 64 * s.bobN x.1)

/-- An address rounded up to a multiple. -/
def alignUp (a n : Nat) : Nat := (a + n - 1) / n * n

/-- The lowest place for a ring of `n` bytes in one partition that no ring in use overlaps. -/
def placeIn (used : List (Nat × Nat)) (lo hi n : Nat) : Option Nat :=
  let cands := (alignUp lo n :: used.map fun x => alignUp x.2 n).filter fun a =>
    lo ≤ a && a + n ≤ hi && !used.any fun x => x.1 < a + n && a < x.2
  cands.foldl (fun m a => match m with | some b => some (min a b) | none => some a) none

/-- The lowest place in the partitions of a use, for a whorl when the use is 5 (R180). -/
def State.placeRing (s : State) (use n bytes : Nat) : Option Nat :=
  let used := s.ringsUsed
  (List.range 32).foldl (fun m k =>
    let at_ := addrMemCpattr k
    if s.on at_ fldMemCpattr_V && s.fld at_ fldMemCpattr_USE = use && (use ≠ 5 || s.fld at_ fldMemCpattr_WHORL = n) then
      match placeIn used (s.fld (addrMemCpbase k) fldMemCpbase_BASE * 65536)
          ((s.fld (addrMemCplim k) fldMemCplim_LIMIT + 1) * 65536) bytes, m with
      | some a, some b => some (min a b)
      | some a, none => some a
      | none, m => m
    else m) none

/-- BALLOC (R180): the result word, or DETAIL 5 for a reserved request. -/
def State.balloc (s : State) (g : Nat) (a : Word) : State × Except Nat Word :=
  let r := a.toNat
  let size := r % 16
  let ty := r / 16 % 8
  if 13 ≤ size ∨ ty < tyCPL ∨ tyCHN < ty ∨ 2 ^ 7 ≤ r then (s, .error 5)
  else
    let n := g / 32
    let sh := addrWhlTshare n (g % 32)
    let us := addrWhlTuse n (g % 32)
    let u := ringUnits size
    let bytes := 64 * 2 ^ (size + 4)
    let refuse := fun (c : Nat) => (s, (Except.ok (wordOf (0x80000000 + c)) : Except Nat Word))
    if s.fld sh fldWhlTshare_BOBCEIL ≤ s.fld us fldWhlTuse_BOBS then refuse 1
    else if s.fld sh fldWhlTshare_BUFCEIL < s.fld us fldWhlTuse_BUF + u then refuse 2
    else
      let base := s.fld (addrBobPart n) fldBobPart_BASE
      let cnt := s.fld (addrBobPart n) fldBobPart_COUNT
      let sc := s.fld (addrBobPscnt n) fldBobPscnt_SCNT
      match (List.range (cnt - sc)).find? fun i => !s.bobHeld (base + sc + i) with
      | none => refuse 3
      | some i =>
        let k := base + sc + i
        let place := match s.placeRing 5 n bytes with
          | some a => some a
          | none => s.placeRing 1 n bytes
        match place with
        | none => refuse 4
        | some ra =>
          let w0 := ty * 2 ^ 28 + b2n (s.thr g).isZ * 2 ^ 26 + size * 2 ^ 20 + g
          let words := [w0, (160 + n) * 2 ^ 24, ra, 0, 0, 0, 0, 0]
          let s := (s.memWrite n (bdAddr k 0) (words.flatMap (bytesLE 4))).1
          let s := (s.setBctl k 5).setValid k true
          let s := { s with bobDyn := tset s.bobDyn k (some u) }
          let s := s.setFld us fldWhlTuse_BOBS (s.fld us fldWhlTuse_BOBS + 1)
          (s.setFld us fldWhlTuse_BUF (s.fld us fldWhlTuse_BUF + u), .ok (wordOf k))

/-- BFREE (R181): the owner's dynamic bobbin begins STOPPING. -/
def State.bfree (s : State) (g : Nat) (a : Word) : State × Except Nat Word :=
  let k := a.toNat % 65536
  let s := s.bobTouch (g / 32) k
  if a.toNat / 2 ^ 16 ≠ 0 then (s, .error 5)
  else if !s.bobValid k then (s, .error 1)
  else if s.bdf k 0 bdOWNER ≠ g then (s, .error 2)
  else if (tget (fun _ => none) s.bobDyn k).isNone then (s, .error 3)
  else ({ s with bobFree := tput (fun _ => false) s.bobFree k true }.bobEnable k 0, .ok 0)

/-- BCRD (R185): FREE after the move. -/
def State.bcrd (s : State) (g : Nat) (a b : Word) : State × Except Nat Word :=
  let p := a.toNat % 4096
  let d := b.toInt
  if a.toNat / 4096 ≠ 0 then (s, .error 5)
  else if s.poolZ p != (s.thr g).isZ then (s, .error 2)
  else
    let n := d.natAbs
    let (src, dst) := if 0 ≤ d then (Ctr.free, Ctr.held) else (Ctr.held, Ctr.free)
    if s.canMove p src n then let s := s.move p src dst n; (s, .ok (wordOf (s.ctr p .free))) else (s, .error 6)

/-- The checks of BDB at issue (R174), the count among them. -/
def State.bdbFault (s : State) (g : Nat) (a b : Word) : Option Nat :=
  let k := a.toNat % 65536
  match s.bobFault g k (a.toNat / 2 ^ 16 ≠ 0) [tyTX, tyCHN] with
  | some d => some d
  | none => if b.toNat = 0 ∨ s.bobN k < b.toNat then some 4 else none

/-! ### The ledger's registers (R184 to R188) -/

/-- BOB_RETIDX (R184): the message's credits return; a second return is ignored. -/
def State.retireMsg (s : State) (idx : Nat) : State :=
  let k := s.fld addrBobRetire fldBobRetire_BOB
  match s.sends.find? fun r => r.bob = k && r.idx = idx with
  | some r =>
    { s with sends := s.sends.filter fun x => !(x.bob = k && x.idx = idx) }.move r.pool .flight .free r.flight
  | none => s.setFld addrLgrStatus fldLgrStatus_LATEACK 1

/-- LGR_ADJAMT (R185): a signed amount added to GRANT and FREE, or ADJREF. -/
def State.adjust (s : State) (v : Word) : State :=
  let set := s.fld addrLgrAdjset fldLgrAdjset_SET
  let s := s.setTouch set
  let f := (s.ctr set .free : Int) + v.toInt
  let g := (s.ctr set .grant : Int) + v.toInt
  if f < 0 then s.setFld addrLgrStatus fldLgrStatus_ADJREF 1
  else (s.setCtr set .grant (wrapTo 32 g)).setCtr set .free (wrapTo 32 f)

/-- The conservation guarantee broken (R188). -/
def State.guarBreak (s : State) : State := s.setFld addrLgrGstat fldLgrGstat_GUAR 0

/-- LGR_OVRCMD.GO (R187). -/
def State.override (s : State) : State :=
  let v := fun i => (s.rd (addrLgrOvrval i)).toNat
  let s := s.setAll (s.fld addrLgrOvrset fldLgrOvrset_SET) (v 0) (v 1) (v 2) (v 3)
  ((s.setFld addrLgrStatus fldLgrStatus_OVR 1).setFld addrLgrGstat fldLgrGstat_OVR 1).guarBreak

/-- A LEDGER fault on a set (R186). -/
def State.ledgerFault (s : State) (set : Nat) : State :=
  let s := if s.on addrLgrStatus fldLgrStatus_VIOL then s
    else (s.setFld addrLgrVidx fldLgrVidx_SET set).setFld addrLgrStatus fldLgrStatus_VIOL 1
  let s := (s.bump addrLgrStatus fldLgrStatus_VCNT).fireProd 448
  s.noteEsc { kind := 10, whorl := 39, thread := 0, cause := 0, st := 0, pc := 0, eaddr := wordOf set, tb := s.tb32 }

/-- LEDGER_CHECK (R186): every set tested once; with no set area there is nothing to test. -/
def execLedgerCheck (s : State) : Out :=
  match s.lgrSet 0 with
  | none => .next s
  | some _ => .next ((List.range 5504).foldl (fun s set =>
      let s := s.setTouch set
      if s.setOk set || !s.setSound set then s else s.ledgerFault set) s)

end Sys2Proof.Machine
end

