-- ==== Sys2Proof/Machine/DraftCtl.lean ====
section
/-! DEFINITION. The draft engines' control (R259, R260, R272, R279): the start queue, the start of a list, and what DRF_GO,
DRF_CMD, DRF_SVCCTL and the staging registers do. -/

namespace Sys2Proof.Machine

/-- A draft engine besides its registers. -/
def State.drf (s : State) (e : Nat) : Draft := tget (fun _ => {}) s.drafts e
/-- A draft engine changed. -/
def State.modDrf (s : State) (e : Nat) (f : Draft → Draft) : State := { s with drafts := tset s.drafts e (f (s.drf e)) }
/-- RUN: 0 IDLE, 1 RUNNING, 2 WAITING, 3 PAUSED, 4 FAULTED. -/
def State.drfRun (s : State) (e : Nat) : Nat := s.fld (addrDrfStatus e) fldDrfStatus_RUN
def State.setRun (s : State) (e v : Nat) : State := s.setFld (addrDrfStatus e) fldDrfStatus_RUN v
/-- QCNT shown. -/
def State.drfQcnt (s : State) (e : Nat) : State := s.setFld (addrDrfStatus e) fldDrfStatus_QCNT (s.drf e).queue.length

/-- The address of the command that the engine is at, in DRF_CUR. -/
def State.drfCur (s : State) (e : Nat) (l : DList) : State :=
  (s.wr (addrDrfCur e 0) (wordOf l.addr)).wr (addrDrfCur e 1)
    (wordOf (if l.host then l.addr / 2 ^ 32 % 2 ^ 20 + 2 ^ 20 else 0))

/-- DRF_DONE. -/
def State.drfDone (s : State) (e n : Nat) : State :=
  (s.wr (addrDrfDone e 0) (wordOf n)).wr (addrDrfDone e 1) (wordOf (n / 2 ^ 32 % 65536))

/-- An idle engine that is ON goes on: with the list that a disable interrupted, or with the next list queued (R260, R261,
R279). -/
def State.drfBegin (s : State) (e : Nat) : State :=
  let d := s.drf e
  if s.drfRun e ≠ 0 ∨ s.unitState (addrDrfCtl e) ≠ 2 then s
  else match d.cur, d.queue with
    | some _, _ => s.setRun e 1
    | none, l :: r =>
      let s := s.modDrf e fun d =>
        { d with queue := r, cur := some l, cmd := .none, next := .none, begun := false, idx := 0, steps := 0, served := false }
      (((s.drfQcnt e).drfCur e l).drfDone e 0).setRun e 1
    | none, [] => s

/-- A start (R260): the queue position, or the reason of the refusal. -/
def State.drfStart (s : State) (e : Nat) (l : DList) : State × Except Nat Nat :=
  let n := (s.drf e).queue.length
  if s.unitState (addrDrfCtl e) ≠ 2 then (s, .error 1)
  else if 8 ≤ n then (s, .error 2)
  else if l.addr % 64 ≠ 0 then (s, .error 3)
  else (((s.modDrf e fun d => { d with queue := d.queue ++ [l] }).drfQcnt e).drfBegin e, .ok n)

/-- The engine is open to a world's threads (R259). -/
def State.drfOpen (s : State) (e : Nat) (z : Bool) : Bool := (s.fld (addrDrfOwn e) fldDrfOwn_WORLDS).testBit (b2n z)

/-- DRGO names no engine that its thread may start (R259): privilege, DETAIL 3. -/
def State.drgoDenied (s : State) (g : Nat) (a : Word) : Bool := 8 ≤ a.toNat || !s.drfOpen a.toNat (s.thr g).isZ

/-- DRGO at its engine: the value of rd (R260). -/
def State.drgo (s : State) (g : Nat) (a b : Word) : State × Word :=
  let th := s.thr g
  match s.drfStart a.toNat { addr := b.toNat, host := false, z := th.isZ, lv := th.isSup, by_ := some g } with
  | (s, .ok n) => (s, wordOf n)
  | (s, .error r) => (s, wordOf (0x80000000 + r))

/-- The list that a write of GO names, for its writer; none where the writer may not start one (R259, R260). A draft engine
starts it as its own list's world and thread. -/
def State.goList (s : State) (e : Nat) (rq : Req) : Option DList :=
  let hi := addrDrfListhi e
  let l : DList :=
    { addr := s.fld (addrDrfListlo e) fldDrfListlo_ADDR * 64 + s.fld hi fldDrfListhi_ADDRH * (if s.on hi fldDrfListhi_LOC then 2 ^ 32 else 0),
      host := s.on hi fldDrfListhi_LOC, z := rq.z, lv := rq.lv, by_ := none }
  match rq.who with
  | .thread g => if s.drfOpen e rq.z then some { l with by_ := some g.val } else none
  | .host _ => if s.on (addrDrfOwn e) fldDrfOwn_HOST then some l else none
  | .draft d => if s.drfOpen e rq.z then some { l with by_ := ((s.drf d).cur.map (·.by_)).join } else none
  | .debugPort => none

/-- A write of GO (R260): false when it is refused, which sets GOREF. -/
def State.goWrite (s : State) (e : Nat) (rq : Req) : State × Bool :=
  let no := fun (s : State) => (s.setFld (addrDrfStatus e) fldDrfStatus_GOREF 1, false)
  match s.goList e rq with
  | none => no s
  | some l =>
    match s.drfStart e l with
    | (s, .ok _) => (s, true)
    | (s, .error _) => no s

/-- A number that no slip has: the message is being gathered. -/
def unrung : Nat := 2 ^ 32

/-- The list in progress ends, with a message that it was gathering (R274); `keep` says whether the queue stays. -/
def State.drfEndList (s : State) (e : Nat) (keep : Bool) : State :=
  let s := s.modDrf e fun d =>
    { d with queue := if keep then d.queue else [], cur := none, cmd := .none, next := .none, begun := false, idx := 0, steps := 0,
             staged := d.staged.filter fun x => x.idx ≠ unrung, served := false }
  ((s.drfQcnt e).setFld (addrDrfStatus e) fldDrfStatus_OVSM 0).setRun e 0

/-- A write of DRF_CMD is a reserved encoding (R279). -/
def State.drfCmdBad (s : State) (e : Nat) (v : Word) : Bool :=
  2 ≤ popCount 4 v.toNat || (isOn v fldDrfCmd_RESUME && s.drfRun e ≠ 3) || (isOn v fldDrfCmd_CLRF && s.drfRun e ≠ 4)

/-- DRF_CMD acts (R278, R279). -/
def State.drfCmd (s : State) (e : Nat) (v : Word) : State :=
  if isOn v fldDrfCmd_PAUSE then (if s.drfRun e ≤ 2 then s.setRun e 3 else s)
  else if isOn v fldDrfCmd_RESUME then
    (if (s.drf e).begun then s.setRun e 1 else (s.setRun e 0).drfBegin e)
  else if isOn v fldDrfCmd_ABORT then s.drfEndList e false
  else if isOn v fldDrfCmd_CLRF then (s.drfEndList e true).drfBegin e
  else s

/-- No command is in progress, so STOPPING can end (R279). -/
def State.drfIdle (s : State) (e : Nat) : Bool := !(s.drf e).begun || s.drfRun e = 4

/-- DRF_CTL.EN written, and a change of STATE: an engine that becomes ON goes on, one that is OFF is idle unless it is paused
or faulted. -/
def State.drfCtl (s : State) (e : Nat) (w : Word) : State :=
  let s := s.wr (addrDrfCtl e) w
  if getF w enSTATE = 2 then s.drfBegin e
  else if getF w enSTATE = 0 ∧ s.drfRun e ≤ 2 then s.setRun e 0
  else s

/-- A write of DRF_SVCCTL with EN = 1 is a reserved encoding: its bobbins, or the served window. -/
def State.svcBad (s : State) (v lo hi : Word) : Bool :=
  let rx := getF v fldDrfSvcctl_SBOB
  let tx := getF v fldDrfSvcctl_TXB
  isOn v fldDrfSvcctl_EN &&
    (!s.bobValid rx || !s.bobValid tx || s.bobType rx ≠ tyRX || s.bobType tx ≠ tyTX || s.bobZ rx != s.bobZ tx ||
      getF hi fldDrfSvcwhi_LIMIT < getF lo fldDrfSvcwlo_BASE)

end Sys2Proof.Machine
end

