-- ==== Sys2Proof/Machine/Pins.lean ====
section
/-! DEFINITION. The service pins (R366 to R376): owners and rights, what drives a pin and what its ball shows, input signals
and their conflicts, timed edges and captures. -/

namespace Sys2Proof.Machine

/-! ### Owners and rights (R366, R367) -/

/-- The home of PIN_OWN[i]. The spec gives half of PIN_OWN[64] to PIN_OWN[95] addresses that PIN_TCTL, PIN_TQST and PIN_TCAP
also have; an access to such an address reaches the latter, and these owners stand under keys of their own (log 21). -/
def pinOwnKey (i : Nat) : Nat := if i < 64 ∨ 4 ≤ i % 8 then addrPinOwn i else 0x4A080000 + 4 * i

/-- The owner: the Z world, one named whorl only, that whorl. -/
def State.pinZ (s : State) (i : Nat) : Bool := s.on (pinOwnKey i) fldPinOwn_OWW
def State.pinOWH (s : State) (i : Nat) : Bool := s.on (pinOwnKey i) fldPinOwn_OWH
def State.pinWhorl (s : State) (i : Nat) : Nat := s.fld (pinOwnKey i) fldPinOwn_WHORL

/-- A thread may use PINW, PINR and PINT on a pin. -/
def State.pinThreadOk (s : State) (g i : Nat) : Bool :=
  i < 96 && (s.thr g).isZ == s.pinZ i && (!s.pinOWH i || s.pinWhorl i = g / 32)

/-- A master reaches a pin's bit of PIN_OUT, PIN_SET, PIN_CLR and PIN_TGL. -/
def State.pinBitOk (s : State) (rq : Req) (i : Nat) : Bool :=
  rq.z == s.pinZ i &&
    match rq.who with
    | .thread g => !s.pinOWH i || s.pinWhorl i = g.val / 32
    | .host _ => !s.pinOWH i
    | .draft _ => !s.pinOWH i
    | .debugPort => false

/-- A master may write PIN_CFG and PIN_TCTL of a pin. -/
def State.pinCfgOk (s : State) (rq : Req) (i : Nat) : Bool :=
  rq.sup || (rq.lv && rq.z == s.pinZ i &&
    match rq.who with
    | .thread g => !s.pinOWH i || s.pinWhorl i = g.val / 32
    | .draft _ => !s.pinOWH i
    | _ => false)

/-- The pins of word `w` whose bits a master reaches. -/
def State.pinMask (s : State) (rq : Req) (w : Nat) : Word :=
  wordOf ((List.range 32).foldl (fun m b => if s.pinBitOk rq (32 * w + b) then m + 2 ^ b else m) 0)

/-! ### Levels (R368, R371, R372, R376) -/

/-- A pin's own state. -/
def State.pin (s : State) (i : Nat) : PinSt := tget (fun _ => {}) s.pins i
/-- A pin's own state changed. -/
def State.modPin (s : State) (i : Nat) (f : PinSt → PinSt) : State := { s with pins := tset s.pins i (f (s.pin i)) }
/-- The pin's PIN_OUT bit. -/
def State.pinOut (s : State) (i : Nat) : Bool := (s.rd (addrPinOut (i / 32))).toNat.testBit (i % 32)
/-- The bank's supply is within its range. -/
def State.bankGood (s : State) (i : Nat) : Bool := s.on (addrPinBank (i / 16)) fldPinBank_PG

/-- The level of an output signal (R371); `pulse` names the PO that is high now. -/
def State.outSignal (s : State) (pulse : Option Nat) (o : Nat) : Bool :=
  if o < 64 then pulse = some o
  else if o = 64 then (s.rd (addrTrdPlat 14)).toNat.testBit 1
  else if o = 65 then s.asleep
  else if 128 ≤ o ∧ o < 192 then tget (fun _ => false) s.lx (o - 128)
  else false

/-- What the pin drives onto its ball, none when its driver is off (R368). -/
def State.pinDrive (s : State) (pulse : Option Nat) (i : Nat) : Option Bool :=
  let a := addrPinCfg i
  let v := if s.on a fldPinCfg_SRC then s.outSignal pulse (s.fld a fldPinCfg_OSEL) else s.pinOut i
  if !s.bankGood i then none
  else match s.fld a fldPinCfg_MODE with
    | 1 => some v
    | 2 => if v then none else some false
    | _ => none

/-- The level of the ball, none in a contention (R368). -/
def State.pinBall (s : State) (pulse : Option Nat) (i : Nat) : Option Bool :=
  let t := s.pin i
  match s.pinDrive pulse i, t.ext with
  | none, some v => some v
  | none, none =>
    match s.fld (addrPinCfg i) fldPinCfg_PULL with
    | 1 => some true
    | 2 => some false
    | _ => some t.keep
  | some d, some v => if d = v then some d else none
  | some d, none => some d

/-- The level that the pin's input shows to the block: 0 while its bank is out of range, the last definite level in a
contention. -/
def State.pinIn (s : State) (pulse : Option Nat) (i : Nat) : Bool :=
  s.bankGood i && (s.pinBall pulse i).getD (s.pin i).keep

/-- A read of the pin by software: a contention reads as 0 or 1 without a defined choice, a free value. -/
def State.pinSample (s : State) (i : Nat) : State × Bool :=
  if !s.bankGood i then (s, false)
  else match s.pinBall none i with
    | some v => (s, v)
    | none => let (n, s) := s.nextFree; (s, (Config.freeByte n).toNat % 2 = 1)

/-- The pins that feed an input signal. -/
def State.feeders (s : State) (k : Nat) : List Nat :=
  (List.range 96).filter fun i => s.on (addrPinCfg i) fldPinCfg_IV && s.fld (addrPinCfg i) fldPinCfg_ISEL = k
/-- An input signal in conflict. -/
def State.inConfl (s : State) (k : Nat) : Bool := 2 ≤ (s.feeders k).length
/-- The level of an input signal (R372). -/
def State.inSignal (s : State) (pulse : Option Nat) (k : Nat) : Bool :=
  let dflt := (s.rd (addrPinIdef (k / 32))).toNat.testBit (k % 32)
  match s.feeders k with
  | [i] => if s.bankGood i then s.pinIn pulse i else dflt
  | _ => dflt

/-- Producer 64 + k's EDGE selects this change (TRD_PCFG). -/
def State.edgeChosen (s : State) (k : Nat) (rising : Bool) : Bool :=
  match s.fld (addrTrdPcfg k) fldTrdPcfg_EDGE with
  | 0 => rising
  | 1 => !rising
  | 2 => true
  | _ => false

/-- The levels of the 64 PI signals, and the signals in conflict. -/
def State.piLevels (s : State) (pulse : Option Nat) : List Bool := (List.range 64).map fun k => s.inSignal pulse k
def State.conflicts (s : State) : List Nat := (List.range 192).filter fun k => s.inConfl k

/-- After a change: the producers of the PI signals that changed fire, a new conflict is flagged, and the keepers take the
levels of their balls. `old` and `conf` are the levels and conflicts before. -/
def State.pinsSettle (s : State) (pulse : Option Nat) (old : List Bool) (conf : List Nat) : State :=
  let new := s.piLevels pulse
  let s := (List.range 64).foldl (fun s k =>
    let a := nth false old k
    let b := nth false new k
    if a != b && s.edgeChosen k b then s.fireProd (64 + k) else s) s
  let s := if s.conflicts.any fun k => !conf.contains k then s.setFld addrPinStatus fldPinStatus_CONFL 1 else s
  (List.range 96).foldl (fun s i =>
    match s.pinBall pulse i with
    | some v => if (s.pin i).keep = v then s else s.modPin i fun t => { t with keep := v }
    | none => s) s

/-- A change of what drives or feeds pins. -/
def State.pinsChange (s : State) (f : State → State) : State :=
  let old := s.piLevels none
  let conf := s.conflicts
  (f s).pinsSettle none old conf

/-- A PO pulse of 4 ns (R370): the signal goes high, and low again. -/
def State.poPulse (s : State) (o : Nat) : State :=
  let old := s.piLevels none
  let conf := s.conflicts
  let s := s.pinsSettle (some o) old conf
  let high := s.piLevels (some o)
  s.pinsSettle none high conf

/-! ### Writes (R367, R369, R373) -/

/-- The bits of a word of PIN_OUT that the writer reaches, replaced. -/
def State.pinOutWrite (s : State) (w : Nat) (m v : Word) : State :=
  s.pinsChange fun s => s.wr (addrPinOut w) ((s.rd (addrPinOut w) &&& ~~~ m) ||| (v &&& m))
/-- PIN_SET, PIN_CLR, PIN_TGL. -/
def State.pinSetBits (s : State) (w : Nat) (m v : Word) : State := s.pinOutWrite w (m &&& v) 0xFFFFFFFF
def State.pinClrBits (s : State) (w : Nat) (m v : Word) : State := s.pinOutWrite w (m &&& v) 0
def State.pinTglBits (s : State) (w : Nat) (m v : Word) : State := s.pinOutWrite w (m &&& v) (~~~ s.rd (addrPinOut w))

/-- One pin's PIN_OUT bit: PINW (R370) and a timed edge. -/
def State.pinLevel (s : State) (i : Nat) (v : Bool) : State :=
  s.pinOutWrite (i / 32) (wordOf (2 ^ (i % 32))) (if v then 0xFFFFFFFF else 0)

/-- QCNT shown. -/
def State.showQcnt (s : State) (i : Nat) : State := s.setFld (addrPinTqst i) fldPinTqst_QCNT (s.pin i).edges.length

/-- A thread that waits for the pin's queue goes back to READY, and its PINT executes again. -/
def Thread.unpint (th : Thread) (i : Nat) : Thread :=
  if th.state = .waiting ∧ th.wait = .pinQueue i then { th with state := .ready, wait := .none } else th

/-- An entry of a pin's queue is free: PINT words that wait for one go on (R374). -/
def State.wakePinq (s : State) (i : Nat) : State :=
  { s with threads := s.threads.map fun x => (x.1, x.2.unpint i) }

/-- Every queued edge that has not fired discarded. -/
def State.pinFlushNow (s : State) (i : Nat) : State := ((s.modPin i fun t => { t with edges := [] }).showQcnt i).wakePinq i

/-- PIN_OWN changes what owns a pin: its timed edges and its capture go (R373). -/
def State.pinOwned (s : State) (i : Nat) : State :=
  if i < 16 then (s.pinFlushNow i).setFld (addrPinTqst i) fldPinTqst_CVALID 0 else s

/-- The consumer column or producer row that a pin's signal uses belongs to another world (R371). -/
def State.colZ (s : State) (c : Nat) : Bool := (s.rd (addrTrdCworld (c / 32))).toNat.testBit (c % 32)
def State.rowZ (s : State) (p : Nat) : Bool := (s.rd (addrTrdPworld (p / 32))).toNat.testBit (p % 32)
def State.pinCfgForeign (s : State) (i : Nat) (v : Word) : Bool :=
  let o := getF v fldPinCfg_OSEL
  let k := getF v fldPinCfg_ISEL
  (isOn v fldPinCfg_SRC && o < 64 && s.colZ (192 + o) != s.pinZ i) ||
    (isOn v fldPinCfg_IV && k < 64 && s.rowZ (64 + k) != s.pinZ i)

/-- A write of PIN_CFG is a reserved encoding (R368, R371). -/
def pinCfgBad (v : Word) : Bool :=
  let o := getF v fldPinCfg_OSEL
  let k := getF v fldPinCfg_ISEL
  getF v fldPinCfg_MODE = 3 || getF v fldPinCfg_PULL = 3 || 192 ≤ o || (66 ≤ o && o < 128) || 192 ≤ k || (64 ≤ k && k < 128)

/-! ### Timed edges and captures (R374, R375) -/

/-- The instant in pair units, on the 0.25 ns grid. -/
def pairTime (t : Nat) : Nat := t / 2 ^ 24 % 2 ^ 64
def State.pinNow (s : State) : Nat := pairTime s.aonTime
def grid (t : Nat) : Nat := t / 2 ^ 14 * 2 ^ 14

/-- The time lies before the instant: the difference taken modulo 2^64 is 2^63 or more. -/
def timePast (t now : Nat) : Bool := 2 ^ 63 ≤ (t + 2 ^ 64 - now) % 2 ^ 64

/-- An edge queued (R374). -/
def State.queueEdge (s : State) (i : Nat) (level : Bool) (time : Nat) : State :=
  let t := grid (time % 2 ^ 64)
  let ahead := match (s.pin i).edges.getLast? with
    | some e => t = e.time || timePast t e.time
    | none => false
  let e : TEdge := { level := level, time := t, late := timePast t s.pinNow || ahead }
  (s.modPin i fun p => { p with edges := p.edges ++ [e] }).showQcnt i

/-- TIMED_EDGE (R374, R475): the edge at the head of the queue is due within the present cycle and fires. -/
def execTimedEdge (i : Fin 16) (s : State) : Out :=
  match (s.pin i).edges with
  | e :: r =>
    if e.late ∨ timePast e.time (pairTime s.aonEnd) then
      let s := (s.modPin i fun p => { p with edges := r }).showQcnt i
      let s := if e.late then s.setFld (addrPinTqst i) fldPinTqst_LATE 1 else s
      .next ((s.pinLevel i e.level).wakePinq i)
    else .next s
  | [] => .next s

/-- PIN_CAPTURE (R375): a chosen edge at the ball of a precise pin. -/
def execPinCapture (i : Fin 16) (rising : Bool) (s : State) : Out :=
  let c := s.fld (addrPinTctl i) fldPinTctl_CAPE
  if (c = 1 ∧ rising) ∨ (c = 2 ∧ !rising) ∨ c = 3 then
    let a := addrPinTqst i
    let s := if s.on a fldPinTqst_CVALID then s.setFld a fldPinTqst_COVF 1
      else
        let (s, t) := s.instant
        let v := grid (pairTime t)
        ((s.wr (addrPinTcap i 0) (wordOf v)).wr (addrPinTcap i 1) (wordOf (v / 2 ^ 32))).setFld a fldPinTqst_CVALID 1
    .next (if s.on (addrPinTctl i) fldPinTctl_CIE then s.raise (0x0B00 + i) else s)
  else .next s

/-- PIN_EDGE (R368, R372): outside devices change what they put on a ball. -/
def execPinEdge (i : Fin 96) (ext : Option Bool) (s : State) : Out :=
  .next (s.pinsChange fun s => s.modPin i fun t => { t with ext := ext })

/-- BANK_POWER (R376): a bank's supply enters or leaves its range. -/
def execBankPower (k : Fin 6) (good : Bool) (s : State) : Out :=
  .next (s.pinsChange fun s => s.setFld (addrPinBank k) fldPinBank_PG (b2n good))

/-- LX_SIGNAL_CHANGE (R371): the licensee's logic changes an LX signal. -/
def State.lxChange (s : State) (k : Nat) (v : Bool) : State :=
  s.pinsChange fun s => { s with lx := tput (fun _ => false) s.lx k v }

/-- SLEEP_REQUEST (R352): the boundary input changes; the rising edge fires producer 453. -/
def execSleepRequest (level : Bool) (s : State) : Out :=
  let old := s.sleepIn
  let s := { s with sleepIn := level }
  .next (if level && !old then s.fireProd 453 else s)

end Sys2Proof.Machine
end

