-- ==== Sys2Proof/Machine/MemCmd.lean ====
section
/-! DEFINITION. What writes to the MEM unit do: scrubs (R161), raw accesses (R162), the error counters, the remap registers
(R164, R165), and the reserved encodings of regions and creel partitions (R155, R157). -/

namespace Sys2Proof.Machine

/-- A block address in the ranges of R161: laps, creel, spool arrays. -/
def inStore (a : Nat) : Bool := inLap a || inCreel a || inSpool a

/-- The first addresses of the words of the unit that a scrub of an address covers (R161). -/
def scrubWords (a : Nat) : List Nat :=
  if inCreel a then (List.range 8).map fun i => a / 64 * 64 + 8 * i else [a / eccW a * eccW a]

/-- One word scrubbed: an error that can be corrected is, an uncorrectable one is only logged (R158, R159). -/
def State.scrubWord (s : State) (m wb : Nat) : State :=
  match s.synd wb with
  | .clean => s
  | .bad => s.logUE m wb
  | _ => (s.logCE wb).mendWord wb

/-- A scrub (R161): false when the writer's regions refuse it as a write to the address; a thread's was checked at its issue, and
that check stands (R153). -/
def State.scrubUnit (s : State) (rq : Req) (a : Nat) : State × Bool :=
  let m := (masterOf rq.who)
  if rq.checked || s.granted m rq.z rq.lv .write a then ((scrubWords a).foldl (fun s wb => s.scrubWord m wb) s, true) else (s, false)

/-- The address of the raw registers' word. -/
def State.rawAddr (s : State) : Nat :=
  let a := s.fld addrMemRawaddr fldMemRawaddr_ADDR * 4
  a / eccW a * eccW a

/-- A raw read (R162): stored data and check bits, uncorrected and uncounted. -/
def State.rawReadOp (s : State) : State :=
  let a := s.rawAddr
  let w := eccW a
  let v := leBytes ((List.range w).map fun i => memByte s.mem (a + i))
  let chk := checkBits w v ^^^ (tget (fun _ => (0 : BitVec 8)) s.syn a).toNat
  ((s.wr addrMemRawlo (wordOf v)).wr addrMemRawhi (wordOf (v / 2 ^ 32))).wr addrMemRawchk (wordOf chk)

/-- A raw write (R162). -/
def State.rawWriteOp (s : State) : State :=
  let a := s.rawAddr
  let w := eccW a
  let v := (s.rd addrMemRawlo).toNat + (if w = 8 then (s.rd addrMemRawhi).toNat * 2 ^ 32 else 0)
  let chk := s.fld addrMemRawchk fldMemRawchk_CHK % 2 ^ (if w = 8 then 8 else 7)
  { s with mem := memPuts s.mem a (bytesLE w v), syn := tput (fun _ => 0) s.syn a (BitVec.ofNat 8 (chk ^^^ checkBits w v)) }

/-- MEM_ECCCTL.CLR (R161). -/
def State.eccClear (s : State) : State := (s.setFld addrMemEccst fldMemEccst_CECNT 0).setFld addrMemEccst fldMemEccst_UECNT 0

/-- The words of a row of a creel bank (R144), and of a lap bank (R143), by their first addresses. -/
def creelRow (b row : Nat) : List Nat :=
  (List.range 16).flatMap fun l => (List.range 8).map fun i => 0x10000000 + (16 * row + l) * 4096 + b * 64 + 8 * i
def lapRow (n b row : Nat) : List Nat := (List.range 128).map fun i => lapBlk n ((row * 128 + i) * 64 + b * 8)

/-- A word whose contents a spare row has made unspecified (R165): eight free bytes and free check bits. -/
def State.freeWordAt (s : State) (a : Nat) : State :=
  let k := s.free
  { s with free := k + 9, mem := memPuts s.mem a ((List.range 8).map fun i => Config.freeByte (k + i)),
           syn := tput (fun _ => 0) s.syn a (Config.freeByte (k + 8)) }

/-- The valid spares of a bank that name a row. -/
def State.sparesOn (s : State) (cnt : Nat) (adr : Nat → Nat) (rowB : Bits) (row : Nat) : Nat :=
  ((List.range cnt).filter fun k => s.on (adr k) ⟨31, 31⟩ && s.fld (adr k) rowB = row).length

/-- The spare that serves a row: the lowest-numbered valid one that names it (R165). -/
def State.serving (s : State) (cnt : Nat) (adr : Nat → Nat) (rowB : Bits) (row : Nat) : Option Nat :=
  firstBelow cnt fun k => s.on (adr k) ⟨31, 31⟩ && s.fld (adr k) rowB = row

/-- Where the array's own row lies while a spare serves it: this far above its block address, which no access reaches. -/
def rowAway : Nat := 2 ^ 40

/-- A word moved with its check bits. -/
def State.moveWord (s : State) (src dst : Nat) : State :=
  { s with mem := memPuts (memPuts s.mem dst ((List.range 8).map fun i => memByte s.mem (src + i))) src (List.replicate 8 0),
           syn := tput (fun _ => 0) (tput (fun _ => 0) s.syn dst (tget (fun _ => (0 : BitVec 8)) s.syn src)) src 0 }

/-- A row passes from one home to another: a spare that takes it over holds unspecified contents (R165), and the array's own row
keeps what it held. -/
def State.rowTo (s : State) (words : List Nat) (old new : Option Nat) : State :=
  if old = new then s
  else
    let s := if old = none then words.foldl (fun s a => s.moveWord a (a + rowAway)) s else s
    match new with
    | some _ => words.foldl State.freeWordAt s
    | none => words.foldl (fun s a => s.moveWord (a + rowAway) a) s

/-- DUP when two valid spares of a bank name the row of one (R165). -/
def State.dupCheck (s : State) (adr : Nat → Nat) (cnt k : Nat) (rowB : Bits) : State :=
  if s.on (adr k) ⟨31, 31⟩ && 2 ≤ s.sparesOn cnt adr rowB (s.fld (adr k) rowB) then
    s.setFld addrMemRemapctl fldMemRemapctl_DUP 1
  else s

/-- A remap register written (R164, R165): refused while LOCK is 1 or for a maker entry; otherwise the entry is set, and the rows
that it names now or named before pass to the spare that serves them, or back to the array. -/
def State.remap (s : State) (adr : Nat → Nat) (cnt k : Nat) (rowB : Bits) (row : Nat → List Nat) (v : Word) : State :=
  let a := adr k
  if s.on addrMemRemapctl fldMemRemapctl_LOCK || s.on a ⟨30, 30⟩ then s.setFld addrMemRemapctl fldMemRemapctl_REFUSED 1
  else
    let r0 := s.fld a rowB
    let t := s.wr a (setF v ⟨30, 30⟩ 0)
    let r1 := t.fld a rowB
    let move := fun (u : State) (r : Nat) => u.rowTo (row r) (s.serving cnt adr rowB r) (t.serving cnt adr rowB r)
    (if r0 = r1 then move t r1 else move (move t r0) r1).dupCheck adr cnt k rowB

/-! ### Reserved encodings (R155, R157, R161, R162, R164) -/

/-- A region's attributes as a write would leave them are a reserved encoding (R155). -/
def rgnBad (m : Nat) (attr base lim : Word) : Bool :=
  let x := isOn attr fldMemRgnattr_X
  let rw := isOn attr fldMemRgnattr_R || isOn attr fldMemRgnattr_W
  let sp := isOn attr fldMemRgnattr_SPACE
  (x && !sp) || (rw && sp) || (sp && 40 ≤ m) ||
    (isOn attr fldMemRgnattr_EN && getF lim fldMemRgnlim_LIMIT < getF base fldMemRgnbase_BASE)

/-- Two valid partition entries overlap. -/
def State.cpOverlaps (s : State) (k base lim : Nat) : Bool :=
  (List.range 32).any fun j => j ≠ k && s.on (addrMemCpattr j) fldMemCpattr_V &&
    s.fld (addrMemCpbase j) fldMemCpbase_BASE ≤ lim && base ≤ s.fld (addrMemCplim j) fldMemCplim_LIMIT

/-- A partition entry as a write would leave it is a reserved encoding (R157). -/
def State.cpBad (s : State) (k : Nat) (attr base lim : Word) : Bool :=
  let b := getF base fldMemCpbase_BASE
  let l := getF lim fldMemCplim_LIMIT
  let use := getF attr fldMemCpattr_USE
  let wh := getF attr fldMemCpattr_WHORL
  let old := s.fld (addrMemCpattr k) fldMemCpattr_USE
  let fixed := fun u => 2 ≤ u && u ≤ 4
  8 ≤ use || (isOn attr fldMemCpattr_V &&
      (b < 0x10B0 || 0x15FF < l || l < b || s.cpOverlaps k b l || 40 ≤ wh || (wh ≠ 0 && use ≠ 5))) ||
    (s.on addrMemRemapctl fldMemRemapctl_LOCK && (fixed old || fixed use))

end Sys2Proof.Machine
end

