-- ==== Sys2Proof/Machine/PlyMath.lean ====
section
/-! DEFINITION. The arithmetic of the ply units (R286 to R292): formats and forms, exact accumulation, the single rounding,
and the combination of one output element from its inputs. -/

namespace Sys2Proof.Machine

/-! ### Formats and forms (R286, R287) -/

/-- Bytes of a native value of FMT 0 to 6. -/
def nativeSize (fmt : Nat) : Nat := nth 0 [4, 8, 2, 4, 2, 4, 8] fmt
/-- Bits of an integer or fixed-point format. -/
def intBits (fmt : Nat) : Nat := nth 0 [32, 64, 16, 32] fmt
/-- Bits of its guarded form, and the bytes of a guarded element. -/
def guardBits (fmt : Nat) : Nat := intBits fmt + 16
def guardSize (fmt : Nat) : Nat := nth 0 [8, 16, 4, 8] fmt
/-- Fraction bits, value bits and bytes of E80, E320 and E2176 (forms 2 to 4). -/
def exFrac (form : Nat) : Nat := nth 0 [0, 0, 24, 149, 1074] form
def exBits (form : Nat) : Nat := nth 0 [0, 0, 80, 320, 2176] form
def exSize (form : Nat) : Nat := nth 0 [0, 0, 16, 64, 320] form
/-- Bytes of an element of a form. -/
def formSize (fmt form : Nat) : Nat :=
  match form with
  | 0 => nativeSize fmt
  | 1 => guardSize fmt
  | f => exSize f

/-- Precision, least exponent and width of the float formats 4 to 6 (R289). -/
def ffP (fmt : Nat) : Nat := nth 1 [1, 1, 1, 1, 11, 24, 53] fmt
def ffEmin (fmt : Nat) : Int := nth 0 [0, 0, 0, 0, -14, -126, -1022] fmt
def ffBits (fmt : Nat) : Nat := nth 2 [2, 2, 2, 2, 16, 32, 64] fmt
/-- The default NaN. -/
def ffNaN (fmt : Nat) : Nat := nth 0 [0, 0, 0, 0, 0x7E00, 0x7FC00000, 0x7FF8000000000000] fmt
/-- The bits of +infinity. -/
def ffInf (fmt : Nat) : Nat := (2 ^ (ffBits fmt - ffP fmt) - 1) * 2 ^ (ffP fmt - 1)
/-- The sign bit. -/
def ffSign (fmt : Nat) (neg : Bool) : Nat := if neg then 2 ^ (ffBits fmt - 1) else 0

/-- A float taken apart: a NaN, an infinity, or sign, significand and the exponent of its lowest bit. -/
inductive FVal where
  | nan
  | inf (neg : Bool)
  | fin (neg : Bool) (m : Nat) (q : Int)
  deriving DecidableEq, Repr

/-- The value that a format's bits hold. -/
def ffDecode (fmt v : Nat) : FVal :=
  let p := ffP fmt
  let neg := v.testBit (ffBits fmt - 1)
  let e := v / 2 ^ (p - 1) % 2 ^ (ffBits fmt - p)
  let m := v % 2 ^ (p - 1)
  if e = 2 ^ (ffBits fmt - p) - 1 then (if m = 0 then .inf neg else .nan)
  else .fin neg (if e = 0 then m else m + 2 ^ (p - 1)) (((max e 1 : Nat) : Int) - 1 + ffEmin fmt - ((p - 1 : Nat) : Int))

/-- A product: a NaN factor, or an infinity times 0, counts as a NaN (R292). -/
def FVal.mul : FVal → FVal → FVal
  | .nan, _ => .nan
  | _, .nan => .nan
  | .inf a, .inf b => .inf (xor a b)
  | .inf a, .fin b m _ => if m = 0 then .nan else .inf (xor a b)
  | .fin a m _, .inf b => if m = 0 then .nan else .inf (xor a b)
  | .fin a m q, .fin b n r => .fin (xor a b) (m * n) (q + r)

/-! ### Exact accumulation (R288) -/

/-- An accumulator: X and the flags of an E form. -/
structure Ex where
  x     : Int := 0
  nan   : Bool := false
  pinf  : Bool := false
  ninf  : Bool := false
  alln  : Bool := true
  anz   : Bool := false
  ovf   : Bool := false
  deriving DecidableEq, Repr

/-- A native term with `f` fraction bits. -/
def exTerm (f : Nat) : FVal → Ex
  | .nan => { nan := true, alln := false }
  | .inf neg => { pinf := !neg, ninf := neg, alln := false }
  | .fin neg m q =>
    if m = 0 then { alln := neg }
    else
      let v : Int := ((m * 2 ^ (q + (f : Int)).toNat : Nat) : Int)
      { x := if neg then -v else v, alln := false, anz := true }

/-- Two accumulators merged. -/
def exMerge (a b : Ex) : Ex :=
  { x := a.x + b.x, nan := a.nan || b.nan, pinf := a.pinf || b.pinf, ninf := a.ninf || b.ninf,
    alln := a.alln && b.alln, anz := a.anz || b.anz, ovf := a.ovf || b.ovf }

/-- The range limit of a `b`-bit two's complement value. -/
def satRange (b : Nat) (v : Int) : Int := max (-(2 ^ (b - 1) : Nat)) (min v ((2 ^ (b - 1) - 1 : Nat)))

/-- The accumulator held within `b` bits. -/
def exSat (b : Nat) (a : Ex) : Ex × Bool :=
  let v := satRange b a.x
  if v = a.x then (a, false) else ({ a with x := v, ovf := true }, true)

/-- An element of an E form read, with the fraction bits of the accumulator. -/
def exRead (form accForm : Nat) (d : List Byte) : Ex :=
  let x := signedOf (exBits form) (leBytes (d.take (exBits form / 8)))
  let fl := (nth 0 d (exSize form - 1)).toNat
  { x := x * (2 ^ (exFrac accForm - exFrac form) : Nat), nan := fl.testBit 0, pinf := fl.testBit 1, ninf := fl.testBit 2,
    alln := fl.testBit 3, anz := fl.testBit 4, ovf := fl.testBit 5 }

/-- The flag byte. -/
def exFlags (a : Ex) : Nat :=
  b2n a.nan + 2 * b2n a.pinf + 4 * b2n a.ninf + 8 * b2n a.alln + 16 * b2n a.anz + 32 * b2n a.ovf

/-- The largest finite significand value of a format compared: |m| x 2^q exceeds maxf. -/
def ffExceeds (fmt m : Nat) (q : Int) : Bool :=
  let p := ffP fmt
  let qmin := ffEmin fmt - ((p - 1 : Nat) : Int)
  let qmax := 1 - ffEmin fmt - ((p - 1 : Nat) : Int)
  (2 ^ p - 1) * 2 ^ (qmax - qmin).toNat < m * 2 ^ (q - qmin).toNat

/-- The overflow rule of R289: the result's bits without the sign. -/
def ffOver (fmt : Nat) (rm : RMode) (neg : Bool) : Nat :=
  match rm with
  | .rne => ffInf fmt
  | .rna => ffInf fmt
  | .rtz => ffInf fmt - 1
  | .floor => if neg then ffInf fmt else ffInf fmt - 1

/-- What rounding may report: NV and OF. -/
structure Rounded where
  v  : Nat
  nv : Bool := false
  of_ : Bool := false
  deriving DecidableEq, Repr

/-- round_float of R289, for an accumulator with `f` fraction bits. `zneg` is the sign of a result that underflows to 0,
which the spec does not state. -/
def roundFloat (fmt f : Nat) (rm : RMode) (zneg : Bool) (a : Ex) : Rounded :=
  let p := ffP fmt
  let neg := decide (a.x < 0)
  if a.nan || (a.pinf && a.ninf) then { v := ffNaN fmt, nv := true }
  else if a.pinf then { v := ffInf fmt }
  else if a.ninf then { v := ffInf fmt + ffSign fmt true }
  else if a.ovf then { v := ffOver fmt rm neg + ffSign fmt neg, of_ := true }
  else if a.x = 0 then { v := ffSign fmt (a.alln || (a.anz && rm = .floor)) }
  else
    let e : Int := (a.x.natAbs.log2 : Int) - f
    let qmin := ffEmin fmt - ((p - 1 : Nat) : Int)
    let q := max (e - ((p - 1 : Nat) : Int)) qmin
    let m := roundTo a.x (q + f).toNat rm
    if m = 0 then { v := ffSign fmt zneg }
    else if ffExceeds fmt m.natAbs q then { v := ffOver fmt rm neg + ffSign fmt neg, of_ := true }
    else { v := (q - qmin).toNat * 2 ^ (p - 1) + m.natAbs + ffSign fmt neg }

/-! ### One output element -/

/-- What a pass asks of each element: FUNC, FMT, RM, SAT, OFORM, PM (R284). -/
structure PlyOp where
  func  : Nat
  fmt   : Nat
  rm    : RMode
  sat   : Bool
  oform : Nat
  pm    : Bool
  deriving DecidableEq, Repr

/-- The operation that word 0 of a request block states. -/
def plyOpOf (w : Nat) : PlyOp :=
  { func := natField w ⟨31, 28⟩, fmt := natField w ⟨27, 24⟩, rm := rmodeOf (natField w ⟨23, 22⟩), sat := w.testBit 21,
    oform := natField w ⟨20, 18⟩, pm := w.testBit 14 }

/-- An input of an element: its form, its bytes, and under WSUM its scale and weight in the format. -/
structure PlyIn where
  form  : Nat
  data  : List Byte
  scale : Nat := 0
  weight : Nat := 0
  deriving DecidableEq, Repr

/-- An output element and the flags it sets. -/
structure PlyOut where
  bytes : List Byte
  gov   : Bool := false
  qs    : Bool := false
  of_   : Bool := false
  nv    : Bool := false
  deriving DecidableEq, Repr

/-- A native integer or fixed-point value. -/
def intOf (fmt : Nat) (d : List Byte) : Int := signedOf (intBits fmt) (leBytes (d.take (nativeSize fmt)))
/-- The value of an integer input, native or guarded. -/
def PlyIn.int (i : PlyIn) (fmt : Nat) : Int :=
  if i.form = 1 then signedOf (guardBits fmt) (leBytes (i.data.take (guardSize fmt))) else intOf fmt i.data
/-- The float that a native input holds. -/
def PlyIn.flt (i : PlyIn) (fmt : Nat) : FVal := ffDecode fmt (leBytes (i.data.take (nativeSize fmt)))

/-- A native integer result (R290). -/
def intOut (o : PlyOp) (v : Int) (gov : Bool) : PlyOut :=
  let b := intBits o.fmt
  let r := if o.sat then satRange b v else v
  { bytes := bytesLE (nativeSize o.fmt) (wrapTo b r), gov := gov, qs := o.sat && r ≠ v }

/-- The accumulator form of a float combination (R286). -/
def accForm (o : PlyOp) (ins : List PlyIn) : Nat :=
  let base := if o.func = 6 then (if o.fmt = 4 then 3 else 4) else (if o.fmt = 4 then 2 else if o.fmt = 5 then 3 else 4)
  ins.foldl (fun m i => max m i.form) (max base o.oform)

/-- The accumulated value written in an E form, with `fr` for an element whose value the narrower form cannot hold. -/
def exWrite (form acc : Nat) (fr : Nat → Byte) (a : Ex) : List Byte :=
  let k := exFrac acc - exFrac form
  let x := a.x / (2 ^ k : Nat)
  if x * (2 ^ k : Nat) = a.x ∧ satRange (exBits form) x = x then
    padTo (exSize form - 1) 0 (bytesLE (exBits form / 8) (wrapTo (exBits form) x)) ++ bytesLE 1 (exFlags a)
  else (List.range (exSize form)).map fr

/-- SUM (R286, R288 to R290). -/
def plySum (o : PlyOp) (zneg : Bool) (fr : Nat → Byte) (ins : List PlyIn) : PlyOut :=
  if o.fmt < 4 then
    let v := ins.foldl (fun a i => a + i.int o.fmt) 0
    let g := satRange (guardBits o.fmt) v
    if o.oform = 1 then { bytes := bytesLE (guardSize o.fmt) (wrapTo (8 * guardSize o.fmt) g), gov := g ≠ v }
    else intOut o g (g ≠ v)
  else
    let af := accForm o ins
    let a := ins.foldl (fun a i => exMerge a (if 2 ≤ i.form then exRead i.form af i.data else exTerm (exFrac af) (i.flt o.fmt))) {}
    let (a, gov) := exSat (exBits af) a
    if o.oform = 0 then
      let r := roundFloat o.fmt (exFrac af) o.rm zneg a
      { bytes := bytesLE (nativeSize o.fmt) r.v, gov := gov, of_ := r.of_, nv := r.nv }
    else { bytes := exWrite o.oform af fr a, gov := gov }

/-- The order of floats for MIN and MAX: -0 lies below +0 (R291). -/
def ffKey (fmt v : Nat) : Int :=
  let m := v % 2 ^ (ffBits fmt - 1)
  if v.testBit (ffBits fmt - 1) then -(m : Int) - 1 else m

/-- The least or greatest of the native values, and the bitwise functions (R291). -/
def plyPick (o : PlyOp) (ins : List PlyIn) : PlyOut :=
  let n := nativeSize o.fmt
  let vs := ins.map fun i => leBytes (i.data.take n)
  let key := fun v => if o.fmt < 4 then signedOf (intBits o.fmt) v else ffKey o.fmt v
  match vs with
  | [] => { bytes := [] }
  | v :: r =>
    if 4 ≤ o.fmt ∧ vs.any (fun x => ffDecode o.fmt x = .nan) then { bytes := bytesLE n (ffNaN o.fmt), nv := true }
    else
      let f := fun a b =>
        match o.func with
        | 1 => if key b < key a then b else a
        | 2 => if key a < key b then b else a
        | 3 => a &&& b
        | 4 => a ||| b
        | _ => a ^^^ b
      { bytes := bytesLE n (r.foldl f v) }

/-- The product of an input under WSUM (R292). -/
def PlyIn.prodInt (i : PlyIn) (o : PlyOp) : Int :=
  let s := signedOf (intBits o.fmt) i.scale
  let w := if o.pm then 1 else signedOf (intBits o.fmt) i.weight
  s * w * i.int o.fmt
def PlyIn.prodFlt (i : PlyIn) (o : PlyOp) : FVal :=
  let p := (ffDecode o.fmt i.scale).mul (i.flt o.fmt)
  if o.pm then p else (ffDecode o.fmt i.weight).mul p

/-- WSUM (R292); `base` is an unscaled term, the destination value of an ACCUM pass. -/
def plyWsum (o : PlyOp) (zneg : Bool) (fr : Nat → Byte) (base : Option PlyIn) (ins : List PlyIn) : PlyOut :=
  if o.fmt < 4 then
    let r := if o.fmt < 2 then 0 else (intBits o.fmt - 1) * (if o.pm then 1 else 2)
    let b := match base with | some d => d.int o.fmt * (2 ^ r : Nat) | none => 0
    intOut o (roundTo (ins.foldl (fun a i => a + i.prodInt o) b) r o.rm) false
  else
    let af := accForm o ins
    let z : Ex := match base with | some d => exTerm (exFrac af) (d.flt o.fmt) | none => {}
    let (a, gov) := exSat (exBits af) (ins.foldl (fun a i => exMerge a (exTerm (exFrac af) (i.prodFlt o))) z)
    if o.oform = 0 then
      let r := roundFloat o.fmt (exFrac af) o.rm zneg a
      { bytes := bytesLE (nativeSize o.fmt) r.v, gov := gov, of_ := r.of_, nv := r.nv }
    else { bytes := exWrite o.oform af fr a, gov := gov }

/-- One output element of a MERGE pass. -/
def plyCombine (o : PlyOp) (zneg : Bool) (fr : Nat → Byte) (ins : List PlyIn) : PlyOut :=
  match o.func with
  | 0 => plySum o zneg fr ins
  | 6 => plyWsum o zneg fr none ins
  | _ => plyPick o ins

/-- One element of an ACCUM pass: d and s combined (R294). -/
def plyAccum (o : PlyOp) (zneg : Bool) (fr : Nat → Byte) (d s : PlyIn) : PlyOut :=
  match o.func with
  | 0 => plySum o zneg fr [d, s]
  | 6 => plyWsum o zneg fr (some d) [s]
  | _ => plyPick o [d, s]

/-- A combination of R286: the stream forms and OFORM that FUNC and FMT permit. -/
def plyFormOk (func fmt form : Nat) : Bool :=
  match func with
  | 0 => if fmt < 4 then form ≤ 1 else if fmt = 4 then [0, 2, 3, 4].contains form else if fmt = 5 then [0, 3, 4].contains form
         else [0, 4].contains form
  | _ => form = 0
def plyOformOk (func fmt oform : Nat) : Bool :=
  match func with
  | 0 => plyFormOk 0 fmt oform
  | 6 => if fmt < 4 then oform = 0 else if fmt = 4 then [0, 3, 4].contains oform else if fmt = 5 then [0, 4].contains oform else false
  | 1 => oform = 0
  | 2 => oform = 0
  | _ => fmt < 2 && oform = 0

end Sys2Proof.Machine
end

