-- ==== Sys2Proof/Machine/Ply.lean ====
section
/-! DEFINITION. The ply units (R281 to R305): request blocks, passes and their faults, streams, fences, result buffers and
commit groups. -/

namespace Sys2Proof.Machine

/-- A ply unit. -/
def State.ply (s : State) (u : Nat) : Ply := tget (fun _ => {}) s.plys u
/-- A ply unit changed. -/
def State.modPly (s : State) (u : Nat) (f : Ply → Ply) : State := { s with plys := tset s.plys u (f (s.ply u)) }
/-- RUN: 0 IDLE, 1 RUNNING, 2 FAULTED. -/
def State.plyRun (s : State) (u : Nat) : Nat := s.fld (addrPlyStatus u) fldPlyStatus_RUN
/-- RUN and QCNT shown. -/
def State.plyShow (s : State) (u run : Nat) : State :=
  (s.setFld (addrPlyStatus u) fldPlyStatus_RUN run).setFld (addrPlyStatus u) fldPlyStatus_QCNT (s.ply u).passes.length

/-- A ply counter counted up. -/
def State.plyCount (s : State) (u i : Nat) : State := s.bump (addrPlyCnt u i) fldPlyCnt_COUNT

/-- The unit is open to a world (R281, R301). -/
def State.plyOpen (s : State) (u : Nat) (z : Bool) : Bool :=
  let w := s.fld (addrPlyOwn u) fldPlyOwn_WORLDS
  (w.testBit (b2n z)) && !(z && s.on (addrPlyOwn u) fldPlyOwn_PIN)

/-- An address lies in the peer-lap or creel range. -/
def inPly (a : Nat) : Bool := inCreel a || inLap a
/-- A run of bytes lies in one of them. -/
def plyRange (a n : Nat) : Bool := (inCreel a && inCreel (a + n - 1)) || (inLap a && inLap (a + n - 1))
/-- A run of bytes lies in one of them and the unit's regions grant it (R142, R152). -/
def State.plyMay (s : State) (u : Nat) (z lv : Bool) (k : AccKind) (a n : Nat) : Bool :=
  plyRange a n && s.grantedAll (48 + u) z lv k a n

/-! ### Result buffers and request blocks (R284 to R287, R297) -/

/-- FLIPCNT of a result buffer. -/
def State.flipcnt (s : State) (b : Nat) : Nat := s.fld (addrPlyRbst b) fldPlyRbst_FLIPCNT
/-- The back half of a buffer: B while FLIPCNT[0] is 0. -/
def State.backHalf (s : State) (b : Nat) : Nat :=
  (if s.flipcnt b % 2 = 0 then s.fld (addrPlyRbb b) fldPlyRbb_BASE else s.fld (addrPlyRba b) fldPlyRba_BASE) * 64
/-- The world of a buffer. -/
def State.rbZ (s : State) (b : Nat) : Bool := s.on (addrPlyRbsz b) fldPlyRbsz_WORLD

/-- Word `i` of a block. -/
def Pass.w (p : Pass) (i : Nat) : Nat := nth 0 p.blk i
/-- MODE is ACCUM. -/
def Pass.accum (p : Pass) : Bool := (p.w 0).testBit 13
/-- The number of streams. -/
def Pass.nin (p : Pass) : Nat := natField (p.w 0) ⟨17, 15⟩ + 1
/-- The operation. -/
def Pass.op (p : Pass) : PlyOp := plyOpOf (p.w 0)
/-- COUNT. -/
def Pass.count (p : Pass) : Nat := p.w 1
/-- RBUF. -/
def Pass.rbuf (p : Pass) : Nat := natField (p.w 2) ⟨29, 24⟩
/-- FORM, SRC and ARG of stream `k` (R285). -/
def Pass.form (p : Pass) (k : Nat) : Nat := natField (p.w (3 + k)) ⟨31, 29⟩
def Pass.src (p : Pass) (k : Nat) : Nat := natField (p.w (3 + k)) ⟨28, 27⟩
def Pass.arg (p : Pass) (k : Nat) : Nat := natField (p.w (3 + k)) ⟨25, 0⟩

/-- The world of a skein context that is not CLOSED, from the descriptor it loaded (R318). -/
def State.sknZ (s : State) (c : Nat) : Option Bool :=
  if s.fld (addrSknCst c) fldSknCst_STATE = 0 then none
  else some ((nth 0 (tget (fun _ => {}) s.skns c : SkCtx).desc 0).testBit 30)

/-- Another unit's running or queued pass writes a buffer. -/
def State.bufTaken (s : State) (u b : Nat) : Bool :=
  (List.range 16).any fun v => v ≠ u && (s.ply v).passes.any fun p => !p.accum && p.rbuf = b

/-- Word 0 of a block breaks a rule of R284, R286 or R294. -/
def blkBad0 (w : Nat) : Bool :=
  let o := plyOpOf w
  7 ≤ o.func || 7 ≤ o.fmt || (o.sat && 4 ≤ o.fmt) || (o.pm && o.func ≠ 6) || natField w ⟨12, 0⟩ ≠ 0 ||
    !plyOformOk o.func o.fmt o.oform ||
    (w.testBit 13 && (natField w ⟨17, 15⟩ ≠ 0 || (o.func = 6 && !o.pm)))

/-- Word 2 breaks a rule of R284 or R297. -/
def State.blkBad2 (s : State) (u : Nat) (z : Bool) (p : Pass) : Bool :=
  let w := p.w 2
  if p.accum then w ≠ 0
  else
    natField w ⟨31, 30⟩ ≠ 0 || s.rbZ p.rbuf != z || s.bufTaken u p.rbuf ||
      s.fld (addrPlyRbsz p.rbuf) fldPlyRbsz_SIZE <
        natField w ⟨23, 0⟩ * 64 + p.count * formSize p.op.fmt p.op.oform

/-- Stream word `k` breaks a rule of R284 to R286 or R294. -/
def State.blkBadStream (s : State) (z : Bool) (p : Pass) (k : Nat) : Bool :=
  let w := p.w (3 + k)
  if p.nin ≤ k then w ≠ 0
  else
    w.testBit 26 || p.src k = 3 || !plyFormOk p.op.func p.op.fmt (p.form k) ||
      (p.src k = 0 && p.arg k ≠ 0) || (p.src k = 1 && !inPly (p.arg k * 64)) ||
      (p.src k = 2 && (256 ≤ p.arg k || s.sknZ (p.arg k) = some (!z))) ||
      (p.accum && (p.src k ≠ 0 || p.form k ≠ p.op.oform))

/-- The address of a weight: WBASE + k × WSTR + i × the native size (R292). -/
def Pass.weight (p : Pass) (k i : Nat) : Int :=
  ((p.w 12 : Nat) : Int) + (k : Int) * signedOf 32 (p.w 13) + ((i * nativeSize p.op.fmt : Nat) : Int)

/-- The weight table lies in the peer-lap or creel range, row by row (R292). -/
def Pass.weightsIn (p : Pass) : Bool :=
  (List.range p.nin).all fun k =>
    0 ≤ p.weight k 0 && plyRange (p.weight k 0).toNat (p.count * nativeSize p.op.fmt)

/-- Words 11 to 15 break a rule of R284 or R292. -/
def blkBadTail (p : Pass) (i : Nat) : Bool :=
  let w := p.w i
  let ws := p.op.func = 6
  match i with
  | 11 => if ws then w % 64 ≠ 0 || !inPly w else w ≠ 0
  | 12 => if ws && !p.op.pm then !p.weightsIn else w ≠ 0
  | 13 => if ws && !p.op.pm then false else w ≠ 0
  | 14 => natField w ⟨31, 17⟩ ≠ 0
  | _ => w ≠ 0

/-- The first word of a block that makes it invalid. -/
def State.blkBad (s : State) (u : Nat) (z : Bool) (p : Pass) : Option Nat :=
  firstBelow 16 fun i =>
    match i with
    | 0 => blkBad0 (p.w 0)
    | 1 => p.count = 0
    | 2 => s.blkBad2 u z p
    | i => if i < 11 then s.blkBadStream z p (i - 3) else blkBadTail p i

/-! ### Fences (R295, R296) -/

/-- The entry of an FID, or a free one. -/
def State.fenceEntry (s : State) (u fid : Nat) : Option Nat :=
  let held := fun j => s.on (addrPlyFence u j) fldPlyFence_PEND || s.on (addrPlyFence u j) fldPlyFence_COUNT
  match firstBelow 64 fun j => held j && s.fld (addrPlyFence u j) fldPlyFence_FID = fid with
  | some j => some j
  | none => firstBelow 64 fun j => !held j

/-- A post can be taken (R282, R296): an entry is found, and neither of its counts is 255 (the pending one: DESIGN CHOICE, log
108). -/
def State.canPost (s : State) (u fid : Nat) : Option Nat :=
  match s.fenceEntry u fid with
  | some j =>
    if s.fld (addrPlyFence u j) fldPlyFence_PEND < 255 ∧ s.fld (addrPlyFence u j) fldPlyFence_COUNT < 255 then some j else none
  | none => none

/-- Elements accepted before a post are still in use. -/
def State.postWaits (s : State) (u mark : Nat) : Bool := (s.ply u).inq.any fun x => x.1 < mark

/-- A pending post of an entry becomes recorded. -/
def State.recordOne (s : State) (u j : Nat) : State :=
  let a := addrPlyFence u j
  (s.setFld a fldPlyFence_PEND (s.fld a fldPlyFence_PEND - 1)).setFld a fldPlyFence_COUNT (s.fld a fldPlyFence_COUNT + 1)

/-- The first post of an FID that waits for nothing leaves the list. -/
def State.postDue (s : State) (u fid : Nat) : List (Nat × Nat) → Option (List (Nat × Nat))
  | [] => none
  | x :: r => if x.1 = fid && !s.postWaits u x.2 then some r else (s.postDue u fid r).map (x :: ·)

/-- The posts of an entry that wait for nothing become recorded, as long as the recorded count is below 255 (the rest stay pending:
DESIGN CHOICE, log 108). -/
def State.recordUp : Nat → State → Nat → Nat → State
  | 0, s, _, _ => s
  | fuel + 1, s, u, j =>
    match s.postDue u (s.fld (addrPlyFence u j) fldPlyFence_FID) (s.ply u).posts with
    | some l =>
      if s.fld (addrPlyFence u j) fldPlyFence_COUNT < 255 then
        State.recordUp fuel ((s.recordOne u j).modPly u fun t => { t with posts := l }) u j
      else s
    | none => s
def State.recordFid (s : State) (u j : Nat) : State := State.recordUp (s.ply u).posts.length s u j

/-- A fence posted in entry `j` (R295): pending, and recorded at once when nothing accepted before it is in use. -/
def State.postAt (s : State) (u j fid : Nat) : State :=
  let a := addrPlyFence u j
  let s := (s.setFld a fldPlyFence_FID fid).setFld a fldPlyFence_PEND (s.fld a fldPlyFence_PEND + 1)
  let s := (s.modPly u fun t => { t with posts := t.posts ++ [(fid, t.seq)] }).plyCount u 2
  s.recordFid u j

/-- A fence recorded at once: the post of a pass at its completion. -/
def State.postDone (s : State) (u j fid : Nat) : State :=
  let a := addrPlyFence u j
  (((s.setFld a fldPlyFence_FID fid).setFld a fldPlyFence_COUNT (s.fld a fldPlyFence_COUNT + 1)).plyCount u 2)

/-! ### Passes (R283, R288, R293, R303) -/

/-- A running pass faults (R303). -/
def State.plyFault (s : State) (u detail addr : Nat) : State :=
  let s := (s.wr (addrPlyFdet u) (wordOf detail)).wr (addrPlyFaddr u) (wordOf addr)
  (((s.plyShow u 2).plyCount u 3).raise (0x0480 + 4 * u + 1)).fireProd (224 + u)

/-- The scales of a WSUM pass read, or the DETAIL of the fault. -/
def State.readScales (s : State) (u : Nat) (p : Pass) : State × Except Nat (List Nat) :=
  if p.op.func = 6 then
    if !s.plyMay u p.z p.lv .read (p.w 11) 64 then (s, .error 2)
    else match s.memRead (48 + u) (p.w 11) 64 with
      | (s, none) => (s, .error 3)
      | (s, some d) => (s, .ok ((List.range 8).map fun k => leBytes ((d.drop (8 * k)).take (nativeSize p.op.fmt))))
  else (s, .ok [])

/-- The first pass held starts when none runs: the back half is fixed and the scales are read. -/
def State.plyStart (s : State) (u : Nat) : State :=
  match (s.ply u).passes, (s.ply u).started with
  | p :: r, false =>
    let out := if p.accum then 0 else s.backHalf p.rbuf + natField (p.w 2) ⟨23, 0⟩ * 64
    let s := if p.accum then s else s.setFld (addrPlyRbst p.rbuf) fldPlyRbst_BUSY 1
    let (s, sc) := s.readScales u p
    let p := { p with out := out, scales := match sc with | .ok l => l | .error _ => [] }
    let s := s.modPly u fun t => { t with passes := p :: r, started := true, taken := List.replicate 8 0 }
    let s := (s.wr (addrPlyDone u) 0).plyShow u 1
    match sc with
    | .ok _ => s
    | .error d => s.plyFault u d (p.w 11)
  | _, _ => s

/-- Bytes read for a pass: none when the regions refuse them, else the bytes and whether they are bad. -/
def State.plyRead (s : State) (u : Nat) (p : Pass) (a n : Nat) : State × Option (List Byte × Bool) :=
  if !s.plyMay u p.z p.lv .read a n then (s, none)
  else match s.memRead (48 + u) a n with
    | (s, some d) => (s, some (d, false))
    | (s, none) => (s, some (List.replicate n 0, true))

/-- The 256-byte chunks of a contribution of a context: VLEN + 1 bytes (R317, R321). -/
def SkCtx.chunks (t : SkCtx) : Nat := (natField (nth 0 t.desc 1) ⟨19, 0⟩ + 256) / 256

/-- The members of a group, in ascending number. -/
def SkCtx.group (t : SkCtx) (g : Nat) : List Nat := t.members.filter fun d => d / 64 = g

/-- The contribution that a context holds of a member of its group, as far as it has arrived: the bytes from the first chunk on, and
whether all of them are there. This device's own is whole once its operation has begun. -/
def State.contribSoFar (s : State) (t : SkCtx) (opseq d : Nat) : List Byte × Bool :=
  let n := natField (nth 0 t.desc 1) ⟨19, 0⟩ + 1
  if d = s.devId then (if t.begun && t.pays then (t.mine, true) else ([], false))
  else
    let l := (List.range t.chunks).map fun k =>
      (t.got.find? fun x => x.opseq = opseq && x.sop = 0 && x.orig = d && x.chunk = k).map (·.pay)
    ((l.takeWhile Option.isSome).flatMap (fun o => o.getD []) |>.take n, l.all Option.isSome)

/-- Contributions in order, up to the first that is not whole. -/
def joinSoFar : List (List Byte × Bool) → List Byte
  | [] => []
  | (d, true) :: r => d ++ joinSoFar r
  | (d, false) :: _ => d

/-- The bytes that a skein stream delivers: the contributions of the members of this device's group in the operation in progress, in
ascending member number (R285, R320, R321; DESIGN CHOICE, log 109). -/
def State.skeinBytes (s : State) (c : Nat) : List Byte :=
  let t := s.skn c
  joinSoFar ((t.group (s.devId / 64)).map fun d => s.contribSoFar t (s.fld (addrSknCst c) fldSknCst_OPSEQ) d)

/-- What stream `k` offers for element `i`: not there yet, refused at an address, or bytes and whether they are bad. -/
inductive Offer where
  | wait
  | refused (a : Nat)
  | got (d : List Byte) (bad : Bool)
  deriving DecidableEq, Repr

/-- The raw elements that draft engines deliver for one value: five for E2176 (R293). -/
def rawPer (form : Nat) : Nat := if form = 4 then 5 else 1

/-- Stream `k`'s next value. -/
def State.offer (s : State) (u : Nat) (p : Pass) (k i : Nat) : State × Offer :=
  let n := formSize p.op.fmt (p.form k)
  match p.src k with
  | 1 =>
    match s.plyRead u p (p.arg k * 64 + i * n) n with
    | (s, some (d, b)) => (s, .got d b)
    | (s, none) => (s, .refused (p.arg k * 64 + i * n))
  | 2 =>
    let d := (s.skeinBytes (p.arg k)).drop (i * n)
    if n ≤ d.length then (s, .got (d.take n) false) else (s, .wait)
  | _ =>
    let l := ((s.ply u).inq.filter fun x => x.2.1 = k).take (rawPer (p.form k))
    if l.length = rawPer (p.form k) then (s, .got (l.flatMap (·.2.2.1)) (l.any (·.2.2.2))) else (s, .wait)

/-- The values of every stream for element `i`, in stream order. -/
def State.offers (s : State) (u : Nat) (p : Pass) (i : Nat) : List Nat → State × List Offer
  | [] => (s, [])
  | k :: r =>
    let (s, o) := s.offer u p k i
    let (s, l) := s.offers u p i r
    (s, o :: l)

/-- The weights of element `i` (R292). -/
def State.weightsAt (s : State) (u : Nat) (p : Pass) (i : Nat) : List Nat → State × List Offer
  | [] => (s, [])
  | k :: r =>
    let n := nativeSize p.op.fmt
    let a := p.weight k i
    let (s, o) := if a < 0 then (s, Offer.refused (wrapTo 32 a)) else
      match s.plyRead u p a.toNat n with
      | (s, some (d, b)) => (s, .got d b)
      | (s, none) => (s, .refused (wrapTo 32 a))
    let (s, l) := s.weightsAt u p i r
    (s, o :: l)

/-- An offer's bytes; whether it is bad; the address of a refusal. -/
def Offer.bytes : Offer → List Byte
  | .got d _ => d
  | _ => []
def Offer.bad : Offer → Bool
  | .got _ b => b
  | _ => false
def refusedAt : List Offer → Option Nat
  | [] => none
  | .refused a :: _ => some a
  | _ :: r => refusedAt r

/-- The flags that an element sets. -/
def State.plyFlags (s : State) (u : Nat) (o : PlyOut) : State :=
  let a := addrPlyStatus u
  let f := fun (s : State) (b : Bits) (v : Bool) => if v then s.setFld a b 1 else s
  f (f (f (f s fldPlyStatus_GOV o.gov) fldPlyStatus_QS o.qs) fldPlyStatus_OF o.of_) fldPlyStatus_NV o.nv

/-- The free values that an element may need: a sign, and sixty-four or more bytes. -/
def State.plyFree (s : State) : Bool × (Nat → Byte) × State :=
  let k := s.free
  ((Config.freeByte k).toNat % 2 = 1, fun i => Config.freeByte (k + 1 + i), { s with free := k + 400 })

/-- The elements of the draft streams that one output element used up are dropped. -/
def dropUsed (p : Pass) (l : List (Nat × Nat × List Byte × Bool)) : List (Nat × Nat × List Byte × Bool) :=
  (List.range p.nin).foldl (fun l k =>
    if p.src k = 0 then
      (l.filter fun x => x.2.1 = k).take (rawPer (p.form k)) |>.foldl (fun l x => l.filter fun y => y.1 ≠ x.1) l
    else l) l

/-- One output element of the running MERGE pass, when every input is there: false when nothing could be done. -/
def State.plyStep (s : State) (u : Nat) : State × Bool :=
  match (s.ply u).passes with
  | p :: _ =>
    let i := (s.rd (addrPlyDone u)).toNat
    if s.plyRun u ≠ 1 ∨ p.accum ∨ p.count ≤ i then (s, false)
    else
      let ks := List.range p.nin
      let (s1, os) := s.offers u p i ks
      if os.contains .wait then (s, false)
      else
        let (s1, ws) := if p.op.func = 6 ∧ !p.op.pm then s1.weightsAt u p i ks else (s1, [])
        match refusedAt (os ++ ws) with
        | some a => (s1.plyFault u 2 a, false)
        | none =>
          let n := formSize p.op.fmt p.op.oform
          let a := p.out + i * n
          if !s1.plyMay u p.z p.lv .write a n then (s1.plyFault u 2 a, false)
          else
            let bad := (os ++ ws).any Offer.bad
            let (zneg, fr, s1) := s1.plyFree
            let ins := ks.map fun k =>
              ({ form := p.form k, data := (nth .wait os k).bytes, scale := nth 0 p.scales k,
                 weight := leBytes (nth .wait ws k).bytes } : PlyIn)
            let r := plyCombine p.op zneg fr ins
            let s1 := if bad then ((s1.memBad a n).plyCount u 4).setFld (addrPlyStatus u) fldPlyStatus_BADIN 1
              else (s1.memWrite (48 + u) a r.bytes).1.plyFlags u r
            let s1 := s1.modPly u fun t => { t with inq := dropUsed p t.inq }
            ((s1.wr (addrPlyDone u) (wordOf (i + 1))).plyCount u 1, true)
  | [] => (s, false)

/-- Elements formed while inputs last. -/
def State.plyRunOn : Nat → Nat → State → State
  | 0, _, s => s
  | fuel + 1, u, s =>
    let (s, go) := s.plyStep u
    if go then State.plyRunOn fuel u s else s

/-- The elements that remain. -/
def State.plyFuel (s : State) (u : Nat) : Nat :=
  match (s.ply u).passes with
  | p :: _ => p.count - (s.rd (addrPlyDone u)).toNat
  | [] => 0

/-- The running pass goes as far as its inputs allow. -/
def State.plyGoOn (s : State) (u : Nat) : State := s.plyRunOn (s.plyFuel u) u

/-- The head pass leaves the unit: its buffer is no longer written. -/
def State.plyDrop (s : State) (u : Nat) : State :=
  match (s.ply u).passes with
  | p :: r =>
    let s := if p.accum || !(s.ply u).started then s else s.setFld (addrPlyRbst p.rbuf) fldPlyRbst_BUSY 0
    (s.modPly u fun t => { t with passes := r, started := false }).plyShow u 0
  | [] => s.plyShow u 0

/-- The buffers that a group names, and its conditions (unit, FID, COUNT). -/
def State.groupBufs (s : State) (g : Nat) : List Nat :=
  ((List.range 8).map fun i => (s.rd (addrPlyCgb g (i / 4))).toNat / 2 ^ (8 * (i % 4)) % 256).filterMap fun b =>
    if 128 ≤ b then some (b % 64) else none
def State.groupConds (s : State) (g : Nat) : List (Nat × Nat × Nat) :=
  (List.range 8).filterMap fun j =>
    let a := addrPlyCgf g j
    if s.on a fldPlyCgf_V then some (s.fld a fldPlyCgf_UNIT, s.fld a fldPlyCgf_FID, s.fld a fldPlyCgf_COUNT) else none
/-- The world of a group. -/
def State.groupZ (s : State) (g : Nat) : Bool := s.on (addrPlyCgctl g) fldPlyCgctl_WORLD
/-- A group is armed. -/
def State.armed (s : State) (g : Nat) : Bool := s.on (addrPlyCgctl g) fldPlyCgctl_ARMED

/-! ### Commit groups (R298 to R300) -/

/-- Every condition of a group is met. -/
def State.groupMet (s : State) (g : Nat) : Bool :=
  (s.groupConds g).all fun c =>
    match firstBelow 64 fun j => s.fld (addrPlyFence c.1 j) fldPlyFence_FID = c.2.1 && c.2.2 ≤ s.fld (addrPlyFence c.1 j) fldPlyFence_COUNT with
    | some _ => true
    | none => false

/-- COUNT of a condition subtracted from its entry. -/
def State.consume (s : State) (c : Nat × Nat × Nat) : State :=
  match firstBelow 64 fun j => s.fld (addrPlyFence c.1 j) fldPlyFence_FID = c.2.1 && 0 < s.fld (addrPlyFence c.1 j) fldPlyFence_COUNT with
  | some j => s.setFld (addrPlyFence c.1 j) fldPlyFence_COUNT (s.fld (addrPlyFence c.1 j) fldPlyFence_COUNT - c.2.2)
  | none => s

/-- FLIPCNT and FRONT of a buffer advanced. -/
def State.flipBuf (s : State) (b : Nat) : State :=
  let n := (s.flipcnt b + 1) % 65536
  (s.setFld (addrPlyRbst b) fldPlyRbst_FLIPCNT n).setFld (addrPlyRbst b) fldPlyRbst_FRONT (n % 2)

/-- The slip of a flip (R299): it waits for room, and a bobbin that is not an EVT bobbin of the group's world takes none. -/
def State.flipSlip (s : State) (g : Nat) : State :=
  let a := addrPlyCgctl g
  let k := s.fld a fldPlyCgctl_EVB
  if s.on a fldPlyCgctl_SLIP && s.bobValid k && s.bobType k = tyEVT && s.bobZ k == s.groupZ g then
    let (t0, t1) := s.tbWords
    s.putSlip (s.homeMaster k) k
      (evtSlip [g, s.flipcnt (nth 0 (s.groupBufs g) 0)] t0 t1)
  else s

/-- One group (R299, R300): an armed group whose conditions are met flips; the flip waits, with DEFER, while a running pass writes
one of its buffers. -/
def State.flipOne (s : State) (g : Nat) : State :=
  let a := addrPlyCgctl g
  if s.armed g && s.groupMet g then
    if (s.groupBufs g).any fun b => s.on (addrPlyRbst b) fldPlyRbst_BUSY then s.setFld a fldPlyCgctl_DEFER 1
    else
      let s := (s.groupBufs g).foldl State.flipBuf s
      let s := (s.groupConds g).foldl State.consume s
      let s := (s.wr (addrPlyCgcnt g) (s.rd (addrPlyCgcnt g) + 1)).setFld a fldPlyCgctl_DEFER 0
      let s := ((s.fireProd (192 + g)).raise (0x04C0 + g)).flipSlip g
      if s.on a fldPlyCgctl_AUTO then s else s.setFld a fldPlyCgctl_ARMED 0
  else s

/-- The groups whose conditions are met, in ascending number (R300). -/
def State.flipAll (s : State) : State := (List.range 32).foldl State.flipOne s

/-- GROUP_FLIP (R299, R300): groups whose conditions are met flip in ascending number, up to this one. -/
def execGroupFlip (g : Fin 32) (s : State) : Out := .next ((List.range (g.val + 1)).foldl State.flipOne s)

/-- PASS_COMPLETE (R283, R295, R300, R305): the pass has formed all its elements; its fence is recorded at once, flips that waited
for it are made, and the queued pass starts. A fence that finds no entry keeps the pass from completing. -/
def execPassComplete (u : Fin 16) (s : State) : Out :=
  let s := s.plyGoOn u
  match (s.ply u).passes with
  | p :: _ =>
    if s.plyRun u = 1 ∧ (s.rd (addrPlyDone u)).toNat = p.count then
      let df := (p.w 14).testBit 16
      let fid := p.w 14 % 65536
      match df, s.canPost u fid with
      | true, none => .next s
      | _, j =>
        let s := ((s.plyDrop u).plyCount u 0).raise (0x0480 + 4 * u)
        let s := match df, j with
          | true, some j => s.postDone u j fid
          | _, _ => s
        .next (s.flipAll.plyStart u)
    else .next s
  | [] => .next s

/-- FENCE_RECORDED (R295): the pending posts of an entry whose elements have all been written become recorded. -/
def execFenceRecorded (u : Fin 16) (j : Fin 64) (s : State) : Out := .next (s.recordFid u j)

/-! ### PLYGO (R282) -/

/-- A refusal: bit 31 and the reason. -/
def refusal (reason : Nat) : Word := wordOf (0x80000000 + reason)

/-- PASS (R282 to R287). -/
def State.plyPass (s : State) (g u : Nat) (b : Word) : State × Word :=
  let th := s.thr g
  let pin := s.on (addrPlyOwn u) fldPlyOwn_PIN
  let z := !pin && th.isZ
  let lv := pin || th.isSup
  let a := b.toNat / 64 * 64
  if natField b.toNat ⟨5, 3⟩ ≠ 0 then (s, refusal 6)
  else if s.unitState (addrPlyCtl u) ≠ 2 then (s, refusal 1)
  else if 2 ≤ (s.ply u).passes.length then (s, refusal 2)
  else if !s.plyMay u z lv .read a 64 then (s, refusal 3)
  else match s.memRead (48 + u) a 64 with
    | (s, none) => (s, refusal 3)
    | (s, some d) =>
      let p : Pass := { blk := (List.range 16).map fun i => leBytes ((d.drop (4 * i)).take 4), z := z, lv := lv, out := 0, scales := [] }
      match s.blkBad u z p with
      | some i => (s.setFld (addrPlyStatus u) fldPlyStatus_REQW i, refusal 4)
      | none =>
        let pos := (s.ply u).passes.length
        let s := s.modPly u fun t => { t with passes := t.passes ++ [p] }
        ((s.plyShow u (s.plyRun u)).plyStart u, wordOf pos)

/-- POST. -/
def State.plyPost (s : State) (u : Nat) (b : Word) : State × Word :=
  let fid := b.toNat / 65536
  if natField b.toNat ⟨15, 3⟩ ≠ 0 then (s, refusal 6)
  else if s.unitState (addrPlyCtl u) ≠ 2 then (s, refusal 1)
  else match s.canPost u fid with
    | none => (s, refusal 2)
    | some j => let s := s.postAt u j fid; (s, wordOf (s.fld (addrPlyFence u j) fldPlyFence_COUNT))

/-- No number occurs twice. -/
def allDistinct : List Nat → Bool
  | [] => true
  | x :: r => !r.contains x && allDistinct r

/-- A group is valid (R298). -/
def State.groupValid (s : State) (g : Nat) : Bool :=
  let bs := s.groupBufs g
  let cs := s.groupConds g
  let z := s.groupZ g
  !bs.isEmpty && !cs.isEmpty && allDistinct bs && bs.all (fun b => s.rbZ b == z) && cs.all fun c => s.plyOpen c.1 z

/-- ARM. -/
def State.plyArm (s : State) (g : Nat) (b : Word) : State × Word :=
  if natField b.toNat ⟨31, 3⟩ ≠ 0 then (s, refusal 6)
  else
    let shares := (List.range 32).any fun h => h ≠ g && s.armed h && (s.groupBufs h).any fun x => (s.groupBufs g).contains x
    if s.armed g || !s.groupValid g || shares then (s, refusal 5)
    else (s.setFld (addrPlyCgctl g) fldPlyCgctl_ARMED 1, 0)

/-- Accepted input discarded (R296, R300, R304): the posts that waited for it are recorded, and the flips that waited are made. -/
def State.plyEmpty (s : State) (u : Nat) : State :=
  let s := s.modPly u fun t => { t with inq := [], outs := [] }
  ((List.range 64).foldl (fun s j => s.recordFid u j) s).flipAll

/-- PLY_CMD.ABORT (R304, R296): both passes end, accepted input is discarded, and the posts that waited for it are
recorded. -/
def State.plyAbort (s : State) (u : Nat) : State :=
  let s := s.plyDrop u
  ((s.modPly u fun t => { t with passes := [], started := false }).plyShow u 0).plyEmpty u

/-- PLY_CMD.CLRF: the faulted pass is discarded with the input it had accepted (DEDUCED, log 110), and the queued one starts. -/
def State.plyClrf (s : State) (u : Nat) : State := ((s.plyDrop u).plyEmpty u).plyStart u

/-- ABORT by PLYGO. -/
def State.plyAbortOp (s : State) (u : Nat) (b : Word) : State × Word :=
  if natField b.toNat ⟨31, 3⟩ ≠ 0 then (s, refusal 6) else (s.plyAbort u, 0)

/-- A PLYGO whose operands raise privilege, DETAIL 3 (R282). -/
def State.plygoDenied (s : State) (g : Nat) (a b : Word) : Bool :=
  let z := (s.thr g).isZ
  match b.toNat % 8 with
  | 2 => 32 ≤ a.toNat || s.groupZ a.toNat != z
  | 0 => 16 ≤ a.toNat || !s.plyOpen a.toNat z
  | 1 => 16 ≤ a.toNat || !s.plyOpen a.toNat z
  | 3 => 16 ≤ a.toNat || !s.plyOpen a.toNat z
  | _ => false

/-- PLYGO at the unit: the value of rd. -/
def State.plygo (s : State) (g : Nat) (a b : Word) : State × Word :=
  match b.toNat % 8 with
  | 0 => s.plyPass g a.toNat b
  | 1 => s.plyPost a.toNat b
  | 2 => s.plyArm a.toNat b
  | 3 => s.plyAbortOp a.toNat b
  | _ => (s, refusal 6)

/-! ### Draft elements (R293, R294) -/

/-- What comes of an element that a draft engine presents. -/
inductive Fed where
  | wait
  | taken
  deriving DecidableEq, Repr

/-- INWAIT set, with its event (R293, R305). -/
def State.plyInwait (s : State) (u : Nat) : State :=
  if s.on (addrPlyStatus u) fldPlyStatus_INWAIT then s
  else (s.setFld (addrPlyStatus u) fldPlyStatus_INWAIT 1).raise (0x0480 + 4 * u + 2)

/-- The running pass takes further raw elements of stream `k`: it is a draft stream, and its COUNT is not reached. -/
def State.plyWants (s : State) (u k : Nat) : Bool :=
  match (s.ply u).passes with
  | p :: _ =>
    s.plyRun u = 1 && !p.accum && k < p.nin && p.src k = 0 && nth 0 (s.ply u).taken k < p.count * rawPer (p.form k)
  | [] => false
/-- It takes one of `n` bytes now: its 2 KiB buffer has room. -/
def State.plyTakes (s : State) (u k n : Nat) : Bool :=
  s.plyWants u k && ((s.ply u).inq.filter fun x => x.2.1 = k).length * n < 2048
/-- An element waits: for a pass that takes it, which INWAIT shows, or for room in its stream's buffer (R293). -/
def State.plyHold (s : State) (u k : Nat) : State := if s.plyWants u k then s else s.plyInwait u

/-- A stream-mode element presented to stream `k`. -/
def State.plyFeed (s : State) (u k : Nat) (d : List Byte) (bad : Bool) : State × Fed :=
  if s.plyTakes u k d.length then
    let s := s.modPly u fun t =>
      { t with inq := t.inq ++ [(t.seq, k, d, bad)], seq := t.seq + 1, taken := setNth t.taken k (nth 0 t.taken k + 1) }
    (s.plyGoOn u, .taken)
  else (s.plyHold u k, .wait)

/-- The running ACCUM pass takes an element with K = 0. -/
def State.plyAccums (s : State) (u : Nat) : Bool :=
  match (s.ply u).passes with
  | p :: _ => s.plyRun u = 1 && p.accum && (s.rd (addrPlyDone u)).toNat < p.count
  | [] => false

/-- An accumulate-mode element: the unit's result (R294). -/
def State.plyAccumStep (s : State) (u : Nat) (d x : List Byte) : State × List Byte :=
  match (s.ply u).passes with
  | p :: _ =>
    let (zneg, fr, s) := s.plyFree
    let inp := fun (b : List Byte) => ({ form := p.op.oform, data := b, scale := nth 0 p.scales 0 } : PlyIn)
    let r := plyAccum p.op zneg fr (inp d) (inp x)
    let s := (s.plyFlags u r).wr (addrPlyDone u) (s.rd (addrPlyDone u) + 1)
    (s.plyCount u 1, r.bytes)
  | [] => (s, [])

/-- An accumulate-mode element with the place of its result: the results to write now. The unit joins five elements of an E2176
value, and returns five (R293, R294). -/
def State.plyAccumElem (s : State) (u : Nat) (o : AccOut) (d x : List Byte) : State × List (AccOut × List Byte) :=
  let per := match (s.ply u).passes with
    | p :: _ => rawPer p.op.oform
    | [] => 1
  if per = 1 then
    let (s, r) := s.plyAccumStep u d x
    (s, [(o, r)])
  else
    let s := s.modPly u fun t =>
      { t with inq := t.inq ++ [(t.seq, 8, d, false), (t.seq, 9, x, false)], seq := t.seq + 1, outs := t.outs ++ [o] }
    let t := s.ply u
    if t.outs.length < per then (s, [])
    else
      let val : Nat → List Byte := fun k => (t.inq.filter fun y => y.2.1 = k).flatMap (·.2.2.1)
      let (s, r) := (s.modPly u fun t => { t with inq := [], outs := [] }).plyAccumStep u (val 8) (val 9)
      (s, t.outs.zip ((List.range per).map fun i => (r.drop (64 * i)).take 64))

/-! ### Enables and reserved encodings (R298, R301, R304) -/

/-- The unit holds no pass, so STOPPING can end. -/
def State.plyIdle (s : State) (u : Nat) : Bool := (s.ply u).passes.isEmpty

/-- PLY_CMD carries a reserved encoding. -/
def State.plyCmdBad (s : State) (u : Nat) (v : Word) : Bool :=
  getF v fldPlyCmd_ABORT + getF v fldPlyCmd_CLRF = 2 || (isOn v fldPlyCmd_CLRF && s.plyRun u ≠ 2)

/-- PLY_CMD acts. -/
def State.plyCmd (s : State) (u : Nat) (v : Word) : State :=
  if isOn v fldPlyCmd_CLRF then s.plyClrf u else if isOn v fldPlyCmd_ABORT then s.plyAbort u else s

/-- A write of PLY_OWN is a reserved encoding (R301). -/
def State.plyOwnBad (s : State) (u : Nat) (v : Word) : Bool :=
  let pin := isOn v fldPlyOwn_PIN
  pin != s.on (addrPlyOwn u) fldPlyOwn_PIN &&
    (s.unitState (addrPlyCtl u) ≠ 0 ||
      (pin && 2 ≤ ((List.range 16).filter fun w => w ≠ u && s.on (addrPlyOwn w) fldPlyOwn_PIN).length))

/-- A half of `n` bytes at `a` lies wholly within creel partitions of USE 6 (R297). -/
def State.halfOk (s : State) (a n : Nat) : Bool :=
  (List.range ((a + n - 1) / 65536 - a / 65536 + 1)).all fun i => s.inPart 6 ((a / 65536 + i) * 65536)

/-- A write that would leave buffer `b` with these words is a reserved encoding: BUSY, SIZE, the place of a half, or halves
that overlap. -/
def State.rbBad (s : State) (b : Nat) (ra rb sz : Word) : Bool :=
  let n := getF sz fldPlyRbsz_SIZE
  let a := getF ra fldPlyRba_BASE * 64
  let c := getF rb fldPlyRbb_BASE * 64
  s.on (addrPlyRbst b) fldPlyRbst_BUSY || n % 64 ≠ 0 ||
    (n ≠ 0 && (!s.halfOk a n || !s.halfOk c n || (a < c + n && c < a + n)))

end Sys2Proof.Machine
end

