-- ==== Sys2Proof/Machine/Skein.lean ====
section
/-! DEFINITION. The skein unit (R317 to R331): contexts and their descriptors, the three-hop plan, skein cells and tokens,
combining, snapshots, drain, completion, time-out and reset. -/

namespace Sys2Proof.Machine

/-! ### Contexts and descriptors (R317, R318) -/

/-- STATE of a context: 0 CLOSED, 1 OPEN, 2 ACTIVE, 3 FAILED. -/
def State.sknState (s : State) (c : Nat) : Nat := s.fld (addrSknCst c) fldSknCst_STATE
/-- STATE set. -/
def State.setSkn (s : State) (c v : Nat) : State := s.setFld (addrSknCst c) fldSknCst_STATE v
/-- OPSEQ. -/
def State.opseq (s : State) (c : Nat) : Nat := s.fld (addrSknCst c) fldSknCst_OPSEQ

def SkCtx.z (t : SkCtx) : Bool := (t.w 0).testBit 30
def SkCtx.exact_ (t : SkCtx) : Bool := (t.w 0).testBit 28
def SkCtx.cu (t : SkCtx) : Nat := natField (t.w 0) ⟨27, 20⟩
def SkCtx.func (t : SkCtx) : Nat := natField (t.w 0) ⟨19, 16⟩
def SkCtx.fmt (t : SkCtx) : Nat := natField (t.w 0) ⟨15, 12⟩
def SkCtx.root (t : SkCtx) : Nat := natField (t.w 1) ⟨31, 20⟩
def SkCtx.vlen (t : SkCtx) : Nat := natField (t.w 1) ⟨19, 0⟩
def SkCtx.evb (t : SkCtx) : Nat := natField (t.w 2) ⟨15, 0⟩
def SkCtx.prod (t : SkCtx) : Nat := natField (t.w 3) ⟨28, 24⟩
def SkCtx.rbuf (t : SkCtx) : Nat := natField (t.w 3) ⟨21, 16⟩
def SkCtx.fid (t : SkCtx) : Nat := natField (t.w 3) ⟨15, 0⟩
def SkCtx.tmo (t : SkCtx) : Nat := t.w 4
/-- RELAY bit `g`. -/
def SkCtx.relay (t : SkCtx) (g : Nat) : Bool := (t.w (8 + g / 32)).testBit (g % 32)
/-- OUT for group `h`, 255 for none. -/
def SkCtx.out (t : SkCtx) (h : Nat) : Nat := t.w (16 + h / 4) / 2 ^ (8 * (h % 4)) % 256
/-- Device `d` is a member by the bitmap or the rectangles (MSET). -/
def SkCtx.isMember (t : SkCtx) (d : Nat) : Bool :=
  if (t.w 0).testBit 29 then
    (List.range 4).any fun r =>
      let w := t.w (10 + r)
      w.testBit 31 && natField w ⟨23, 18⟩ ≤ d / 64 && d / 64 ≤ natField w ⟨17, 12⟩ &&
        natField w ⟨11, 6⟩ ≤ d % 64 && d % 64 ≤ natField w ⟨5, 0⟩
  else (t.w (128 + d / 32)).testBit (d % 32)
/-- The groups that have members. -/
def SkCtx.groups (t : SkCtx) : List Nat := (List.range 64).filter fun g => !(t.group g).isEmpty

/-- The form in which partials travel (R321): exact for SUM when EXACT is 1. -/
def SkCtx.form (t : SkCtx) : Nat :=
  if t.exact_ && t.func = 0 then (if t.fmt < 4 then 1 else t.fmt - 2) else 0
/-- The values of a contribution. -/
def SkCtx.count (t : SkCtx) : Nat := (t.vlen + 1) / nativeSize t.fmt
/-- The bytes and the wire chunks of a payload in a form: an E2176 element takes two chunks. -/
def SkCtx.formBytes (t : SkCtx) (form : Nat) : Nat := if form = 0 then t.vlen + 1 else t.count * formSize t.fmt form
def SkCtx.formChunks (t : SkCtx) (form : Nat) : Nat := if form = 4 then 2 * t.count else (t.formBytes form + 255) / 256
/-- The wire chunks of a partial. -/
def SkCtx.partChunks (t : SkCtx) : Nat := t.formChunks t.form

/-- The first descriptor word that OPEN finds invalid (R317, R318). -/
def State.descBad (s : State) (t : SkCtx) : Option Nat :=
  let me := s.devId
  firstBelow 256 fun i =>
    let w := t.w i
    if i = 0 then
      !w.testBit 31 || natField w ⟨8, 0⟩ ≠ 0 || 6 ≤ t.func || 7 ≤ t.fmt || (w.testBit 9 && 4 ≤ t.fmt) ||
        (t.cu ≠ 255 && (16 ≤ t.cu || !s.plyOpen t.cu t.z))
    else if i = 1 then 2048 < max t.partChunks t.chunks
    else if i = 2 then natField w ⟨31, 28⟩ ≠ 0
    else if i = 3 then natField w ⟨31, 29⟩ ≠ 0 || natField w ⟨23, 22⟩ ≠ 0 || s.rbZ t.rbuf != t.z
    else if i = 4 then false
    else if i = 8 ∨ i = 9 then (List.range 32).any fun b => w.testBit b && (t.group (32 * (i - 8) + b)).isEmpty
    else if 10 ≤ i ∧ i ≤ 13 then natField w ⟨30, 24⟩ ≠ 0 || (i = 10 && (t.w 0).testBit 29 && !t.members.contains me)
    else if 16 ≤ i ∧ i ≤ 31 then
      (List.range 4).any fun b =>
        let h := 4 * (i - 16) + b
        let q := t.out h
        q ≠ 255 && (144 ≤ q || s.role q ≠ 1 || !(t.group h).any fun d => s.isPartner q d)
    else if 128 ≤ i then i = 128 && !(t.w 0).testBit 29 && !t.members.contains me
    else w ≠ 0

/-- The descriptor of slot `c` as it stands in creel; none when it holds an uncorrectable error. -/
def State.loadDesc (s : State) (c : Nat) : State × Option SkCtx :=
  match s.memRead 255 (s.fld addrSknCbase fldSknCbase_BASE * 65536 + 0x400 * c) 1024 with
  | (s, some d) =>
    let t : SkCtx := { desc := (List.range 256).map fun i => leBytes ((d.drop (4 * i)).take 4) }
    (s, some { t with members := (List.range 4096).filter t.isMember })
  | (s, none) => (s, none)

/-! ### Skein cells (R322, R323) -/

/-- A token in the pool of a context moved. -/
def State.token (s : State) (t : SkCtx) (src dst : Ctr) (n : Nat) : State := s.move t.pool src dst n

/-- The UP or RETRAIN port of the wanted role whose partner is a device. -/
def State.portTo (s : State) (d role : Nat) : Option Nat :=
  firstBelow 144 fun q => s.usable q && s.role q = role && s.isPartner q d

/-- A cell of a context put into the queue of a port (R322, R323): it holds a token, taken from FREE when none is held for it. -/
def State.sknSend (s : State) (c q sop form chunk orig : Nat) (pay : List Byte) : State :=
  let t := s.skn c
  let full := 64 < pay.length
  let dst := s.fld (addrLnkState q) fldLnkState_PARTNER
  let h := mkHdr [(124, 6), (121, 6), (108, dst), (96, s.devId), (88, c), (72, s.opseq c), (68, sop), (64, form),
                  (23, b2n full), (12, chunk), (0, orig)]
  let cell : Cell := { hdr := h, pay := padTo (if full then 256 else 64) 0 pay }
  let s := if t.held = 0 then s.token t .free .held 1 else s
  let s := s.modSkn c fun t => { t with held := t.held - 1, queued := t.queued + 1 }
  s.enqueue q { cell := cell, skn := some c }

/-- Bytes cut into wire chunks with their numbers (R321). -/
def chunksOf (e2176 : Bool) (d : List Byte) : List (Nat × List Byte) :=
  if e2176 then
    (List.range ((d.length + 319) / 320)).flatMap fun i =>
      [(2 * i, (d.drop (320 * i)).take 256), (2 * i + 1, (d.drop (320 * i + 256)).take 64)]
  else (List.range ((d.length + 255) / 256)).map fun i => (i, (d.drop (256 * i)).take 256)

/-- What a contribution or partial sends: a short cell of zeros where there is no payload. -/
def wireChunks (pays e2176 : Bool) (d : List Byte) : List (Nat × List Byte) := if pays then chunksOf e2176 d else [(0, [])]

/-- A run of chunks sent to every device of a list on the port of a role. -/
def State.sknSendAll (s : State) (c sop form orig role : Nat) (ds : List Nat) (l : List (Nat × List Byte)) : State :=
  ds.foldl (fun s d =>
    match s.portTo d role with
    | some q => l.foldl (fun s x => s.sknSend c q sop form x.1 orig x.2) s
    | none => s) s

/-- The other members of this device's group. -/
def State.peers (s : State) (t : SkCtx) : List Nat := (t.group (s.devId / 64)).filter (· ≠ s.devId)
/-- The ports to other groups. -/
def State.outs (s : State) (t : SkCtx) : List Nat :=
  (t.groups.filter (· ≠ s.devId / 64)).filterMap fun h => if t.out h = 255 then none else some (t.out h)

/-- Chunks sent on every OUT port. -/
def State.sknOut (s : State) (c sop form orig : Nat) (l : List (Nat × List Byte)) : State :=
  (s.outs (s.skn c)).foldl (fun s q => l.foldl (fun s x => s.sknSend c q sop form x.1 orig x.2) s) s

/-! ### Combining (R320, R321) -/

/-- The cells held for the operation in progress. -/
def State.sknGot (s : State) (c : Nat) : List SkCell := (s.skn c).got.filter fun x => x.opseq = s.opseq c

/-- An arrived first chunk of an input of `n` bytes carries a payload (R322, R324): it is full or holds a byte that is not 0; a short
one of zeros does where this device contributes a payload, at ROOT as the free value decides (log 111). -/
def State.carriesPay (s : State) (c : Nat) (x : SkCell) (n : Nat) : Bool :=
  let t := s.skn c
  64 < x.pay.length || x.pay.any (· ≠ 0) || (n ≤ 64 && t.pays && (t.root ≠ s.devId || t.amb))

/-- Chunk `k` among the cells of an input. -/
def chunkIn (l : List SkCell) (k : Nat) : Option SkCell := l.find? fun x => x.chunk = k

/-- Whether an input of `n` bytes carries a payload, from the cells that have arrived: a later chunk shows it, or the first. -/
def State.inputPays (s : State) (c : Nat) (l : List SkCell) (n : Nat) : Option Bool :=
  if l.any fun x => x.chunk ≠ 0 then some true else (chunkIn l 0).map fun x => s.carriesPay c x n

/-- A whole input read from its cells: not there, or whether it carries a payload, its form and its bytes. -/
def inputOf (t : SkCtx) (pays : Option Bool) (l : List SkCell) : Option (Bool × Nat × List Byte) :=
  match pays, l with
  | some true, x :: _ =>
    let cs := (List.range (t.formChunks x.form)).map fun k => (chunkIn l k).map (·.pay)
    if cs.all Option.isSome then some (true, x.form, (cs.flatMap fun o => o.getD []).take (t.formBytes x.form)) else none
  | some false, _ => some (false, 0, [])
  | _, _ => none

/-- The cells of member `d`'s contribution, and of group `g`'s partial: this device's own as it sent them. -/
def State.fromMember (s : State) (c d : Nat) : List SkCell := (s.sknGot c).filter fun x => (x.sop = 0 || x.sop = 4) && x.orig = d
def State.fromGroup (s : State) (c g : Nat) : List SkCell :=
  if g = s.devId / 64 then (s.skn c).own else (s.sknGot c).filter fun x => (x.sop = 1 || x.sop = 2) && x.orig / 64 = g

/-- Whether member `d` contributes a payload. -/
def State.memberPays (s : State) (c d : Nat) : Option Bool :=
  let t := s.skn c
  if d = s.devId then (if t.begun then some t.pays else none) else s.inputPays c (s.fromMember c d) (t.vlen + 1)
/-- Whether group `g`'s partial carries one. -/
def State.groupPays (s : State) (c g : Nat) : Option Bool :=
  let l := s.fromGroup c g
  if g = s.devId / 64 then (chunkIn l 0).map fun x => !x.pay.isEmpty
  else s.inputPays c l ((s.skn c).formBytes (l.head?.elim 0 (·.form)))

/-- Chunk `k` of member `d`'s contribution. -/
def State.memberChunk (s : State) (c d k : Nat) : Option (List Byte) :=
  let t := s.skn c
  if d = s.devId then (if t.begun then some ((t.mine.drop (256 * k)).take 256) else none)
  else (chunkIn (s.fromMember c d) k).map fun x => x.pay.take (t.vlen + 1 - 256 * k)

/-- The contribution of member `d`, and the partial of group `g`, when whole. -/
def State.contrib (s : State) (c d : Nat) : Option (Bool × Nat × List Byte) :=
  let t := s.skn c
  if d = s.devId then (if t.begun then some (t.pays, 0, t.mine) else none)
  else inputOf t (s.memberPays c d) (s.fromMember c d)
def State.partialOf (s : State) (c g : Nat) : Option (Bool × Nat × List Byte) :=
  inputOf (s.skn c) (s.groupPays c g) (s.fromGroup c g)

/-- `n` values of inputs combined value by value into a form. -/
def State.combine (s : State) (c oform n : Nat) (ins : List (Nat × List Byte)) : State × List Byte :=
  let t := s.skn c
  let o : PlyOp := { func := t.func, fmt := t.fmt, rm := rmodeOf (natField (t.w 0) ⟨11, 10⟩), sat := (t.w 0).testBit 9,
                     oform := oform, pm := false }
  (List.range n).foldl (fun (acc : State × List Byte) i =>
    let (s, d) := acc
    let (zneg, fr, s) := s.plyFree
    let r := plyCombine o zneg fr (ins.map fun x =>
      ({ form := x.1, data := (x.2.drop (i * formSize t.fmt x.1)).take (formSize t.fmt x.1) } : PlyIn))
    (if t.cu < 16 then s.plyFlags t.cu r else s, d ++ r.bytes)) (s, [])

/-- Inputs that are all there. -/
def allIn {α : Type} : List (Option α) → Option (List α)
  | [] => some []
  | none :: _ => none
  | some x :: r => (allIn r).map fun l => x :: l

/-- Chunks of the group's partial sent on every OUT port and kept as this device's own input. -/
def State.sknPart (s : State) (c form : Nat) (l : List (Nat × List Byte)) : State :=
  let g := s.devId / 64
  let cells := l.map fun x => { opseq := s.opseq c, sop := 1, chunk := x.1, orig := g * 64, form := form, pay := x.2 : SkCell }
  (s.modSkn c fun t => { t with own := t.own ++ cells }).sknOut c 1 form (g * 64) l

/-- In a broadcast the payload of ROOT travels unmerged (R324): of these members alone it pays; alone in its group, as the free value
of an ambiguous operation decides (log 111). -/
def SkCtx.unmerged (t : SkCtx) (group payers : List Nat) : Bool := payers = [t.root] && (group ≠ [t.root] || !t.amb)

/-- The `j`-th piece of the group's partial (R320, R321): the elements that one wire chunk of the partial holds, two chunks for an
E2176 element; formed and sent when the chunks of the contributions that hold them are there, unless it has been. -/
def State.sknPiece (s : State) (c j : Nat) : State :=
  let t := s.skn c
  let ds := t.group (s.devId / 64)
  match allIn (ds.map fun d => s.memberPays c d) with
  | none => s
  | some pays =>
    let ps := (ds.zip pays).filterMap fun x => if x.2 then some x.1 else none
    let raw := t.unmerged ds ps
    let form := if raw then 0 else t.form
    let per := if form = 4 then 1 else 256 / formSize t.fmt form
    let first := if form = 4 then 2 * j else j
    if (chunkIn t.own first).isSome then s
    else if ps.isEmpty then (if j = 0 then s.sknPart c 0 [(0, [])] else s)
    else
      let lo := j * per
      let n := min per (t.count - lo)
      let k := lo * nativeSize t.fmt / 256
      if n = 0 then s
      else match allIn (ps.map fun d => s.memberChunk c d k) with
        | none => s
        | some ins =>
          if raw then s.sknPart c 0 [(j, nth [] ins 0)]
          else
            let (s, d) := s.combine c form n (ins.map fun x => (0, x.drop (lo * nativeSize t.fmt - 256 * k)))
            s.sknPart c form (if form = 4 then [(first, d.take 256), (first + 1, d.drop 256)] else [(first, d)])

/-- Phase L as far as it goes (R320), piece by piece (R321). -/
def State.sknPhaseL (s : State) (c : Nat) : State :=
  if (s.skn c).begun then (List.range (max 1 (max (s.skn c).partChunks (s.skn c).chunks))).foldl (fun s j => s.sknPiece c j) s else s

/-- The final inputs of an operation, when all are there. -/
def State.sknInputs (s : State) (c : Nat) : Option (List (Bool × Nat × List Byte)) :=
  allIn ((s.skn c).groups.map fun g => s.partialOf c g)

/-! ### Starting (R318, R323, R324, R326, R329) -/

/-- What a held cell does once its operation runs on this device: a GLOBAL partial is relayed where RELAY says so (R320); a
device that leaves is noted, and its cell is passed on along the plan (R329). -/
def State.sknPass (s : State) (c : Nat) (y : SkCell) : State :=
  let t := s.skn c
  let g := y.orig / 64
  let relays := g ≠ s.devId / 64 && t.relay g
  if y.sop = 1 then
    if relays then s.sknSendAll c 2 y.form y.orig 0 (s.peers t) [(y.chunk, y.pay)] else s
  else if y.sop = 4 && !t.leaving.contains y.orig then
    let s := s.modSkn c fun t => { t with leaving := y.orig :: t.leaving }
    if relays then s.sknSendAll c 4 0 y.orig 0 (s.peers t) [(0, [])] else s
  else s

/-- This device's contribution sent to its group (R320), with SOP 0, or SOP 4 when it leaves (R329); the cells that came
before do what they do. -/
def State.sknBegin (s : State) (c : Nat) : State :=
  let t := s.skn c
  if t.begun then s
  else
    let s := s.modSkn c fun t => { t with begun := true }
    let sop := if t.op = 3 then 4 else 0
    let s := s.sknSendAll c sop 0 s.devId 0 (s.peers t) (wireChunks t.pays false t.mine)
    let s := if t.op = 3 then s.sknOut c 4 0 s.devId [(0, [])] else s
    ((s.sknGot c).foldl (fun s y => s.sknPass c y) s).sknPhaseL c

/-- The cells that an operation emits on this device: its own to its group, the partial on every OUT port, one relay for each
RELAY bit to its group; markers on every UP port for a snapshot (R323). -/
def State.sknCells (s : State) (t : SkCtx) (op : Nat) (pays : Bool) : Nat :=
  let n := (s.peers t).length
  let own := if pays then t.chunks else 1
  let p := if pays then t.partChunks else 1
  let relays := (t.groups.filter fun g => t.relay g).length
  n * own + (s.outs t).length * (if op = 3 then p + 1 else p) + relays * n * p +
    (if op = 2 then ((List.range 144).filter fun q => s.lstate q = 3).length else 0)

/-- The record of a snapshot at the marker time (R326 to R328): the head, the sets, LNK_CRRX, and the cells that this device
holds counted by their source. -/
def State.snapRecord (s : State) (c : Nat) : State :=
  let b := s.fld addrSknSnapbase fldSknSnapbase_BASE * 65536
  let head := [s.devId, s.opseq c, s.tb64 % 2 ^ 32, s.tb64 / 2 ^ 32, s.fld addrLgrGstat fldLgrGstat_GUAR]
  let sets := match s.lgrSet 0 with
    | some a => (List.range (5504 * 16)).map fun i => s.goodByte (a + i)
    | none => []
  let crrx := (List.range 144).flatMap fun p => (List.range 7).map fun tc => (b + 0x16000 + 64 * p + 8 * tc + 4, (s.rd (addrLnkCrrx p tc)).toNat)
  let held := s.ctxs.flatMap (fun x => x.2.cells.map cSRC) ++
    (s.ports.flatMap fun x => (x.2.q.filter fun q => q.ingress.isSome).map (fun q => cSRC q.cell) ++ x.2.rxWait.map fun y => cSRC y.1)
  let s := ((s.memWrite 255 b (head.flatMap (bytesLE 4))).1.memWrite 255 (b + 0x100) sets).1
  let s := crrx.foldl (fun s x => s.poke32 x.1 x.2) s
  (s.modSkn c fun t => { t with tally := held.map fun d => (d, 1) }).setFld (addrSknCst c) fldSknCst_SNAPREC 1

/-- A snapshot recorded, and a MARKER on every UP port (R326). -/
def State.snapStart (s : State) (c : Nat) : State :=
  let s := s.modSkn c fun t => { t with op := 2, pays := false, mine := [], begun := false, own := [], ends := none, start := s.tb64,
                                        refused := false, marks := [], incompl := false, leaving := [] }
  let s := (s.setSkn c 2).snapRecord c
  (List.range 144).foldl (fun s q => if s.lstate q = 3 then s.sknSend c q 3 0 0 s.devId [] else s) s

/-- Every UP port has had its MARKER: the second barrier begins. -/
def State.snapBarrier (s : State) (c : Nat) : State :=
  let t := s.skn c
  if t.op = 2 ∧ (List.range 144).all (fun q => s.lstate q ≠ 3 || t.marks.contains q) then s.sknBegin c else s

/-- An operation goes on as far as it can: a leaving device sends when every message has its report. -/
def State.sknGo (s : State) (c : Nat) : State :=
  let t := s.skn c
  if s.sknState c ≠ 2 ∨ t.ends.isSome then s
  else match t.op with
    | 2 => (s.snapBarrier c).sknPhaseL c
    | 3 => if s.sends.isEmpty then (s.sknBegin c).sknPhaseL c else s
    | _ => (s.sknBegin c).sknPhaseL c

/-- The masters that read a contribution may read it (R324). -/
def State.contribOk (s : State) (t : SkCtx) (a n : Nat) : Bool :=
  let ps := ((s.peers t).filterMap fun d => s.portTo d 0).map (64 + ·)
  inPly a && inPly (a + n - 1) && ((48 + t.cu) :: ps).all fun m => s.grantedAll m t.z false .read a n

/-- An accepted operation: its tokens, and its state. -/
def State.sknAccept (s : State) (c op e : Nat) (pays : Bool) (mine : List Byte) (refused : Bool) : State × Word :=
  let t := s.skn c
  let s := s.token t .free .held e
  let amb := Config.freeByte s.free % 2 = 1
  let s := { s with free := s.free + 1 }
  let s := s.modSkn c fun t => { t with op := op, amb := amb, pays := pays, mine := mine, begun := false, own := [], ends := none, held := e,
                                        start := s.tb64, refused := refused, leaving := [], tally := [], incompl := false }
  let r := wordOf (s.opseq c)
  if op = 2 then (s.snapStart c, r) else ((s.setSkn c 2).sknGo c, r)

/-- OPEN. -/
def State.sknOpen (s : State) (c : Nat) : State × Word :=
  if s.sknState c ≠ 0 then (s, refusal 2)
  else match s.loadDesc c with
    | (s, none) => (s.setFld addrSknStatus fldSknStatus_DESCW 0, refusal 3)
    | (s, some t) =>
      match s.descBad t with
      | some i => (s.setFld addrSknStatus fldSknStatus_DESCW (i % 16), refusal 3)
      | none =>
        let s := s.modSkn c fun _ => t
        ((s.setSkn c 1).setFld (addrSknCst c) fldSknCst_OPSEQ 0, 0)

/-- ENTER. -/
def State.sknEnter (s : State) (c : Nat) (b : Word) : State × Word :=
  let t := s.skn c
  let a := b.toNat / 64 * 64
  let n := t.vlen + 1
  let e := s.sknCells t 1 (a ≠ 0)
  if s.sknState c ≠ 1 then (s, refusal 2)
  else if a ≠ 0 ∧ t.cu = 255 then (s.setFld addrSknStatus fldSknStatus_DESCW 0, refusal 3)
  else if s.ctr t.pool .free < e then (s, refusal 4)
  else if a = 0 then s.sknAccept c 1 e false [] false
  else if !s.contribOk t a n then s.sknAccept c 1 e true (List.replicate n 0) true
  else match s.memRead (48 + t.cu) a n with
    | (s, some d) => s.sknAccept c 1 e true d false
    | (s, none) => s.sknAccept c 1 e true (List.replicate n 0) true

/-- SNAP and DRAIN. -/
def State.sknStartOp (s : State) (c op : Nat) : State × Word :=
  let t := s.skn c
  let e := s.sknCells t op false
  if s.sknState c ≠ 1 then (s, refusal 2)
  else if s.ctr t.pool .free < e then (s, refusal 4)
  else s.sknAccept c op e false [] false

/-- Every token of a context returns to FREE. -/
def State.tokensBack (s : State) (c : Nat) : State :=
  let t := s.skn c
  let s := (s.token t .held .free (t.held + t.queued)).token t .flight .free (t.flying + t.before)
  let s := s.modSkn c fun t => { t with held := 0, queued := 0, flying := 0, before := 0 }
  { s with ports := s.ports.map fun x =>
      (x.1, { x.2 with q := x.2.q.map fun y => if y.skn = some c then { y with skn := none } else y }) }

/-- CLOSE. -/
def State.sknClose (s : State) (c : Nat) : State × Word :=
  if s.sknState c ≠ 1 ∧ s.sknState c ≠ 3 then (s, refusal 2)
  else
    let s := s.tokensBack c
    let r := wordOf (s.opseq c)
    (((s.modSkn c fun _ => {}).setSkn c 0).setFld (addrSknCst c) fldSknCst_SNAPREC 0, r)

/-- The operands of an SKN raise privilege, DETAIL 3 (R318). -/
def State.sknDenied (s : State) (g : Nat) (a b : Word) : Bool :=
  let th := s.thr g
  let op := b.toNat % 16
  256 ≤ a.toNat || s.sknZ a.toNat = some (!th.isZ) || ((op = 0 || op = 4) && !(th.isSup && !th.isZ))

/-- SKN at the unit: the value of rd (R318). -/
def State.sknOp (s : State) (a b : Word) : State × Word :=
  let c := a.toNat
  let op := b.toNat % 16
  if 5 ≤ op ∨ natField b.toNat ⟨5, 4⟩ ≠ 0 then (s, refusal 6)
  else if s.unitState addrSknCtl ≠ 2 then (s, refusal 1)
  else match op with
    | 0 => s.sknOpen c
    | 1 => s.sknEnter c b
    | 4 => s.sknClose c
    | op => s.sknStartOp c op

/-! ### Completion (R319) -/

/-- The bitmap of the groups whose partial is missing, and the number of inputs missing. -/
def State.sknMissing (s : State) (c : Nat) : Nat × Nat :=
  let t := s.skn c
  let gs := t.groups.filter fun g => (s.partialOf c g).isNone
  let own := if gs.contains (s.devId / 64) then ((t.group (s.devId / 64)).filter fun d => (s.contrib c d).isNone).length else 0
  (gs.foldl (fun m g => m + 2 ^ g) 0, if own = 0 then gs.length else gs.length - 1 + own)

/-- The KIND 7 slip of a completion. -/
def State.sknSlip (s : State) (c status : Nat) : State :=
  let t := s.skn c
  let k := t.evb
  if s.bobValid k && s.bobType k = tyEVT && s.bobZ k == t.z then
    let (m, n) := s.sknMissing c
    let (t0, t1) := s.tbWords
    s.putSlip (s.homeMaster k) k (evtSlip [c + t.op * 256 + status * 4096, s.opseq c, n, m % 2 ^ 32, m / 2 ^ 32] t0 t1)
  else s

/-- Steps 1 to 3 of a completion: the fence, the slip, the producer and the event. -/
def State.sknTell (s : State) (c status : Nat) : State :=
  let t := s.skn c
  let s := if t.cu = 255 then s else match s.canPost t.cu t.fid with
    | some j => s.postAt t.cu j t.fid
    | none => s
  ((s.sknSlip c status).fireProd (160 + t.prod)).raise (0x0500 + c)

/-- CU cannot take the context's fence now, so the context waits (R296). -/
def State.sknWaits (s : State) (c : Nat) : Bool := (s.skn c).cu ≠ 255 && (s.canPost (s.skn c).cu (s.skn c).fid).isNone

/-- The operation ends on this device: the tokens of the operation before it return, the cells held for it go (R322,
R323). -/
def State.sknEnd (s : State) (c state next : Nat) : State :=
  let t := s.skn c
  let k := s.opseq c
  let s := (s.token t .flight .free t.before).token t .held .free t.held
  let s := s.modSkn c fun t => { t with op := 15, pays := false, mine := [], begun := false, own := [], ends := none, held := 0,
                                        before := t.flying, flying := 0, marks := [],
                                        members := t.members.filter fun d => !t.leaving.contains d,
                                        got := t.got.filter fun x => x.opseq ≠ k }
  ((s.setSkn c state).setFld (addrSknCst c) fldSknCst_OPSEQ next).setFld (addrSknCst c) fldSknCst_SNAPREC 0

/-- The result written in native form to the back half of RBUF (R321): false when it is refused. -/
def State.sknResult (s : State) (c : Nat) (l : List (Bool × Nat × List Byte)) : State × Bool :=
  let t := s.skn c
  let ps := l.filter (·.1)
  if ps.isEmpty then (s, true)
  else
    let (s, d) := s.combine c 0 t.count (ps.map fun x => (x.2.1, x.2.2))
    let a := s.backHalf t.rbuf
    if t.cu = 255 ∨ s.fld (addrPlyRbsz t.rbuf) fldPlyRbsz_SIZE < d.length ∨ !s.plyMay t.cu t.z false .write a d.length then (s, false)
    else ((s.memWrite (48 + t.cu) a d).1, true)

/-- The TALLY vector and INCOMPLETE of a snapshot's record (R327, R328). -/
def State.snapEnd (s : State) (c : Nat) : State :=
  let t := s.skn c
  let b := s.fld addrSknSnapbase fldSknSnapbase_BASE * 65536
  let s := s.poke32 (b + 16) (s.peek32 (b + 16) % 2 + 2 * b2n t.incompl)
  let s := (List.range 4096).foldl (fun s d =>
    s.poke32 (b + 0x18400 + 4 * d) ((t.tally.filter fun x => x.1 = d).foldl (fun n x => n + x.2) 0)) s
  s.bump (addrSknCnt 3) fldSknCnt_COUNT

/-- What a completed operation does besides its result: a snapshot's record ends, a leaving device drains its ports. -/
def State.sknDone (s : State) (c op : Nat) : State :=
  match op with
  | 2 => s.snapEnd c
  | 3 => (List.range 144).foldl (fun s p => s.goDrain p) s
  | _ => s

/-- A skein reset (R330) once its fence is posted: tokens return, and OPSEQ leaves the window of older cells. -/
def State.sknCleared (s : State) (c : Nat) : State :=
  let s := s.tokensBack c
  let s := s.sknEnd c 1 ((s.opseq c + 0x8000) % 65536)
  s.modSkn c fun t => { t with got := [], before := 0 }

/-- An operation ends without its result (R319, R330): status 1 timed out, 2 reset, 3 refused; FAILED unless reset. While CU cannot
take the fence the context waits, its end noted (R296). -/
def State.sknFail (s : State) (c status : Nat) : State :=
  if s.sknWaits c then s.modSkn c fun t => { t with ends := some status }
  else
    let s := s.sknTell c status
    if status = 2 then s.sknCleared c else (s.modSkn c fun t => { t with ends := none }).setSkn c 3

/-- A skein reset (R330). -/
def State.sknReset (s : State) (c : Nat) : State :=
  if s.sknState c = 0 then s else if s.sknState c = 2 then s.sknFail c 2 else s.sknCleared c

/-- SKEIN_COMPLETE (R319): the device holds every input of the plan, or an end that waited is told. A fence that CU cannot take
keeps the context waiting. -/
def execSkeinComplete (c : Fin 256) (s : State) : Out :=
  let s := s.sknGo c
  let t := s.skn c
  if s.sknState c ≠ 2 then .next s
  else match t.ends, s.sknInputs c with
    | some k, _ => .next (s.sknFail c k)
    | none, o =>
      if t.refused then .next (s.sknFail c 3)
      else match o with
        | none => .next s
        | some l =>
          if s.sknWaits c then .next s
          else match s.sknResult c l with
            | (s, false) => .next (s.sknFail c 3)
            | (s, true) =>
              let s := (((s.sknDone c t.op).sknTell c 0).bump (addrSknCnt 0) fldSknCnt_COUNT)
              .next (s.sknEnd c 1 ((s.opseq c + 1) % 65536))

/-- SKEIN_TIMEOUT (R319): TMO microseconds have passed since the operation began. -/
def execSkeinTimeout (c : Fin 256) (s : State) : Out :=
  let t := s.skn c
  if s.sknState c = 2 ∧ t.ends = none ∧ t.tmo ≠ 0 ∧ t.start + 1000 * t.tmo ≤ s.tb64 then
    .next ((s.sknFail c 1).bump (addrSknCnt 2) fldSknCnt_COUNT)
  else .next s

/-! ### Arrivals (R320, R322, R326) -/

/-- A cell discarded as stale. -/
def State.sknStale (s : State) : State := (s.setFld addrSknStatus fldSknStatus_STALE 1).bump (addrSknCnt 1) fldSknCnt_COUNT

/-- A cell has a reserved field, or its context or operation is not one that is held (R322). -/
def State.sknBad (s : State) (x : Cell) : Bool :=
  let c := hdrF x 95 88
  let k := hdrF x 87 72
  let st := s.sknState c
  (st ≠ 1 && st ≠ 2) || (k ≠ s.opseq c && k ≠ (s.opseq c + 1) % 65536) || 5 ≤ hdrF x 71 68 || hdrF x 67 67 ≠ 0 ||
    5 ≤ hdrF x 66 64 || cTC x ≠ 6 || cE x

/-- The cell held. -/
def skCellOf (x : Cell) : SkCell :=
  { opseq := hdrF x 87 72, sop := hdrF x 71 68, chunk := hdrF x 22 12, orig := hdrF x 11 0, form := hdrF x 66 64, pay := x.pay }

/-- A GLOBAL or RELAY cell of a group already received, or outside the plan. -/
def SkCtx.staleGroup (t : SkCtx) (own : Nat) (y : SkCell) : Bool :=
  let g := y.orig / 64
  (y.sop = 1 || y.sop = 2) &&
    (g = own || (t.group g).isEmpty ||
      t.got.any fun x => x.opseq = y.opseq && (x.sop = 1 || x.sop = 2) && x.orig / 64 = g && x.chunk = y.chunk)

/-- A cell taken by its context: held, passed on where its operation already runs here, and the operation goes on. -/
def State.sknTake (s : State) (x : Cell) : State :=
  let c := hdrF x 95 88
  let y := skCellOf x
  let t := s.skn c
  if s.sknBad x ∨ t.staleGroup (s.devId / 64) y then s.sknStale
  else
    let s := s.modSkn c fun t => { t with got := t.got ++ [y] }
    let s := if t.begun ∧ y.opseq = s.opseq c then s.sknPass c y else s
    s.sknGo c

/-- A MARKER of a port taken (R326): a device that has not recorded does so at once. -/
def State.marker (s : State) (p : Nat) (x : Cell) : State :=
  let c := hdrF x 95 88
  if s.sknBad x then s.sknStale
  else
    let s := if (s.skn c).op = 2 then s else if s.sknState c = 1 then s.snapStart c else s
    if (s.skn c).op = 2 then
      let b := s.fld addrSknSnapbase fldSknSnapbase_BASE * 65536
      let t := s.port p
      let s := (List.range 7).foldl (fun s tc =>
        s.poke32 (b + 0x16000 + 64 * p + 8 * tc) ((nth 0 t.ccnt tc + nth 0 t.rxHeld tc) % 2 ^ 24)) s
      (s.modSkn c fun t => { t with marks := p :: t.marks }).snapBarrier c
    else s.sknStale

/-- SKEIN_CELL_RECEIVED (R320 to R322): the oldest skein cell that has arrived, unless it is a MARKER. -/
def execSkeinCellReceived (s : State) : Out :=
  match s.sknIn with
  | (_, x) :: r => if hdrF x 71 68 = 3 then .next s else .next ({ s with sknIn := r }.sknTake x)
  | [] => .next s

/-- MARKER_RECEIVED (R326): the oldest skein cell is a MARKER of this port. -/
def execMarkerReceived (p : PortNo) (s : State) : Out :=
  match s.sknIn with
  | (q, x) :: r => if q = p.val ∧ hdrF x 71 68 = 3 then .next ({ s with sknIn := r }.marker p x) else .next s
  | [] => .next s

/-- The unit holds no operation in progress, so STOPPING can end. -/
def State.sknIdle (s : State) : Bool := (List.range 256).all fun c => s.sknState c ≠ 2

end Sys2Proof.Machine
end

