-- ==== Sys2Proof/Machine/FabricTime.lean ====
section
/-! DEFINITION. Fabric time (R306 to R310, R475): the RCLK edge, rate, slew and step, the snap registers, the TSINFO cells,
and the scheduled actions (R315, R316). Times are in units of 2^-40 ns: TB in bits [103:40], TBF in [39:24]. -/

namespace Sys2Proof.Machine

/-- A time in the format of R103: TB[47:0] and TBF. -/
def pairOf (t : Nat) : Nat := t / 2 ^ 24 % 2 ^ 64

/-- SKN_INC[1] written: both halves apply from the next RCLK edge (R307). -/
def State.tbRate (s : State) : State :=
  { s with incNew := some ((s.rd addrSknInc1).toNat % 2 ^ 12 * 2 ^ 32 + (s.rd addrSknInc0).toNat) }

/-- SKN_SLEWN written: the amount is the SKN_SLEW held now (R307). -/
def State.tbSlewStart (s : State) : State := { s with slew := (s.rd addrSknSlew).toInt }

/-- SKN_TBCTL.STEP: the amount of SKN_STEP is added at the next RCLK edge. -/
def State.tbStepReq (s : State) : State :=
  let ns := signedOf 64 ((s.rd (addrSknStep 0)).toNat + (s.rd (addrSknStep 1)).toNat * 2 ^ 32)
  let fr := (s.rd (addrSknStep 2)).toNat % 65536
  { s with stepNew := some (wrapTo 104 (ns * (2 ^ 40 : Nat) + (fr * 2 ^ 24 : Nat))) }

/-- SKN_TBCTL.SNAP: the WCLK shadow latched (R308). -/
def State.tbSnapNow (s : State) : State :=
  ((s.wr (addrSknTbs 0) (wordOf s.tb64)).wr (addrSknTbs 1) (wordOf (s.tb64 / 2 ^ 32))).wr (addrSknTbs 2) (wordOf s.tbf)

/-- A scheduled action's target. -/
def State.schT (s : State) (j : Nat) : Nat := (s.rd (addrSknSchlo j)).toNat + (s.rd (addrSknSchhi j)).toNat * 2 ^ 32

/-- Armed actions that a step passes are late (R316). -/
def State.passedBy (s : State) (old new : Nat) : List Nat :=
  (List.range 32).filter fun j => s.on (addrSknScha j) fldSknScha_EN && old < s.schT j && s.schT j ≤ new

/-- The time that a scheduled action compares with: the always-on timebase after its last edge for ACT 1, the WCLK shadow otherwise
(R315). -/
def State.schNow (s : State) (j : Nat) : Nat :=
  if s.fld (addrSknScha j) fldSknScha_ACT = 1 then s.tb / 2 ^ 40 else s.tb64

/-- SKN_SCHA written (R316): an action that is armed is late when its target is already past; one that is disarmed is forgotten. -/
def State.schArmed (s : State) (j : Nat) : State :=
  let l := s.schLate.filter (· ≠ j)
  { s with schLate := if s.on (addrSknScha j) fldSknScha_EN ∧ s.schT j < s.schNow j then j :: l else l }

/-- A time capture of the treadle network takes its value at the RCLK edge after its emission (R354). -/
def State.timeCapture (s : State) (j : Nat) : State :=
  if s.on (addrTrdCapst j) fldTrdCapst_VALID then s.setFld (addrTrdCapst j) fldTrdCapst_OVF 1
  else
    let v := pairOf s.tb
    ((s.wr (addrTrdCap j 0) (wordOf v)).wr (addrTrdCap j 1) (wordOf (v / 2 ^ 32))).setFld (addrTrdCapst j) fldTrdCapst_VALID 1

/-- In recovery the ROM toggles BOOTLED at 2 Hz (R436; a change every 500 ms: log 114). -/
def State.bootLed (s : State) : State :=
  match s.recov with
  | some t => if t ≤ s.tb64 then { s.pinLevel 86 (!s.pinOut 86) with recov := some (t + 500000000) } else s
  | none => s

/-- RCLK_EDGE (R306, R307): outside reset and with power, the timebase adds INC, an active slew and a step; the shadow follows while
WCLK runs (R31); captures that waited for the edge take its value. -/
def execRclkEdge (s : State) : Out :=
  if !s.started then .next s
  else
    let n := s.fld addrSknSlewn fldSknSlewn_N
    let plain : Int := (s.tb : Int) + s.edgeAdd
    let v := wrapTo 104 (plain + (s.stepNew.getD 0 : Nat))
    let late := if s.stepNew.isSome then s.passedBy (wrapTo 104 plain / 2 ^ 40) (v / 2 ^ 40) else []
    let inc := s.incNew.getD s.inc
    let s := if s.stepNew.isSome then s.setFld addrSknStatus fldSknStatus_STEPPED 1 else s
    let s := s.setFld addrSknSlewn fldSknSlewn_N (n - 1)
    let caps := s.capWait
    let s := { s with tb := v, shadow := if s.asleep then s.shadow else v, inc := inc, incNew := none, stepNew := none,
                      rclk := s.rclk + 1, capWait := [], schLate := late ++ s.schLate.filter fun j => !late.contains j }
    .next (caps.foldl State.timeCapture s).bootLed

/-- A scheduled action fires: EN clears, and a late one says so (R315, R316). -/
def State.schFire (s : State) (j : Nat) : State :=
  let a := addrSknScha j
  let arg := s.fld a fldSknScha_ARG
  let act := s.fld a fldSknScha_ACT
  let s := s.setFld a fldSknScha_EN 0
  let s := if s.schLate.contains j then
      let s := (s.setFld a fldSknScha_LATE 1).setFld addrSknStatus fldSknStatus_LATE 1
      { s with schLate := s.schLate.filter (· ≠ j) }
    else s
  match act with
  | 1 => s.fireProd (128 + arg % 32)
  | 2 => s.raise (0x0620 + j)
  | 3 => s.sknReset (arg % 256)
  | 4 => if s.unitState addrSknCtl = 2 then (s.sknStartOp (arg % 256) 2).1 else s
  | _ => s

/-- SCHEDULED_ACTION (R315): TB has reached the target; in DEEP SLEEP, where no WCLK cycle passes, only ACT 1 fires. Entries due
together fire in ascending number. -/
def execScheduledAction (j : Fin 32) (s : State) : Out :=
  let due := fun (i : Nat) =>
    s.on (addrSknScha i) fldSknScha_EN && s.schT i ≤ s.schNow i && (!s.asleep || s.fld (addrSknScha i) fldSknScha_ACT = 1)
  if due j && (List.range j.val).all (fun i => !due i) then .next (s.schFire j) else .next s

/-- A stamp's SFID word and value words. -/
def State.stampWords (s : State) (p i : Nat) : List Byte :=
  bytesLE 4 (s.rd (addrSknTsh p i 0)).toNat
def State.stampTime (s : State) (p i : Nat) : List Byte :=
  bytesLE 4 (s.rd (addrSknTsh p i 2)).toNat ++ bytesLE 4 (s.rd (addrSknTsh p i 3)).toNat

/-- TSINFO_SEND (R310): a UP port whose PERIOD superframes have passed puts a TSINFO cell in line. -/
def execTsinfoSend (p : PortNo) (s : State) : Out :=
  let t := s.port p
  if s.on addrSknTcfg fldSknTcfg_TSEN && s.lstate p = 3 && s.fld addrSknTcfg fldSknTcfg_PERIOD ≤ t.tsCount then
    let tx := (t.txStampN + 7) % 8
    let rx := 8 + (t.rxStampN + 7) % 8
    let a := addrSknTstat
    let st := s.fld a fldSknTstat_SYNCED + 2 * s.fld addrSknTcfg fldSknTcfg_ROOT + 4 * s.fld a fldSknTstat_HOLD +
      8 * s.fld a fldSknTstat_STRATUM
    let body := s.stampWords p tx ++ s.stampTime p tx ++ s.stampWords p rx ++ s.stampTime p rx ++ bytesLE 2 st ++
      bytesLE 2 (s.fld addrSknTqual fldSknTqual_QUAL) ++ bytesLE 2 t.txStampHi ++ bytesLE 2 (s.fld a fldSknTstat_ROOTID)
    .next ((s.modPort p fun t => { t with tsCount := 0 }).queueCtl p { sub := 0x20, body := body })
  else .next s

/-- TSINFO_RECEIVED (R310): a verified TSINFO is copied, its bit of SKN_TSNEW set, and the event of WH37 held pending. -/
def execTsinfoReceived (p : PortNo) (cell : Cell) (tag : TagCheck) (s : State) : Out :=
  match s.ctlIn p (cSub 0x20) cell tag with
  | (s, none) => .next s
  | (s, some (c, _)) =>
    let s := s.ctlCommon p c
    if cSub 0x20 c ∧ s.lstate p ≠ 0 then
      let s := (List.range 8).foldl (fun s k => s.wr (addrSknTsin p k) (wordOf (pWord c (32 + 4 * k)))) s
      let a := addrSknTsnew (p / 32)
      .next ((s.setBits a (wordOf (2 ^ (p.val % 32)))).raise 0x0600)
    else .next s

/-- A write of SKN_SCHA that arms a reserved action (R315). -/
def schBad (v : Word) : Bool :=
  let act := getF v fldSknScha_ACT
  let arg := getF v fldSknScha_ARG
  isOn v fldSknScha_EN && (act = 0 || 5 ≤ act || (act = 1 && 32 ≤ arg) || (3 ≤ act && 256 ≤ arg))

end Sys2Proof.Machine
end

