-- ==== Sys2Proof/Machine/HapCtl.lean ====
section
/-! DEFINITION. The host attach port's registers and channel states (R409, R410, R420 to R422), and the supply of host credits.
The requests of the host stand in Host.lean, after the register access they use. -/

namespace Sys2Proof.Machine

/-- A channel's control register written; every change of STATE fires event k = 3 (R422). -/
def State.setHapCtl (s : State) (c : Nat) (w : Word) : State :=
  let old := s.unitState (addrHapCtl c)
  let s := s.wr (addrHapCtl c) w
  if getF w enSTATE = old then s else s.raise (0x0D00 + 4 * c + 3)

/-- TAGQ shown. -/
def State.showTagq (s : State) (c : Nat) : State :=
  let n := (s.hapc c).quar.length
  let s := s.setFld (addrHapTagq c) fldHapTagq_COUNT n
  if 1024 ≤ n then s.setFld (addrHapStatus c) fldHapStatus_TAGQF 1 else s

/-- A credit violation (R410). -/
def State.creditViolation (s : State) (c : Nat) : State :=
  let s := (s.setFld (addrHapStatus c) fldHapStatus_CRDV 1).raise (0x0D00 + 4 * c + 2)
  s.setHapCtl c (enableRule (s.rd (addrHapCtl c)) 0)

/-- The end of STARTING: HCLK runs, and 32 credits of each kind go to the host. -/
def State.hapStarted (s : State) (c : Nat) : State :=
  if s.unitState (addrHapCtl c) = 1 ∧ s.on addrHapGstat fldHapGstat_HCLKOK then
    let s := s.setHapCtl c (startingEnd (s.rd (addrHapCtl c)))
    s.modHapc c fun h => { h with outHreq := 32, outDrsp := 32 }
  else s

/-- The posted writes that a stopping channel still holds fail (R418, R422). -/
def State.failQueued (s : State) (c : Nat) : State :=
  let h := s.hapc c
  let s := s.modHapc c fun h => { h with dreqQ := [] }
  (h.dreqQ.filter fun f => f.op ≠ 0).foldl (fun s f =>
    match h.wlog.reverse.find? fun w => w.wseq = f.tag with
    | some w => s.writeFail c w.who w.addr
    | none => s) s

/-- The end of STOPPING: tags and quarantine discarded, the credit counters zeroed. -/
def State.hapStopped (s : State) (c : Nat) : State :=
  if s.unitState (addrHapCtl c) = 3 then
    let s := s.failQueued c
    let s := s.modHapc c fun h => { h with reads := [], quar := [], crHrsp := 0, crDreq := 0, outHreq := 0, outDrsp := 0, hrspQ := [] }
    (s.showTagq c).setHapCtl c (stoppingEnd (s.rd (addrHapCtl c)))
  else s

/-- HAP_IARM (R420): the vectors of the bits written re-arm, and held firings go at once. -/
def State.iarm (s : State) (w : Nat) (v : Word) : State :=
  (List.range 32).foldl (fun s b =>
    if v.toNat.testBit b then (s.setFld (addrHapIctl (32 * w + b)) fldHapIctl_ARMED 1).irqHeld (32 * w + b) else s) s

/-- HAP_IFIRE (R420): the CLASS 2 vectors of the bits written fire. -/
def State.ifire (s : State) (w : Nat) (v : Word) : State :=
  (List.range 32).foldl (fun s b =>
    let i := 32 * w + b
    if v.toNat.testBit b && s.fld (addrHapIctl i) fldHapIctl_CLASS = 2 then
      s.irqFire i (s.fld (addrHapIctl i) fldHapIctl_CH) 0xFF false
    else s) s

/-- HAP_IARM as it reads: ARMED of its vectors. -/
def State.iarmWord (s : State) (w : Nat) : Word :=
  wordOf ((List.range 32).foldl (fun v b => if s.on (addrHapIctl (32 * w + b)) fldHapIctl_ARMED then v + 2 ^ b else v) 0)

/-- HOST_CREDIT_RETURN (R409): the host returns credits; at most 1,023 are outstanding. -/
def execHostCreditReturn (c : Fin 8) (hrsp dreq : Fin 4) (s : State) : Out :=
  if s.hapOn c then
    .next ((s.modHapc c fun h => { h with crHrsp := min 1023 (h.crHrsp + hrsp.val), crDreq := min 1023 (h.crDreq + dreq.val) }).hapFlush c)
  else .next s

/-- HCLK_LOSS (R422): HCLK stops or returns; when it returns the waiting flits move. -/
def execHclkLoss (runs : Bool) (s : State) : Out :=
  let s := s.setFld addrHapGstat fldHapGstat_HCLKOK (b2n runs)
  .next (if runs then (List.range 8).foldl (fun s c => s.hapFlush c) s else s)

end Sys2Proof.Machine
end

