-- ==== Sys2Proof/Machine/Sec.lean ====
section
/-! DEFINITION. The security engine (R379, R382, R383, R391 to R393, R397, R398, R401 to R405): the key store, the operation
blocks and their queues, role sessions, the audit log, the attestation report. The primitives are constants without a body;
the spec's algorithms stand in the argument lists. -/

namespace Sys2Proof.Machine

/-! ### OTP (R379, R388, R402, R454) -/

/-- The lifecycle state. -/
def State.lcs (s : State) : Nat := s.fld addrSecStatus fldSecStatus_LCS
/-- The lifecycle state moved in OTP. -/
def State.setLcs (s : State) (v : Nat) : State :=
  { s.setFld addrSecStatus fldSecStatus_LCS v with otp := tset s.otp addrSecStatus (setF 0 fldSecStatus_LCS v) }

/-! ### The key store (R383) -/

/-- A secret by its handle. -/
def State.secret (s : State) (h : Nat) : Option Secret := (s.keyStore.find? fun x => x.1 = h).map (·.2)
/-- A secret of a kind. -/
def State.secretOf (s : State) (kind h : Nat) : Option (List Byte) :=
  match s.secret h with
  | some x => if x.kind = kind then some x.data else none
  | none => none
/-- A secret put under the lowest free handle; none when the store is full. -/
def State.putSecret (s : State) (kind : Nat) (d : List Byte) : State × Option Nat :=
  match firstBelow 256 fun h => (s.secret h).isNone with
  | some h => ({ s with keyStore := tset s.keyStore h { kind := kind, data := d } }, some h)
  | none => (s, none)
/-- A handle erased. -/
def State.dropSecret (s : State) (h : Nat) : State := { s with keyStore := terase s.keyStore h }

/-- HMAC-SHA-384. -/
def hmac384 (key d : List Byte) : List Byte := cryptoN 0x0A (key ++ d) 0 48

/-- The lengths of the public parts: P-384 and ML-DSA-87 identity keys, their two signatures, ML-KEM-1024 and P-384 shares
(R380). -/
def lenKeys : Nat := 97 + 2592
def lenSigs : Nat := 96 + 4627
def lenKem : Nat := 1568 + 97

/-! ### Role sessions (R391 to R393) -/

/-- The open session of a role. -/
def State.session (s : State) (role : Nat) : Option Session := (s.sessions.find? fun x => x.1 = role).map (·.2)
/-- A session changed. -/
def State.setSession (s : State) (role : Nat) (x : Session) : State := { s with sessions := tset s.sessions role x }

/-- The SEC_GRANT bit of a role. -/
def grantBit (role : Nat) : Bits := if role = 1 then fldSecGrant_OPR else if role = 2 then fldSecGrant_INS else fldSecGrant_MAK

/-- The debug session closes: its status bits and TRCEN clear (R395). -/
def State.closeDebug (s : State) : State :=
  match s.dbg with
  | none => s
  | some _ =>
    let s := (s.setFld addrSecStatus fldSecStatus_DBGS 0).setFld addrSecStatus fldSecStatus_DBGZ 0
    { s.setFld addrDbgTrcctl fldDbgTrcctl_TRCEN 0 with dbg := none, trcThread := none }

/-- A session closes: its key is erased, its grant and its debug session end, the latter with an audit entry. -/
def State.closeSession (s : State) (role : Nat) : State :=
  match s.session role with
  | none => s
  | some x =>
    let s := { s.dropSecret x.handle with sessions := terase s.sessions role }
    let s := s.setFld addrSecGrant (grantBit role) 0
    match s.dbg with
    | some (sc, r) => if r = role then (s.audit 0x0E role 0 0 (bytesLE 1 (b2n sc))).closeDebug else s
    | none => s

/-- The boot KEM keys, generated once a boot. -/
def State.bootKeys (s : State) : State × Option (Nat × List Byte) :=
  match s.bootKem with
  | some k => (s, some k)
  | none =>
    let k := s.free
    let s := { s with free := k + 1 }
    match s.putSecret 0 (cryptoN 0x106 [] k 64) with
    | (s, some h) =>
      let p := (h, cryptoN 6 [] k lenKem)
      ({ s with bootKem := some p }, some p)
    | (s, none) => (s, none)

/-- The keys are those of the role (R389): an unrevoked installer slot holds their fingerprint; the operator key list in
force, or the maker certificate, names them. -/
def State.roleKeys (s : State) (role : Nat) (keys : List Byte) : Bool :=
  match role with
  | 1 => Config.cryptoOk 0x201 (keys ++ tget (fun _ => []) s.lists 6)
  | 2 => s.instKeys.any fun x => !s.instGone.contains x.1 && x.2 == sha384 keys
  | 3 => Config.cryptoOk 0x203 keys
  | _ => false

/-- OPENs of a role are refused now. -/
def State.barred (s : State) (role : Nat) : Bool := s.tb64 < tget (fun _ => 0) s.openBar role

/-- A failed OPEN: more than 16 within 60 s bar the role for 60 s. -/
def State.openFailed (s : State) (role : Nat) : State :=
  let l := (role, s.tb64) :: s.openBad.filter fun x => s.tb64 < x.2 + 60000000000
  let s := { s with openBad := l }
  if 16 < (l.filter fun x => x.1 = role).length then { s with openBar := tset s.openBar role (s.tb64 + 60000000000) } else s

/-- OPEN_SESSION (R391): the role's public keys, the encapsulation, both signatures. The SID and the handle of SK, or the
status of the failure. -/
def State.openSession (s : State) (role : Nat) (body : List Byte) : State × Except Nat (Nat × Nat) :=
  let keys := body.take lenKeys
  let enc := (body.drop lenKeys).take lenKem
  let sigs := body.drop (lenKeys + lenKem)
  if role = 0 ∨ 4 ≤ role ∨ body.length ≠ lenKeys + lenKem + lenSigs then (s, .error 5)
  else match s.chal, s.bootKem with
    | some ch, some (kh, _) =>
      let s := { s with chal := none }
      let signed := sha384 (ch ++ bytesLE 2 s.devId ++ bytesLE 2 role ++ enc)
      match s.secretOf 0 kh with
      | none => (s, .error 2)
      | some priv =>
        if s.barred role || !s.roleKeys role keys || !Config.cryptoOk 5 (signed ++ sigs ++ keys) then (s.openFailed role, .error 1)
        else
          let sk := cryptoN 0x0B (cryptoN 8 (priv ++ enc) 0 80 ++ ch ++ bytesLE 2 role) 0 48
          let s := s.closeSession role
          match s.putSecret 2 sk with
          | (s, none) => (s, .error 3)
          | (s, some h) =>
            let sid := s.sids + 1
            let x : Session := { sid := sid, handle := h, last := s.tb64, print := sha384 keys, chal := ch }
            ({ s.setSession role x with sids := sid }, .ok (sid, h))
    | _, _ => (s.openFailed role, .error 1)

/-- GRANT_ROLE (R393): the session is open and SK's handle matches; MAK needs the co-signature in SHIPPED. -/
def State.grantTo (s : State) (sid handle : Nat) : State × Nat :=
  match s.sessions.find? fun x => x.2.sid = sid && x.2.handle = handle with
  | some (role, x) =>
    if role = 3 ∧ s.lcs = 2 ∧ !x.cosig then (s, 1) else (s.setFld addrSecGrant (grantBit role) 1, 0)
  | none => (s, 2)

/-! ### End-to-end slots and link keys (R397, R398, R218, R383) -/

/-- A job key installed in a slot, if the unwrap verifies (R398). -/
def State.installSlot (s : State) (slot : Nat) (z : Bool) (kid : Word) (ch enc wrapped : List Byte) : State × Nat :=
  match s.bootKem with
  | none => (s, 2)
  | some (kh, _) =>
    match s.secretOf 0 kh with
    | none => (s, 2)
    | some priv =>
      let wk := cryptoN 0x0C (cryptoN 8 (priv ++ enc) 0 80 ++ ch ++ bytesLE 2 slot ++ bytesLE 4 kid.toNat) 0 32
      if Config.cryptoOk 0x11 (wk ++ wrapped) then
        let s := { s with slotKeys := tset s.slotKeys slot (cryptoN 0x11 (wk ++ wrapped) 0 32) }
        ((s.wr (addrSecKslot0 slot) (wordOf (2 ^ 31 + b2n z * 2 ^ 30))).wr (addrSecKslot1 slot) kid, 0)
      else (s, 1)

/-- A slot erased. -/
def State.eraseSlot (s : State) (slot : Nat) : State :=
  { (s.wr (addrSecKslot0 slot) 0).wr (addrSecKslot1 slot) 0 with slotKeys := terase s.slotKeys slot }

/-- "TB link". -/
def tbLink : List Byte := [0x54, 0x42, 0x20, 0x6C, 0x69, 0x6E, 0x6B]

/-- The key derivation of R218: the 128 bytes of okm. -/
def State.linkOkm (s : State) (p epoch role : Nat) (secret th : List Byte) : List Byte :=
  let me := s.devId
  let other := s.fld (addrLnkState p) fldLnkState_PARTNER
  let ids := if role = 0 then bytesLE 2 me ++ bytesLE 2 other else bytesLE 2 other ++ bytesLE 2 me
  cryptoN 9 (th ++ secret ++ tbLink ++ bytesLE 1 epoch ++ ids) 0 128

/-- Keys of both directions loaded into an epoch of a port, the transmitter's first: I's for role 0, Q's for role 1 (R218). The epoch
waits for its superframe boundary (R207). -/
def State.loadLink (s : State) (p epoch role : Nat) (okm : List Byte) : State :=
  let k := if role = 0 then okm.take 80 else (okm.drop 40).take 40 ++ okm.take 40
  s.modPort p fun t => { t with keys := tset t.keys epoch k, rxPend := some epoch, txPend := some epoch }

/-- A port's epoch erased. -/
def State.eraseEpoch (s : State) (p epoch : Nat) : State :=
  s.modPort p fun t => { t with keys := terase t.keys epoch, rxPend := if t.rxPend = some epoch then none else t.rxPend,
                                txPend := if t.txPend = some epoch then none else t.txPend }

/-! ### Attestation (R401) -/

/-- The numbers that a list of (count, stride) pairs spells as offsets. -/
def dimOffs : List (Nat × Nat) → List Nat
  | [] => [0]
  | (c, st) :: r => (List.range c).flatMap fun i => (dimOffs r).map (· + i * st)

/-- Every row of the register map. -/
def allRows : List RegRow :=
  rowsWhl ++ rowsMem ++ rowsBob ++ rowsLgr ++ rowsLnk ++ rowsRte ++ rowsReel ++ rowsDrf ++ rowsPly ++ rowsSkn ++ rowsTns ++
    rowsSng ++ rowsTrd ++ rowsPin ++ rowsSec ++ rowsHap ++ rowsCxp ++ rowsPwr ++ rowsClk ++ rowsRst ++ rowsDbg

/-- The addresses of the RW-I registers, rising. -/
def rwiAddrs : List Nat :=
  let l := (allRows.filter fun r => r.flds.any fun f => f.acc = .rwi).flatMap fun r => (dimOffs r.dims).map (· + r.base)
  (l.foldl (fun (t : Tbl Unit) a => tset t a ()) []).map (·.1)

/-- The attestation report for a nonce, with the identity signatures. -/
def State.report401 (s : State) (nonce : List Byte) : State × List Byte :=
  let st := s.fld addrLgrGstat fldLgrGstat_GUAR + 2 * b2n (s.unitState addrSngCtl = 2) + 4 * s.fld addrSecStatus fldSecStatus_DBGS +
    8 * s.fld addrSecStatus fldSecStatus_DBGZ + 16 * s.fld addrLgrGstat fldLgrGstat_OVR +
    32 * s.fld addrSecStatus fldSecStatus_AUDEXH + 64 * s.fld addrSecStatus fldSecStatus_BOOTV
  let cfg := sha384 (rwiAddrs.flatMap fun a => bytesLE 4 (s.rd a).toNat)
  let pub := match s.bootKem with | some (_, d) => d | none => []
  let r := [0x54, 0x42, 0x41, 0x54] ++ bytesLE 2 1 ++ bytesLE 2 0 ++ bytesLE 2 (if s.idSet then s.devId else 0xFFFF) ++
    bytesLE 1 s.lcs ++ bytesLE 1 0 ++ bytesLE 4 (s.rd addrSecBootcnt).toNat ++ bytesLE 8 s.audSeq ++ bytesLE 8 s.tb64 ++
    padTo 48 0 nonce ++ cryptoN 0x100 pub 0 32 ++ s.meas.flatMap (padTo 48 0) ++ cfg ++ s.audHead ++ bytesLE 4 st ++ List.replicate 12 0
  ({ s with free := s.free + 1 }, r ++ cryptoN 4 r s.free lenSigs)

/-! ### Operation blocks (R382, R383) -/

/-- Word `i` of a block, and its fields. -/
abbrev OpBlk := List Nat
def OpBlk.w (b : OpBlk) (i : Nat) : Nat := nth 0 b i
def OpBlk.op (b : OpBlk) : Nat := natField (OpBlk.w b 0) ⟨7, 0⟩
def OpBlk.param (b : OpBlk) (f : Bits) : Nat := natField (natField (OpBlk.w b 0) ⟨23, 8⟩) f
def OpBlk.inA (b : OpBlk) : Nat := OpBlk.w b 5
def OpBlk.inL (b : OpBlk) : Nat := OpBlk.w b 6
def OpBlk.outA (b : OpBlk) : Nat := OpBlk.w b 7
def OpBlk.outL (b : OpBlk) : Nat := OpBlk.w b 8

/-- The engine's access for a whorl, as an S-world supervisor, in the creel or a lap. -/
def State.secMay (s : State) (n : Nat) (k : AccKind) (a len : Nat) : Bool :=
  (inCreel a || inLap a) && (inCreel (a + len - 1) || inLap (a + len - 1)) && s.grantedAll n false true k a len

/-- Bytes read for an operation: none when they are refused or uncorrectable. -/
def State.secGet (s : State) (n a len : Nat) : State × Option (List Byte) :=
  if len = 0 then (s, some []) else if s.secMay n .read a len then s.memRead n a len else (s, none)

/-- An operation over IN and OUT: status 5 where a length does not match, 4 where an access is refused; else what `f` makes of
the input, its output written when its status is 0. -/
def State.secXfer (s : State) (n : Nat) (b : OpBlk) (inOk : Nat → Bool) (outLen : Nat)
    (f : State → List Byte → State × Nat × List Byte) : State × Nat :=
  if !inOk (OpBlk.inL b) || OpBlk.outL b ≠ outLen then (s, 5)
  else if outLen ≠ 0 && !s.secMay n .write (OpBlk.outA b) outLen then (s, 4)
  else match s.secGet n (OpBlk.inA b) (OpBlk.inL b) with
    | (s, none) => (s, 4)
    | (s, some d) =>
      match f s d with
      | (s, 0, o) => ((s.memWrite n (OpBlk.outA b) o).1, 0)
      | (s, st, _) => (s, st)

/-- Exactly `n` bytes of input. -/
def exactly (n : Nat) (l : Nat) : Bool := l = n
/-- Any number of bytes. -/
def anyLen (_ : Nat) : Bool := true

/-- A secret stored for a block, its handle written to word `i`. -/
def State.secKeep (s : State) (n blk i kind : Nat) (d : List Byte) : State × Nat :=
  match s.putSecret kind d with
  | (s, some h) => ((s.memWrite n (blk + 4 * i) (bytesLE 4 h)).1, 0)
  | (s, none) => (s, 3)

/-- A whorl may load and erase the keys of a port: WH39 any, a link whorl its own four. -/
def ownPort (n p : Nat) : Bool := n = 39 || p / 4 = n

/-- Random identity signatures. -/
def State.opSign (s : State) (n : Nat) (b : OpBlk) : State × Nat :=
  s.secXfer n b (exactly 48) lenSigs fun s d => ({ s with free := s.free + 1 }, 0, cryptoN 4 d s.free lenSigs)

/-- VERIFY: the keys stand at OUT. -/
def State.opVerify (s : State) (n : Nat) (b : OpBlk) : State × Nat :=
  if OpBlk.outL b ≠ lenKeys then (s, 5)
  else match s.secGet n (OpBlk.outA b) lenKeys with
    | (s, none) => (s, 4)
    | (s, some k) =>
      match s.secGet n (OpBlk.inA b) (OpBlk.inL b) with
      | (s, none) => (s, 4)
      | (s, some d) => (s, if Config.cryptoOk 5 (d ++ k) then 0 else 1)

/-- KEMGEN. -/
def State.opKemgen (s : State) (n blk : Nat) (b : OpBlk) : State × Nat :=
  s.secXfer n b (exactly 0) lenKem fun s _ =>
    let k := s.free
    let (s, st) := { s with free := k + 1 }.secKeep n blk 3 0 (cryptoN 0x106 [] k 64)
    (s, st, cryptoN 6 [] k lenKem)

/-- ENCAP. -/
def State.opEncap (s : State) (n blk : Nat) (b : OpBlk) : State × Nat :=
  s.secXfer n b (exactly lenKem) lenKem fun s d =>
    let k := s.free
    let (s, st) := { s with free := k + 1 }.secKeep n blk 3 1 (cryptoN 0x107 d k 80)
    (s, st, cryptoN 7 d k lenKem)

/-- DECAP. -/
def State.opDecap (s : State) (n blk : Nat) (b : OpBlk) : State × Nat :=
  match s.secretOf 0 (OpBlk.w b 1) with
  | none => (s, 2)
  | some priv =>
    s.secXfer n b (exactly lenKem) 0 fun s d =>
      let (s, st) := s.secKeep n blk 3 1 (cryptoN 8 (priv ++ d) 0 80)
      (s, st, [])

/-- DERIVE_LINK. -/
def State.opDerive (s : State) (n : Nat) (b : OpBlk) : State × Nat :=
  let p := OpBlk.param b ⟨7, 0⟩
  let e := OpBlk.param b ⟨9, 8⟩
  let role := OpBlk.param b ⟨10, 10⟩
  if 144 ≤ p ∨ e = 0 ∨ e = 3 ∨ OpBlk.param b ⟨15, 11⟩ ≠ 0 then (s, 5)
  else if !ownPort n p then (s, 6)
  else match s.secretOf 1 (OpBlk.w b 1) with
    | none => (s, 2)
    | some sec =>
      s.secXfer n b (exactly 48) 96 fun s th =>
        let okm := s.linkOkm p e role sec th
        let ck := okm.drop 80
        (s.loadLink p e role okm, 0, hmac384 ck (th ++ [0]) ++ hmac384 ck (th ++ [1]))

/-- HMAC. -/
def State.opHmac (s : State) (n : Nat) (b : OpBlk) : State × Nat :=
  match s.secretOf 2 (OpBlk.w b 1) with
  | none => (s, 2)
  | some k => s.secXfer n b anyLen 48 fun s d => (s, 0, hmac384 k d)

/-- OPEN_SESSION: the role in PARAM; the handle of SK to HOUT, the SID to word 9 (the places are the model's). -/
def State.opOpen (s : State) (n blk : Nat) (b : OpBlk) : State × Nat :=
  s.secXfer n b anyLen 0 fun s d =>
    match s.openSession (OpBlk.param b ⟨15, 0⟩) d with
    | (s, .error st) => (s, st, [])
    | (s, .ok (sid, h)) =>
      (((s.memWrite n (blk + 12) (bytesLE 4 h)).1.memWrite n (blk + 36) (bytesLE 4 sid)).1, 0, [])

/-- UNWRAP_SLOT: slot in PARAM[11:0], world in PARAM[12], the session key's handle in HIN0, KID in word 9; IN holds the
encapsulation and the wrapped key (the places are the model's). -/
def State.opUnwrap (s : State) (n : Nat) (b : OpBlk) : State × Nat :=
  match s.sessions.find? fun x => x.2.handle = OpBlk.w b 1 with
  | none => (s, 2)
  | some (_, x) =>
    if OpBlk.param b ⟨15, 13⟩ ≠ 0 then (s, 5)
    else s.secXfer n b (exactly (lenKem + 48)) 0 fun s d =>
      let (s, st) := s.installSlot (OpBlk.param b ⟨11, 0⟩) (OpBlk.param b ⟨12, 12⟩ = 1) (wordOf (OpBlk.w b 9)) x.chal (d.take lenKem) (d.drop lenKem)
      (s, st, [])

/-- ERASE. -/
def State.opErase (s : State) (n : Nat) (b : OpBlk) : State × Nat :=
  let p := OpBlk.param b ⟨7, 0⟩
  match OpBlk.param b ⟨15, 14⟩ with
  | 0 => if (s.secret (OpBlk.w b 1)).isSome then (s.dropSecret (OpBlk.w b 1), 0) else (s, 2)
  | 1 => if 144 ≤ p then (s, 5) else if ownPort n p then (s.eraseEpoch p (OpBlk.param b ⟨9, 8⟩), 0) else (s, 6)
  | 2 => if n = 39 then (s.eraseSlot (OpBlk.param b ⟨11, 0⟩), 0) else (s, 6)
  | _ => (s, 5)

/-- An operation permitted to link whorls. -/
def linkOp (op : Nat) : Bool := (1 ≤ op && op ≤ 9) || op = 0x0D

/-- One operation: its state and STATUS. -/
def State.secRun (s : State) (n blk : Nat) (b : OpBlk) : State × Nat :=
  let op := OpBlk.op b
  if op = 0 ∨ 0x10 < op then (s, 5)
  else if n ≠ 39 ∧ !linkOp op then (s, 6)
  else match op with
    | 0x01 => s.secXfer n b anyLen 48 fun s d => (s, 0, sha384 d)
    | 0x02 => s.secXfer n b (exactly 0) (OpBlk.outL b) fun s _ => let (s, d) := s.randomBytes (OpBlk.outL b); (s, 0, d)
    | 0x03 => s.secXfer n b (exactly 0) (16 + lenKeys) fun s _ => (s, 0, cryptoN 3 [] 0 (16 + lenKeys))
    | 0x04 => s.opSign n b
    | 0x05 => s.opVerify n b
    | 0x06 => s.opKemgen n blk b
    | 0x07 => s.opEncap n blk b
    | 0x08 => s.opDecap n blk b
    | 0x09 => s.opDerive n b
    | 0x0A => s.opHmac n b
    | 0x0B => s.opOpen n blk b
    | 0x0C => s.opUnwrap n b
    | 0x0D => s.opErase n b
    | 0x0E => s.secXfer n b (exactly 80) 0 fun s d => (s.audAppend d, 0, [])
    | 0x0F => s.secXfer n b (exactly 48) (608 + lenSigs) fun s d => let (s, r) := s.report401 d; (s, 0, r)
    | _ => s.grantTo (OpBlk.w b 9) (OpBlk.w b 1)

/-- The whorl that is served next: by ascending number from the one after the whorl last served. -/
def State.secNext (s : State) : Option Nat :=
  ((List.range 40).map fun i => (s.secLast + 1 + i) % 40).find? fun n => !(tget (fun _ => []) s.secq n).isEmpty

/-- The operations queued by a whorl; QCNT shown. -/
def State.setSecq (s : State) (n : Nat) (l : List Nat) : State :=
  { s with secq := tset s.secq n l }.setFld (addrSecOpst n) fldSecOpst_QCNT l.length

/-- An operation leaves its queue, with the event of its whorl. -/
def State.secPop (s : State) (n : Nat) : State :=
  ({ s with secLast := n }.setSecq n ((tget (fun _ => []) s.secq n).drop 1)).raise (0x0C00 + n)

/-- The head operation of the rotation performed, if it is operation `k`, carries a reserved OP, or has a block that the engine
may not read. An audit append that needs an OTP step waits for VPP_OTP. -/
def State.secStep (s : State) (k : Nat) : State :=
  match s.secNext with
  | none => s
  | some n =>
    let blk := nth 0 (tget (fun _ => []) s.secq n) 0
    match s.secGet n blk 64 with
    | (s', none) => s'.secPop n
    | (s', some d) =>
      let b : OpBlk := (List.range 16).map fun i => leBytes ((d.drop (4 * i)).take 4)
      let op := OpBlk.op b
      if op ≠ k ∧ op ≠ 0 ∧ op ≤ 0x10 then s
      else if op = 0x0E ∧ !s.audReady 1 then s
      else
        let (s, st) := s'.secRun n blk b
        (if s.secMay n .write blk 4 then (s.memWrite n (blk + 3) (bytesLE 1 st)).1 else s).secPop n

def execHash (s : State) : Out := .next (s.secStep 0x01)
def execRandom (s : State) : Out := .next (s.secStep 0x02)
def execPubid (s : State) : Out := .next (s.secStep 0x03)
def execSignId (s : State) : Out := .next (s.secStep 0x04)
def execVerify (s : State) : Out := .next (s.secStep 0x05)
def execKemgen (s : State) : Out := .next (s.secStep 0x06)
def execEncap (s : State) : Out := .next (s.secStep 0x07)
def execDecap (s : State) : Out := .next (s.secStep 0x08)
def execDeriveLink (s : State) : Out := .next (s.secStep 0x09)
def execHmac (s : State) : Out := .next (s.secStep 0x0A)
def execOpenSession (s : State) : Out := .next (s.secStep 0x0B)
def execUnwrapSlot (s : State) : Out := .next (s.secStep 0x0C)
def execErase (s : State) : Out := .next (s.secStep 0x0D)
def execAuditAppend (s : State) : Out := .next (s.secStep 0x0E)
def execAttestOp (s : State) : Out := .next (s.secStep 0x0F)
def execGrantRole (s : State) : Out := .next (s.secStep 0x10)

/-! ### What SEC's registers do (R382, R390, R393, R407) -/

/-- SEC_OPDB[n] admits a writer: an S-world supervisor thread of whorl n, a link whorl or WH39. -/
def opdbOk (rq : Req) (n : Nat) : Bool :=
  match rq.who with
  | .thread g => rq.sup && g.val / 32 = n && (n < 36 || n = 39)
  | _ => false

/-- A block submitted (R382). -/
def State.secSubmit (s : State) (n : Nat) (v : Word) : State :=
  let q := tget (fun _ => []) s.secq n
  if 8 ≤ q.length then s.setFld (addrSecOpst n) fldSecOpst_FULL 1
  else s.setSecq n (q ++ [getF v fldSecOpdb_ADDR * 64])

/-- SEC_CMDDONE.DONE. -/
def State.grantDone (s : State) : State := s.wr addrSecGrant 0

/-- SEC_MBXRSP.POST. -/
def State.mbxPost (s : State) : State := (s.setFld addrSecMbxctl fldSecMbxctl_RDY 1).hwClear addrSecMbxctl fldSecMbxctl_GO

/-- VPP_OTP_IN_RANGE (R454): the supply enters or leaves its range; a boot count that waited steps. -/
def execVppOtpInRange (good : Bool) (s : State) : Out :=
  let s := { s with vppOk := good }
  if good then
    .next { s.setOtp addrSecBootcnt (s.rd addrSecBootcnt + wordOf s.bootsDue) with bootsDue := 0 }
  else .next s

/-- SESSION_TIMEOUT (R391): 300 s without a command. -/
def execSessionTimeout (role : Fin 4) (s : State) : Out :=
  match s.session role with
  | some x =>
    if x.last + 300000000000 ≤ s.tb64 ∧ s.audReady 2 then
      .next ((s.audit 3 role 0 0 (bytesLE 4 x.sid ++ x.print.take 16)).closeSession role)
    else .next s
  | none => .next s

end Sys2Proof.Machine
end

