-- ==== Sys2Proof/Machine/Whorl.lean ====
section
/-! DEFINITION. Whorls and turns (R33 to R65): slot turns and the shadow table, event lines and WFE, channels, clock
gating, STALL, the quiet watch. Register writes act here through their effects; the writes themselves stand in
Control.lean. -/

namespace Sys2Proof.Machine

/-! ### Slot turns (R36 to R41) -/

/-- The issue spacing of four WCLK cycles is kept (R34). -/
def State.spaced (s : State) (g : Nat) : Bool :=
  match (s.thr g).lastTurn with
  | none => true
  | some c => c + 4 ≤ s.cycle

/-- The thread can take a turn now: READY and spaced. -/
def State.eligible (s : State) (g : Nat) : Bool :=
  let th := s.thr g
  decide (th.state = .ready) && (!th.stopReq || th.entry.isSome) && s.spaced g

/-- A slot entry names a thread (R42). -/
def entryNames (w : Word) (t : Nat) : Bool := isOn w fldWhlSlot_USE && getF w fldWhlSlot_THREAD = t

/-- The entry that will be active at a position: in the next round the passed shadow, if there is one (R37). -/
def State.entryAt (s : State) (n pos : Nat) : Word :=
  match decide (64 ≤ pos), (s.whl n).passed with
  | true, some l => nth 0 l (pos % 64)
  | _, _ => s.rd (addrWhlSlota n (pos % 64))

/-- The conditions of R37 for a donated slot at position `c`. -/
def State.takesDonated (s : State) (n c t : Nat) : Bool :=
  s.eligible (32 * n + t) && !s.on (addrWhlTctl n t) fldWhlTctl_NODON &&
  (List.range 3).all fun i => !entryNames (s.entryAt n (c + 1 + i)) t

/-- Who issues at slot position `c`, and whether the slot was donated (R36, R37). -/
def State.slotPick (s : State) (n c : Nat) : Option (Nat × Bool) :=
  let w := s.rd (addrWhlSlota n c)
  let t := getF w fldWhlSlot_THREAD
  if isOn w fldWhlSlot_USE && s.eligible (32 * n + t) then some (t, false)
  else
    match (List.range 32).find? (fun i => s.takesDonated n c (((s.whl n).rot + 1 + i) % 32)) with
    | some i => some (((s.whl n).rot + 1 + i) % 32, true)
    | none => none

/-- The fetch of a thread's word, which may fault (R85, R159). -/
def State.fetchWord (s : State) (g : Nat) : State :=
  let a := (s.thr g).wordAddr
  match s.fetch g a with
  | (s, .ok w) => s.modThr g fun th => { th with issued := some w }
  | (s, .error c) => s.trap g c 0 a

/-- Turns of a thread counted (R38, R47). -/
def State.countTurns (s : State) (g k : Nat) : State :=
  s.modThr g fun th => { th with turns := th.turns + BitVec.ofNat 16 k, lastTurn := some s.cycle }

/-- A thread's turn: a turn that a word of several turns still takes (R114); else an entry turn when a cause waits for it (R126);
else the first entry turn of a pending asynchronous cause (R131); else the fetch of its word. -/
def State.turnOf (s : State) (g : Nat) : State :=
  let s := (s.countTurns g 1).active
  let th := s.thr g
  if th.owed ≠ 0 then s.setThr g { th with owed := th.owed - 1 }
  else match th.entry, s.asyncDue g with
    | some p, _ => s.setThr g { th with entry := some { p with turns := p.turns + 1 } }
    | none, some c => s.setThr g (th.beginAsync c 1)
    | none, none => s.fetchWord g

/-- SLOT_TURN (R36, R37): one issue of the whorl in this WCLK cycle, by the entry's thread or by donation. A gated whorl
issues nothing (R58). -/
def execSlotTurn (n : WhorlNo) (s : State) : Out :=
  if s.on (addrWhlStatus n) fldWhlStatus_GATED || (s.whl n).lastTurn = some s.cycle then .next s
  else match s.slotPick n (s.cycle % 64) with
    | none => .next s
    | some (t, don) =>
      .next ((s.modWhl n fun w => { w with rot := if don then t else w.rot, stallArm := true,
                                           lastTurn := some s.cycle }).turnOf (32 * n + t))

/-- The lowest-numbered entry that follows another entry of its thread at a cyclic distance of 1 to 3 (R39). -/
def tooClose (l : List Word) : Option Nat :=
  firstBelow 64 fun e =>
    isOn (nth 0 l e) fldWhlSlot_USE &&
    (List.range 3).any fun d => entryNames (nth 0 l ((e + 63 - d) % 64)) (getF (nth 0 l e) fldWhlSlot_THREAD)

/-- The shadow table. -/
def State.shadowTable (s : State) (n : Nat) : List Word := (List.range 64).map fun e => s.rd (addrWhlSlot n e)

/-- SHADOW_CHECK (R39): at slot position 60 a pending shadow passes for the swap, or is rejected with its reason, entry and
record. -/
def execShadowCheck (n : WhorlNo) (s : State) : Out :=
  let st := addrWhlSlotst n
  if s.cycle % 64 = 60 && s.on st fldWhlSlotst_PEND && !s.on (addrWhlSlotctl n) fldWhlSlotctl_HOLD then
    let l := s.shadowTable n
    let close := tooClose l
    let noT0 := !l.any (fun w => entryNames w 0)
    let s := s.setFld st fldWhlSlotst_PEND 0
    if close.isNone && !noT0 then .next (s.modWhl n fun w => { w with passed := some l })
    else
      let e := close.getD 0
      let s := (s.setFld st fldWhlSlotst_REJ 1).setFld st fldWhlSlotst_REASON (b2n close.isSome + 2 * b2n noT0)
      let s := s.setFld st fldWhlSlotst_ENTRY e
      .next (s.noteWhorl n { kind := 6, whorl := n, thread := 0, cause := 0, st := 0, pc := wordOf e, eaddr := 0, tb := s.tb32 })
  else .next s

/-- SHADOW_SWAP (R39): at cycle 0 of a round the table that passed its check becomes the active one, as it stood at the check,
whatever HOLD has become since (DESIGN CHOICE, log 92). -/
def execShadowSwap (n : WhorlNo) (s : State) : Out :=
  match decide (s.cycle % 64 = 0), (s.whl n).passed with
  | true, some l =>
    let s := s.modWhl n fun w => { w with passed := none }
    .next ((List.range 64).foldl (fun s e => s.wr (addrWhlSlota n e) (nth 0 l e)) s)
  | _, _ => .next s

/-! ### WFE, SEV and the edge sources (R48 to R53) -/

/-- The lines with which a WFE completes: with IM at 0, a line that is delivered as an interrupt is taken instead
(R132). -/
def State.wfeHit (s : State) (g : Nat) (m : Word) : Word :=
  let hit := s.lines g &&& wfeMask g m
  if isOn (s.thr g).st stIM then hit else hit &&& ~~~ s.ieMask g

/-- WFE (R50). -/
def execWfe (g : ThreadNo) (rd rs1 : Reg) (s : State) : Out :=
  let th := s.thr g
  if s.runs g then
    let hit := s.wfeHit g (th.get rs1)
    if hit ≠ 0 then .next (s.setThr g ({ th.set rd hit with ev := th.ev &&& ~~~ hit }).advance)
    else .next (s.setThr g { th with state := .waiting, wait := .event (th.get rs1), issued := none })
  else .next s

/-- EVENT_WAKE (R50): a masked line is pending; the thread is READY and its WFE completes at its next turn. -/
def execEventWake (g : ThreadNo) (s : State) : Out :=
  let th := s.thr g
  match th.wait with
  | .event m =>
    if th.state = .waiting ∧ s.lines g &&& wfeMask g m ≠ 0 then
      .next (s.setThr g { th with state := .ready, wait := .none })
    else .next s
  | _ => .next s

/-- SEV (R52, R102, R137): line 31 of a thread of the same whorl; a Z-world SEV naming an S-world thread, by its
world-map entry, raises privilege, DETAIL 4. -/
def execSev (g : ThreadNo) (rs1 : Reg) (s : State) : Out :=
  let th := s.thr g
  if s.runs g then
    let u := g.val / 32 * 32 + (th.get rs1).toNat % 32
    if th.isZ && !s.mapZ u then .next (s.trap g 2 4 th.wordAddr)
    else .next ((s.setThr g th.advance).latch u 31)
  else .next s

/-- DEADLINE_FIRE (R51): the shadow of TB has reached the armed value. -/
def execDeadlineFire (g : ThreadNo) (s : State) : Out :=
  let n := g.val / 32
  let t := g.val % 32
  let v := (s.rd (addrWhlDlhi n t)).toNat * 2 ^ 32 + (s.rd (addrWhlDllo n t)).toNat
  if (s.thr g).dlArmed ∧ v ≤ s.tb64 then
    .next ((s.active.modThr g fun th => { th with dlArmed := false }).latch g 0)
  else .next s

/-- The whorls that a unit event reaches (R477). -/
def State.eventWhorl (s : State) (k : Nat) : Option Nat :=
  if k < 0x0240 then some (k / 16)
  else if 0x0400 ≤ k ∧ k < 0x0420 then some (s.fld (addrDrfEvw ((k - 0x0400) / 4)) fldDrfEvw_WHORL)
  else if 0x0480 ≤ k ∧ k < 0x04C0 then some (s.fld (addrPlyEvw ((k - 0x0480) / 4)) fldPlyEvw_WHORL)
  else if 0x04C0 ≤ k ∧ k < 0x04E0 then some (s.fld (addrPlyCgctl (k - 0x04C0)) fldPlyCgctl_EVW)
  else if 0x0500 ≤ k ∧ k < 0x0600 then some 36
  else if k = 0x0600 then some 37
  else if 0x0620 ≤ k ∧ k < 0x0640 then some 37
  else if 0x0700 ≤ k ∧ k < 0x0940 then some ((k - 0x0700) / 16)
  else if k = 0x0940 ∨ k = 0x0A00 ∨ k = 0x0A01 then some 39
  else if 0x0B00 ≤ k ∧ k < 0x0B10 then some (s.fld (addrPinTctl (k - 0x0B00)) fldPinTctl_CAPW)
  else if 0x0C00 ≤ k ∧ k < 0x0C28 then some (k - 0x0C00)
  else if k = 0x0C40 then some 39
  else if 0x0D00 ≤ k ∧ k < 0x0D20 then some (s.fld addrHapCfg fldHapCfg_EVW)
  else if k = 0x0D40 ∨ k = 0x0E00 then some 39
  else none

/-- Every line of a whorl's threads that selects an edge source latched. -/
def State.latchSource (s : State) (n cls idx : Nat) : State :=
  (List.range 32).foldl (fun s t => (List.range 27).foldl (fun s j =>
    let a := addrWhlEvsrc n t (j + 1)
    if s.fld a fldWhlEvsrc_CLASS = cls ∧ s.fld a fldWhlEvsrc_INDEX = idx then s.latch (32 * n + t) (j + 1) else s) s) s

/-- UNIT_EVENT_PENDING (R477): a raised unit event reaches its whorl's event inputs; the lines that select 0x0600 show it as long as
SKN_TSNEW holds it (R310). -/
def execUnitEventPending (k : Fin 65536) (s : State) : Out :=
  if s.uev.contains k.val then
    let s := { s with uev := s.uev.erase k.val }
    match s.eventWhorl k with
    | some n => .next (if k = 0x0600 then s.active else s.active.latchSource n 7 k)
    | none => .next s
  else .next s

/-! ### Channels (R54 to R57, R61, R64, R65) -/

/-- The status register of a channel, its ERR and HF bits. -/
def chStsAddr (n ch : Nat) : Nat := if ch < 64 then addrWhlChsts n ch else addrWhlXsts n (ch - 64)
def chERR (ch : Nat) : Bits := if ch < 64 then fldWhlChsts_ERR else fldWhlXsts_ERR
def chHF (ch : Nat) : Bits := if ch < 64 then fldWhlChsts_HF else fldWhlXsts_HF

/-- ERR set. -/
def State.chErr (s : State) (n ch : Nat) : State := s.setFld (chStsAddr n ch) (chERR ch) 1

/-- The thread is the configured sender, or receiver, of a channel that carries words (R56, R57). -/
def State.isSender (s : State) (n ch t : Nat) : Bool :=
  if ch < 64 then s.on (addrWhlChcfg n ch) fldWhlChcfg_EN && s.fld (addrWhlChcfg n ch) fldWhlChcfg_SND = t
  else s.linked n (ch - 64) && !s.xReceives n (ch - 64) && s.fld (addrWhlXcfg n (ch - 64)) fldWhlXcfg_THR = t
def State.isReceiver (s : State) (n ch t : Nat) : Bool :=
  if ch < 64 then s.on (addrWhlChcfg n ch) fldWhlChcfg_EN && s.fld (addrWhlChcfg n ch) fldWhlChcfg_RCV = t
  else s.linked n (ch - 64) && s.xReceives n (ch - 64) && s.fld (addrWhlXcfg n (ch - 64)) fldWhlXcfg_THR = t

/-- The thread configured as receiver, whether or not the channel carries words (CHST, R56). -/
def State.namedReceiver (s : State) (n ch t : Nat) : Bool :=
  if ch < 64 then s.fld (addrWhlChcfg n ch) fldWhlChcfg_RCV = t
  else s.xReceives n (ch - 64) && s.fld (addrWhlXcfg n (ch - 64)) fldWhlXcfg_THR = t

/-- The record of the sending end replaced; of the FIFO's end replaced. -/
def State.setSend (s : State) (n ch : Nat) (c : Chan) : State :=
  if ch < 64 then s.setChan n ch c
  else let (m, x) := if s.linked n (ch - 64) then s.xSender n (ch - 64) else (n, ch - 64); s.setXend m x c
def State.setFifo (s : State) (n ch : Nat) (c : Chan) : State :=
  if ch < 64 then s.setChan n ch c
  else let (m, x) := if s.linked n (ch - 64) then s.xReceiver n (ch - 64) else (n, ch - 64); s.setXend m x c

/-- What a channel operation comes to: an error, a block, or its result and VALID. -/
inductive ChRes where
  | error
  | block
  | done (s : State) (val : Word)
  deriving DecidableEq, Repr

/-- A send (R55, R56, R65): a flushed sender's words are dropped up to its END; a fifth word of a frame is an error. -/
def State.sendTo (s : State) (n t ch : Nat) (w : Word) (fin : Bool) : ChRes :=
  let c := s.chSend n ch
  let o := if fin then 0 else c.open_ + 1
  if ch ≥ 80 ∨ !s.isSender n ch t then .error
  else if c.discard then .done (s.setSend n ch { c with open_ := if fin then 0 else c.open_, discard := !fin }) 1
  else if 4 ≤ c.open_ then .error
  else
    if chCap ch ≤ s.chFill n ch then .block
    else
      let s := s.setSend n ch { c with open_ := o }
      let f := s.chFifo n ch
      if ch < 64 then .done (s.setFifo n ch { f with q := f.q ++ [(w, fin)] }) 1
      else .done (s.setFifo n ch { f with flight := f.flight ++ [(w, fin)] }) 1

/-- A receive (R55, R56, R65). -/
def State.recvFrom (s : State) (n t ch : Nat) : ChRes :=
  if ch ≥ 80 ∨ !s.isReceiver n ch t then .error
  else
    let f := s.chFifo n ch
    if f.rflush then .done (s.setFifo n ch { f with rflush := false, lvalid := false, lend := false }) 0
    else match f.q with
      | (w, e) :: r => .done (s.setFifo n ch { f with q := r, lvalid := true, lend := e }) w
      | [] => .block

/-- A channel error: cause 15 with the channel number in eaddr, and ERR of an existing channel (R54, R56). -/
def State.chTrap (s : State) (g ch : Nat) : State :=
  (if ch < 80 then s.chErr (g / 32) ch else s).trap g 15 0 (wordOf ch)

/-- A blocking send (R55). -/
def State.opSend (s : State) (g : Nat) (rs1 rs2 : Reg) (fin : Bool) : State :=
  let th := s.thr g
  if s.runs g then
    let ch := (th.get rs1).toNat % 128
    match s.sendTo (g / 32) (g % 32) ch (th.get rs2) fin with
    | .error => s.chTrap g ch
    | .block => s.setThr g { th with state := .waiting, wait := .chanSend ch, issued := none }
    | .done s _ => s.setThr g th.advance
  else s

def execChs (g : ThreadNo) (rs1 rs2 : Reg) (s : State) : Out := .next (s.opSend g rs1 rs2 false)
def execChse (g : ThreadNo) (rs1 rs2 : Reg) (s : State) : Out := .next (s.opSend g rs1 rs2 true)

/-- CHR (R55). -/
def execChr (g : ThreadNo) (rd rs1 : Reg) (s : State) : Out :=
  let th := s.thr g
  if s.runs g then
    let ch := (th.get rs1).toNat % 128
    match s.recvFrom (g / 32) (g % 32) ch with
    | .error => .next (s.chTrap g ch)
    | .block => .next (s.setThr g { th with state := .waiting, wait := .chanRecv ch rd, issued := none })
    | .done s v => .next (s.setThr g (th.set rd v).advance)
  else .next s

/-- CHTS (R55): 1 when the word was sent, 0 when the FIFO is full. -/
def execChts (g : ThreadNo) (rd rs1 rs2 : Reg) (fin : Bool) (s : State) : Out :=
  let th := s.thr g
  if s.runs g then
    let ch := (th.get rs1).toNat % 128
    match s.sendTo (g / 32) (g % 32) ch (th.get rs2) fin with
    | .error => .next (s.chTrap g ch)
    | .block => .next (s.setThr g (th.set rd 0).advance)
    | .done s _ => .next (s.setThr g (th.set rd 1).advance)
  else .next s

/-- CHTR (R55): 0 and VALID 0 when the FIFO is empty. -/
def execChtr (g : ThreadNo) (rd rs1 : Reg) (s : State) : Out :=
  let th := s.thr g
  if s.runs g then
    let n := g.val / 32
    let ch := (th.get rs1).toNat % 128
    match s.recvFrom n (g % 32) ch with
    | .error => .next (s.chTrap g ch)
    | .block => .next ((s.setFifo n ch { s.chFifo n ch with lvalid := false, lend := false }).setThr g (th.set rd 0).advance)
    | .done s v => .next (s.setThr g (th.set rd v).advance)
  else .next s

/-- The status word of CHST (R55, R56). -/
def State.chStatus (s : State) (n t ch : Nat) : Word :=
  let f := s.chFifo n ch
  let r := s.namedReceiver n ch t
  wordOf (b2n (r && f.lvalid) + 2 * b2n (r && f.lend) + 4 * s.fld (chStsAddr n ch) (chERR ch) +
    8 * s.chFill n ch + 128 * b2n (0 < (s.chSend n ch).open_))

/-- CHST (R55, R56): only a channel number from 80 to 127 raises cause 15. -/
def execChst (g : ThreadNo) (rd rs1 : Reg) (s : State) : Out :=
  let th := s.thr g
  if s.runs g then
    let ch := (th.get rs1).toNat % 128
    if ch ≥ 80 then .next (s.chTrap g ch)
    else .next (s.setThr g (th.set rd (s.chStatus (g / 32) (g % 32) ch)).advance)
  else .next s

/-- The condition of a blocked channel operation is met (R55). -/
def State.chReady (s : State) (n ch : Nat) (send : Bool) : Bool :=
  if send then (s.chSend n ch).discard || s.chFill n ch < chCap ch
  else (s.chFifo n ch).rflush || !(s.chFifo n ch).q.isEmpty

/-- CHANNEL_UNBLOCK (R55): the condition is met; the thread is READY and its operation completes at its next turn. -/
def execChannelUnblock (g : ThreadNo) (s : State) : Out :=
  let th := s.thr g
  let go := .next (s.setThr g { th with state := .ready, wait := .none })
  match th.wait with
  | .chanSend ch => if th.state = .waiting ∧ s.chReady (g / 32) ch true then go else .next s
  | .chanRecv ch _ => if th.state = .waiting ∧ s.chReady (g / 32) ch false then go else .next s
  | _ => .next s

/-- A thread's blocked operation ends without transfer (R54, R57, R61, R65): a receive returns 0. -/
def Thread.endBlocked (th : Thread) : Thread :=
  let t := match th.wait with
    | .chanRecv _ rd => th.set rd 0
    | _ => th
  if th.state = .waiting then t.complete else { t.advance with wait := .none }

/-- The thread is blocked on a channel as its sender, or as its receiver. -/
def Thread.blockedOn (th : Thread) (ch : Nat) (send : Bool) : Bool :=
  match th.wait with
  | .chanSend c => send && c = ch
  | .chanRecv c _ => !send && c = ch
  | _ => false

/-- The threads of a whorl blocked on a channel end their operation without transfer. -/
def State.endBlockedOn (s : State) (n ch : Nat) (send : Bool) : State :=
  (List.range 32).foldl (fun s t =>
    if (s.thr (32 * n + t)).blockedOn ch send then (s.modThr (32 * n + t) Thread.endBlocked).settle (32 * n + t) else s) s

/-- A local channel is disabled (R54). -/
def State.chDisable (s : State) (n c : Nat) : State :=
  (((s.setChan n c {}).chErr n c).endBlockedOn n c true).endBlockedOn n c false

/-- A cross channel's end is disabled (R57): unlinked, its words discarded, ERR at both ends, blocked threads released. -/
def State.xDisable (s : State) (n x : Nat) : State :=
  if s.linked n x then
    let (m, y) := s.xpeer n x
    let s := (((s.setXend n x {}).setXend m y {}).chErr n (64 + x)).chErr m (64 + y)
    (((s.endBlockedOn n (64 + x) true).endBlockedOn n (64 + x) false).endBlockedOn m (64 + y) true).endBlockedOn m (64 + y) false
  else
    (((s.setXend n x {}).chErr n (64 + x)).endBlockedOn n (64 + x) true).endBlockedOn n (64 + x) false

/-- XCHAN_ARRIVE (R57): a word in flight reaches the receiver's FIFO. -/
def execXchanArrive (n : WhorlNo) (x : Fin 16) (s : State) : Out :=
  let c := s.xend n x
  match c.flight with
  | w :: r => .next (s.setXend n x { c with flight := r, q := c.q ++ [w] })
  | [] => .next s

/-- The words at the end of a list that follow its last END. -/
def tailOpen (l : List (Word × Bool)) : Nat := (l.reverse.takeWhile (fun x => !x.2)).length

/-- A flush of a channel (R65): with no frame open only ERR is set. Otherwise the words of the open frame leave the FIFO,
ERR is set, the receiver's next receive (or its blocked one) returns 0 with VALID 0, and the sender's words up to its next
END are dropped. The frame's count of words stays as it was, so OPEN still reads 1 and the frame still ages (DESIGN CHOICE, log 94). -/
def State.chFlush (s : State) (n ch : Nat) : State :=
  let s := s.chErr n ch
  let c := s.chSend n ch
  if c.open_ = 0 ∨ (64 ≤ ch ∧ !s.linked n (ch - 64)) then s
  else
    let f := s.chFifo n ch
    let kf := tailOpen f.flight
    let kq := if kf = f.flight.length then tailOpen f.q else 0
    let s := s.setFifo n ch { f with flight := f.flight.take (f.flight.length - kf), q := f.q.take (f.q.length - kq) }
    let s := s.setSend n ch { s.chSend n ch with discard := true }
    let (m, rch) := if ch < 64 then (n, ch) else ((s.xReceiver n (ch - 64)).1, 64 + (s.xReceiver n (ch - 64)).2)
    let f := s.chFifo n ch
    if (List.range 32).any fun t => (s.thr (32 * m + t)).blockedOn rch false then
      (s.setFifo n ch { f with lvalid := false, lend := false }).endBlockedOn m rch false
    else s.setFifo n ch { f with rflush := true }

/-- The whorl of a channel's frame-age timer is this end's, and an incomplete frame has a word in the FIFO or received
(R57, R64). -/
def State.frameAging (s : State) (n ch : Nat) : Bool :=
  if ch < 64 then
    s.on (addrWhlChcfg n ch) fldWhlChcfg_EN && s.on (addrWhlChcfg n ch) fldWhlChcfg_AGE && 0 < (s.chan n ch).open_
  else
    let x := ch - 64
    s.linked n x && s.xReceives n x && s.on (addrWhlXcfg n x) fldWhlXcfg_AGE &&
      tailOpen (s.xend n x).flight < (s.chSend n ch).open_

/-- FRAME_AGE_EXPIRE (R64): HF, HALF_FRAME, lines 28 and 29 of T0; the frame and both threads stay as they were. -/
def execFrameAgeExpire (n : WhorlNo) (ch : Fin 80) (s : State) : Out :=
  if s.frameAging n ch then
    let s := (s.setFld (chStsAddr n ch) (chHF ch) 1).setFld (addrWhlStatus n) fldWhlStatus_HALF_FRAME 1
    .next ((s.latch (32 * n) 29).noteWhorl n
      { kind := 7, whorl := n, thread := 0, cause := 0, st := 0, pc := wordOf ch, eaddr := 0, tb := s.tb32 })
  else .next s

/-! ### Gating, STALL, the quiet watch (R58 to R62) -/

/-- Some thread of the whorl meets a condition. -/
def State.anyThread (s : State) (n : Nat) (p : Thread → Bool) : Bool := (List.range 32).any fun t => p (s.thr (32 * n + t))

/-- WHORL_GATE (R58). -/
def execWhorlGate (n : WhorlNo) (s : State) : Out :=
  if s.anyThread n fun th => decide (th.state = .ready) then .next s
  else .next (s.setFld (addrWhlStatus n) fldWhlStatus_GATED 1)

/-- WHORL_WAKE (R59). -/
def execWhorlWake (n : WhorlNo) (s : State) : Out :=
  if s.on (addrWhlStatus n) fldWhlStatus_GATED && s.anyThread n (fun th => decide (th.state = .ready)) then
    .next (s.setFld (addrWhlStatus n) fldWhlStatus_GATED 0)
  else .next s

/-- A WAITING thread waits only on a local channel, or on a WFE whose own masked lines are of class 1 or 2 or line 31
(R60). -/
def State.stallWaiter (s : State) (n t : Nat) : Bool :=
  match (s.thr (32 * n + t)).wait with
  | .chanSend ch => ch < 64
  | .chanRecv ch _ => ch < 64
  | .event m => (List.range 32).all fun i =>
      !(m.toNat.testBit i) || i = 31 ||
      (1 ≤ i && i ≤ 27 && (s.fld (addrWhlEvsrc n t i) fldWhlEvsrc_CLASS = 1 || s.fld (addrWhlEvsrc n t i) fldWhlEvsrc_CLASS = 2))
  | _ => false

/-- The conditions of R60. -/
def State.stalled (s : State) (n : Nat) : Bool :=
  (s.whl n).stallArm && !s.anyThread n (fun th => decide (th.state = .ready ∨ th.state = .stopped)) &&
  s.anyThread n (fun th => decide (th.state = .waiting)) && !s.anyThread n (fun th => !th.sbuf.isEmpty) &&
  (List.range 32).all fun t => decide ((s.thr (32 * n + t)).state ≠ .waiting) || s.stallWaiter n t

/-- VALID of a blocked receiver's channel cleared. -/
def State.clearValid (s : State) (n : Nat) : Wait → State
  | .chanRecv ch _ => s.setFifo n ch { s.chFifo n ch with lvalid := false, lend := false }
  | _ => s

/-- STALL (R60, R61): the flag, a record, line 30 of T0; a blocked T0 completes without transfer, and a T0 that is HALTED or
FAULTED has the record forwarded to the chief distaff. -/
def execStall (n : WhorlNo) (s : State) : Out :=
  if s.stalled n then
    let s := (s.setFld (addrWhlStatus n) fldWhlStatus_STALL 1).modWhl n fun w => { w with stallArm := false }
    let r : Note := { kind := 5, whorl := n, thread := 0, cause := 0, st := 0, pc := 0, eaddr := 0, tb := s.tb32 }
    let s := (s.latch (32 * n) 30).noteWhorl n r
    let th := s.thr (32 * n)
    match th.state, th.wait with
    | .halted, _ => .next (s.noteEsc r)
    | .faulted, _ => .next (s.noteEsc r)
    | .waiting, .event _ => .next (s.setThr (32 * n) { th with state := .ready, wait := .none })
    | .waiting, .chanSend _ => .next (s.setThr (32 * n) th.endBlocked)
    | .waiting, .chanRecv ch rd => .next ((s.clearValid n (.chanRecv ch rd)).setThr (32 * n) th.endBlocked)
    | _, _ => .next s
  else .next s

/-- QUIET_WATCH (R62): 2^20 cycles after the count last restarted, the alert of an enabled watch, with its record for the chief
distaff and producer 452. The record names WH39, in whose window ALERT stands (DESIGN CHOICE, log 99). -/
def execQuietWatch (s : State) : Out :=
  if s.on addrWhlQwatch fldWhlQwatch_EN && s.quietAt + 2 ^ 20 ≤ s.cycle then
    let s := (s.active.setFld addrWhlQwatch fldWhlQwatch_ALERT 1).bump addrWhlQwatch fldWhlQwatch_COUNT
    .next ((s.noteEsc { kind := 9, whorl := 39, thread := 0, cause := 0, st := 0, pc := 0, eaddr := 0, tb := s.tb32 }).fireProd 452)
  else .next s

end Sys2Proof.Machine
end

