-- ==== Sys2Proof/Machine/Treadle.lean ====
section
/-! DEFINITION. The treadle event network (R352 to R365): levels of producers, worlds of rows and columns, what an event at a
consumer does, emission to the targets, storms, and the capture of configuration into the always-on domain. -/

namespace Sys2Proof.Machine

/-- A consumer besides its registers. -/
def State.tcon (s : State) (c : Nat) : TCons := tget (fun _ => {}) s.tcons c
/-- A consumer changed. -/
def State.modTcon (s : State) (c : Nat) (f : TCons → TCons) : State := { s with tcons := tset s.tcons c (f (s.tcon c)) }

/-- The level L of a producer (R352, R353): the latch of an event producer, the source of a level producer. -/
def State.prodLevel (s : State) (p : Nat) : Bool :=
  if eventProducer p then (s.rd (addrTrdPlat (p / 32))).toNat.testBit (p % 32)
  else if 64 ≤ p ∧ p < 128 then s.inSignal none (p - 64)
  else if 264 ≤ p ∧ p < 408 then s.fld (addrLnkState (p - 264)) fldLnkState_LSTATE = 3
  else if 408 ≤ p ∧ p < 448 then !(s.whl (p - 408)).notes.isEmpty
  else if p = 453 then s.sleepIn
  else false

/-- TRD_PLAT[w] as it reads. -/
def State.platWord (s : State) (w : Nat) : Word :=
  wordOf ((List.range 32).foldl (fun v b => if s.prodLevel (32 * w + b) then v + 2 ^ b else v) 0)

/-! ### Rights (R356, R357) -/

/-- The bits of matrix word `w` that belong to rows of the Z world. -/
def State.zRows (s : State) (w : Nat) : Word := s.rd (addrTrdPworld w)

/-- A writer may write the matrix column, TRD_CCFG and TRD_CACK of a consumer: a supervisor of the S world always, one of the Z
world where the column is of the Z world. -/
def State.colWritable (s : State) (rq : Req) (c : Nat) : Bool := rq.sup || (rq.z && rq.lv && s.colZ c)

/-- The bits of TRD_MAT[c][w] that a writer changes, and that a reader sees. -/
def State.matMask (s : State) (z : Bool) (c w : Nat) : Word :=
  if !z then 0xFFFFFFFF else if s.colZ c then s.zRows w else 0

/-- The software producers that a writer may fire (R357). -/
def State.swfireMask (s : State) (rq : Req) (w : Nat) : Word := if rq.z then s.zRows w else ~~~ s.zRows w

/-- TRD_SWFIRE[w] written: the writer's bits fire, in ascending number. -/
def State.swfire (s : State) (rq : Req) (w : Nat) (v : Word) : State :=
  let m := (v &&& s.swfireMask rq w).toNat
  (List.range 32).foldl (fun s b => if m.testBit b then s.fireProd (32 * w + b) else s) s

/-! ### Configuration (R361, R364) -/

/-- A configuration register written: the always-on domain keeps the old value until the capture. -/
def State.wrAon (s : State) (a : Nat) (v : Word) : State :=
  let s := if s.aonOld.any (·.1 = a) then s else { s with aonOld := tset s.aonOld a (s.rd a) }
  s.wr a v

/-- PEND and CNT of a consumer discarded. -/
def State.dropHeld (s : State) (c : Nat) : State :=
  ((s.setFld (addrTrdCst c) fldTrdCst_PEND 0).setFld (addrTrdCst c) fldTrdCst_CNT 0).modTcon c fun t => { t with given := false }

/-- A write of TRD_CCFG is a reserved encoding (R361, R362). -/
def State.ccfgBad (s : State) (c : Nat) (v : Word) : Bool :=
  let old := s.rd (addrTrdCcfg c)
  let same := fun (b : Bits) => getF v b = getF old b
  getF v fldTrdCcfg_SLIM = 0 ||
    (isOn old fldTrdCcfg_CON &&
      !(same fldTrdCcfg_MODE && same fldTrdCcfg_GEN && same fldTrdCcfg_GINV && same fldTrdCcfg_GATE))

/-- TRD_CCFG written; clearing CON discards what is held. -/
def State.ccfgWrite (s : State) (c : Nat) (v : Word) : State :=
  let s := s.wrAon (addrTrdCcfg c) v
  if isOn v fldTrdCcfg_CON then s else s.dropHeld c

/-- TRD_CACK written (R361). -/
def State.cackWrite (s : State) (c : Nat) : State := s.modTcon c fun t => { t with ackDue := false }

/-- CONFIG_CAPTURE (R364): the second RCLK edge after the writes: the always-on domain takes the new values. -/
def execConfigCapture (s : State) : Out := .next { s with aonOld := [] }

/-! ### Events at a consumer (R358 to R362) -/

/-- The storm detector trips. -/
def State.stormTrip (s : State) (c : Nat) : State :=
  let s := (s.setCapt (addrTrdCcfg c) fldTrdCcfg_CON 0).setFld (addrTrdCcfg c) fldTrdCcfg_CON 0
  let s := ((s.dropHeld c).setFld (addrTrdCst c) fldTrdCst_STORM 1).setFld addrTrdStatus fldTrdStatus_STORM 1
  (s.fireProd 451).raise 0x0940

/-- The window of fabric time. -/
def State.stormWindow (s : State) : Nat := s.aonTime / 2 ^ 40 / 1000

/-- An event reaches the input of consumer `c`. -/
def State.atConsumer (s : State) (c : Nat) : State :=
  let w := s.capt (addrTrdCcfg c)
  let gate := s.prodLevel (getF w fldTrdCcfg_GATE) != isOn w fldTrdCcfg_GINV
  if !isOn (s.capt (addrTrdGctl (c / 8))) fldTrdGctl_GON then s
  else if !isOn w fldTrdCcfg_CON then s
  else if isOn w fldTrdCcfg_GEN && !gate then s
  else
    let t := s.tcon c
    let k := (if t.win = s.stormWindow then t.storm else 0) + 1
    let s := s.modTcon c fun t => { t with win := s.stormWindow, storm := k }
    let st := addrTrdCst c
    if getF w fldTrdCcfg_SLIM < k then s.stormTrip c
    else if !isOn w fldTrdCcfg_MODE then s.setFld st fldTrdCst_PEND 1
    else if s.fld st fldTrdCst_CNT = 15 then s.setFld st fldTrdCst_OVF 1
    else s.setFld st fldTrdCst_CNT (s.fld st fldTrdCst_CNT + 1)

/-- TREADLE_EVENT (R358): the oldest pulse on its way to this consumer reaches its input. -/
def execTreadleEvent (c : Fin 256) (s : State) : Out :=
  if s.pulses.contains c.val then .next ({ s with pulses := s.pulses.erase c.val }.atConsumer c) else .next s

/-! ### Emission (R354, R358, R365) -/

/-- One held event leaves the consumer. -/
def State.takeHeld (s : State) (c : Nat) : State :=
  let st := addrTrdCst c
  if s.on st fldTrdCst_CNT then s.setFld st fldTrdCst_CNT (s.fld st fldTrdCst_CNT - 1) else s.setFld st fldTrdCst_PEND 0

/-- The consumer is in counting mode. -/
def State.counting (s : State) (c : Nat) : Bool := isOn (s.capt (addrTrdCcfg c)) fldTrdCcfg_MODE

/-- The target is ready: powered, holding no event that it has not taken, and for a counting whorl consumer with no TRD_CACK
awaited. -/
def State.targetReady (s : State) (c : Nat) : Bool :=
  let t := s.tcon c
  if c < 160 then !s.asleep && !(s.counting c && t.ackDue)
  else if c < 168 then !s.asleep && !t.given
  else if 188 ≤ c ∧ c < 192 then false
  else true

/-- The consumer holds an event. -/
def State.holds (s : State) (c : Nat) : Bool := s.on (addrTrdCst c) fldTrdCst_PEND || s.on (addrTrdCst c) fldTrdCst_CNT

/-- In holdoff. -/
def State.holdoff (s : State) (c : Nat) : Bool := s.aonTime < (s.tcon c).until_

/-- A wake input's emission in deep sleep starts the wake where it is enabled (R445). -/
def State.wakeInput (s : State) (w : Nat) : State :=
  if s.asleep && (s.fld addrPwrWake fldPwrWake_EN).testBit w then
    s.setFld addrPwrWake fldPwrWake_SEEN (s.fld addrPwrWake fldPwrWake_SEEN ||| 2 ^ w)
  else s

/-- One event delivered to a consumer's target. -/
def State.deliver (s : State) (c : Nat) : State :=
  if c < 160 then
    let s := (s.active.takeHeld c).latchSource (c / 4) 6 c
    if s.counting c then s.modTcon c fun t => { t with ackDue := true } else s
  else if c < 168 then s.modTcon c fun t => { t with given := true }
  else if c < 184 then { s.takeHeld c with capWait := s.capWait ++ [c - 168] }
  else if c < 188 then (s.takeHeld c).wakeInput (c - 184)
  else (s.takeHeld c).poPulse (c - 192)

/-- TREADLE_EMIT (R358): a consumer with a held event, out of holdoff, with a ready target, delivers one; the holdoff of 8 ns
starts. -/
def execTreadleEmit (c : Fin 256) (s : State) : Out :=
  if s.holds c && !s.holdoff c && s.targetReady c then
    .next ((s.modTcon c fun t => { t with until_ := s.aonTime + 8 * 2 ^ 40 }).deliver c)
  else .next s

/-- A FENCE with WAKE consumes the event that its engine's wake input holds (R269); false when there is none. -/
def State.takeWake (s : State) (e : Nat) : State × Bool :=
  let c := 160 + e
  if (s.tcon c).given then ((s.takeHeld c).modTcon c fun t => { t with given := false }, true) else (s, false)

/-- TRD_GCTL written (R359). -/
def State.gctlWrite (s : State) (g : Nat) (v : Word) : State := s.wrAon (addrTrdGctl g) v

end Sys2Proof.Machine
end

