-- ==== Sys2Proof/Machine/Power.lean ====
section
/-! DEFINITION. Reset, start-up and power states (R430 to R447), clock control, thermal sensing (R465), and the boot ROM's
verification (R384 to R386). -/

namespace Sys2Proof.Machine

/-! ### Starting a thread (R46, R72, R73, R120, R474) -/

/-- The thread state at START: general registers and accumulators hold unspecified values. -/
def State.startThread (s : State) (g : Nat) (pc : Word) (z : Bool) : State :=
  let k := s.free
  { s with free := k + 36 }.modThr g fun th =>
    { th with state := .ready, wait := .none, pc := pc, lk := 0xFFFFFFFC, st := stStart z, fx := fxStart, rc := 0, ecause := 0,
              w := (Vector.ofFn fun i : Fin 32 => Config.freeWord (k + i.val)),
              a := (Vector.ofFn fun i : Fin 4 => Config.freeAcc (k + 32 + i.val)),
              hrs := [], rep := none, repNew := false, owed := 0, entry := none, issued := none, haltReq := false, stopReq := false }

/-! ### Reset (R432, R433) -/

/-- The state after reset, with the registers that `keep` admits. OTP, what other devices put on the pins, the supplies, the
flits already presented and the waiting commands are no state that reset clears. -/
def State.afterReset (s : State) (keep : Nat → Bool) : State :=
  let t : State := { State.reset with
    pending := s.pending, regs := s.regs.filter fun x => keep x.1, free := s.free, hrspOut := s.hrspOut, dreqOut := s.dreqOut,
    cxpOut := s.cxpOut, pins := s.pins.map fun x => (x.1, { x.2 with edges := [] }), lx := s.lx, sleepIn := s.sleepIn, otp := s.otp,
    instKeys := s.instKeys, instGone := s.instGone, vppOk := s.vppOk, bootsDue := s.bootsDue, supplies := s.supplies }
  let t := (List.range 6).foldl (fun t k => t.setFld (addrPinBank k) fldPinBank_PG (s.fld (addrPinBank k) fldPinBank_PG)) t
  t.setFld addrPwrStatus fldPwrStatus_SUPOK (bitsVal s.supplies.reverse)

/-- The registers of always-on state that survive a reset. -/
def retainedReg (a : Nat) : Bool :=
  a = addrRstCause || a = addrPwrWcnt || (addrSecAudseq 0 ≤ a && a ≤ addrSecAudhead 11)

/-- Reset with a cause bit set at its entry (R451). -/
def State.resetBy (s : State) (b : Bits) : State :=
  let s := s.setFld addrRstCause b 1
  { s.afterReset retainedReg with imgHash := s.imgHash }

/-- RESET_ENTRY (R432, R434): asynchronous; a command's reset needs the command. -/
def execResetEntry (cause : ResetCause) (s : State) : Out :=
  match cause with
  | .pwrgood => .next (s.resetBy fldRstCause_PWRGOOD)
  | .rstN => .next (s.resetBy fldRstCause_RSTN)
  | .command => .next (if s.rstCmd then s.resetBy fldRstCause_CMD else s)

/-- The step of R430 at which a domain of PWR_STATUS.SUPOK rises. -/
def supplyStep (dom : Nat) : Nat := nth 0 [3, 2, 4, 4, 1] dom

/-- SUPPLY_OUT_OF_RANGE (R431, R433): a domain leaves its range: reset, and without VDD_AON the retained state is lost; or it
comes into range, out of order when a domain of an earlier step is not in range. -/
def execSupplyOutOfRange (dom : Fin 5) (good : Bool) (s : State) : Out :=
  let early := (List.range 5).any fun d => supplyStep d < supplyStep dom && !nth true s.supplies d
  let s := { s with supplies := setNth s.supplies dom good }
  if !good then
    let r := s.resetBy fldRstCause_PWRGOOD
    .next (if dom.val = 4 then s.afterReset fun _ => false else r)
  else
    let s := s.setFld addrPwrStatus fldPwrStatus_SUPOK (bitsVal s.supplies.reverse)
    let s := if dom.val = 4 then s.setFld addrRstCause fldRstCause_POR 1 else s
    .next (if early then s.setFld addrRstCause fldRstCause_ORDER 1 else s)

/-- DUP for a maker entry whose row another names (R165). -/
def State.otpDup (s : State) (a : Nat) : State :=
  match locate a with
  | some (r, [b, k]) => if r.name = .memCremap then s.dupCheck (addrMemCremap b) 8 k fldMemCremap_ROW else s
  | some (r, [n, b, k]) => if r.name = .memLremap then s.dupCheck (addrMemLremap n b) 4 k fldMemLremap_ROW else s
  | _ => s

/-- OTP's registers loaded, and the boot counted (R435 step 2, R401, R454). -/
def State.loadOtp (s : State) : State :=
  let s := s.otp.foldl (fun s x => s.wr x.1 x.2) s
  let s := s.otp.foldl (fun s x => s.otpDup x.1) s
  if s.vppOk then s.setOtp addrSecBootcnt (s.rd addrSecBootcnt + 1) else { s with bootsDue := s.bootsDue + 1 }

/-- The boot ROM's pins (R436): SCK, CS_N and BOOTLED push-pull, the rest as reset leaves them (log 114); and RECOV_N read. -/
def State.bootPins (s : State) : State :=
  let s := s.pinsChange fun s => [80, 81, 86].foldl (fun s i => s.setFld (addrPinCfg i) fldPinCfg_MODE 1) s
  { s with recovLow := !s.pinIn none 87 && s.bankGood 87 }

/-- The steps of R435: the core clock, OTP, the ROM copied into the spool of WH39, channel 0 of the host attach port, and
WH39 T1 READY at pc 0 in the S world. -/
def State.startUp (s : State) : State :=
  let s := { s with started := true, cycle := 0 }.loadOtp
  let s := s.setFld addrClkStatus fldClkStatus_CORE 1
  let s := (s.memWrite 255 (spoolBlk 39 0) ((List.range 32768).map Config.romByte)).1
  let s := (s.setFld (addrHapCtl 0) enSTATE 1).raise (0x0D00 + 3)
  { s with romAt := s.tb64 }.startThread 1249 0 false

/-- RESET_RELEASE (R432, R435): no condition of reset holds. -/
def execResetRelease (s : State) : Out :=
  if !s.started && s.supplies.all id then .next s.startUp.bootPins else .next s

/-! ### Power states (R442 to R447) -/

/-- Every unit is OFF (R444). -/
def State.allOff (s : State) : Bool :=
  (List.range 144).all (fun p => s.unitState (addrLnkCtl p) = 0) && (List.range 8).all (fun c => s.unitState (addrHapCtl c) = 0) &&
    (List.range 8).all (fun e => s.unitState (addrDrfCtl e) = 0) && (List.range 16).all (fun u => s.unitState (addrPlyCtl u) = 0) &&
    s.unitState addrSknCtl = 0 && s.unitState addrSngCtl = 0

/-- Entry to DEEP SLEEP: the whorls stop and lose every thread, sessions close, SLEEP_ACK rises. -/
def State.goSleep (s : State) : State :=
  let s := [1, 2, 3].foldl (fun s r => s.closeSession r) s
  let s := { s with threads := [], whorls := [], chans := [], xchans := [], taken := none }
  s.pinsChange fun s => s.setFld addrPwrStatus fldPwrStatus_STATE 3

/-- PWR_CTL written (R443, R444): false values of REQ are reserved. -/
def State.pwrCtl (s : State) (v : Word) : State :=
  match getF v fldPwrCtl_REQ with
  | 0 =>
    let s := s.wr addrPwrCtl v
    if s.fld addrPwrStatus fldPwrStatus_STATE = 2 then { s with toRun := true } else s
  | 1 => { (s.wr addrPwrCtl v).setFld addrPwrStatus fldPwrStatus_STATE 2 with toRun := false, wdiv := 8 }
  | _ => if s.allOff then (s.wr addrPwrCtl v).goSleep else s.setFld addrPwrStatus fldPwrStatus_REFUSED 1

/-- The return to RUN at a round boundary (R443). -/
def State.backToRun (s : State) : State :=
  if s.toRun then
    { s.setFld addrPwrStatus fldPwrStatus_STATE 0 with toRun := false, wdiv := s.fld addrClkWdiv fldClkWdiv_DIV }
  else s

/-- PWR_STATUS as it reads: IDLE while every whorl is GATED. -/
def State.pwrStatusWord (s : State) : Word :=
  let w := s.rd addrPwrStatus
  if getF w fldPwrStatus_STATE = 0 && (List.range 40).all (fun n => s.on (addrWhlStatus n) fldWhlStatus_GATED) then
    setF w fldPwrStatus_STATE 1
  else w

/-- A register that deep sleep retains: the treadle and pin state, the timebase, the key slots, PWR_WAKE, and what reset
retains (R446). -/
def sleepReg (a : Nat) : Bool :=
  retainedReg a || a / 2 ^ 24 = 0x49 || a / 2 ^ 24 = 0x4A || a = addrPwrWake || (addrSecKslot0 0 ≤ a && a ≤ addrSecKslot1 4095) ||
    [addrSknInc0, addrSknInc1, addrSknSlew, addrSknSlewn].contains a

/-- WAKE (R445, R446): a wake input in DEEP SLEEP whose emission PWR_WAKE.SEEN holds: power returns, SLEEP_ACK falls, the
steps of R435 run over the retained state, RST_CAUSE.WAKE and the count of wakes. -/
def execWake (w : Fin 4) (s : State) : Out :=
  if s.asleep && (s.fld addrPwrWake fldPwrWake_SEEN).testBit w then
    let t := { s.afterReset sleepReg with
      mem := s.mem, syn := s.syn, pins := s.pins, tcons := s.tcons, pulses := s.pulses, aonOld := s.aonOld, capWait := s.capWait,
      tb := s.tb, shadow := s.tb, rclk := s.rclk, inc := s.inc, incNew := s.incNew, slew := s.slew, stepNew := s.stepNew,
      slotKeys := s.slotKeys, lists := s.lists, imgHash := s.imgHash, fwSvn := s.fwSvn, meas := setNth State.reset.meas 1 (nth [] s.meas 1) }
    let t := (t.setFld addrRstCause fldRstCause_WAKE 1).bump addrPwrWcnt fldPwrWcnt_COUNT
    .next (t.startUp.pinsChange fun x => x)
  else .next s

/-- CLK_WDIV written (R447): the new divider waits. -/
def State.wdivWrite (s : State) (v : Word) : State := (s.wr addrClkWdiv v).setFld addrClkStatus fldClkStatus_DIVPEND 1

/-- DIVIDER_SWITCH (R447, R443): at slot position 0; in DOZE the divider stays at 8. -/
def execDividerSwitch (s : State) : Out :=
  if s.on addrClkStatus fldClkStatus_DIVPEND ∧ s.cycle % 64 = 0 then
    let s := s.setFld addrClkStatus fldClkStatus_DIVPEND 0
    .next (if s.fld addrPwrStatus fldPwrStatus_STATE = 2 then s else { s with wdiv := s.fld addrClkWdiv fldClkWdiv_DIV })
  else .next s

/-- A port of quadrant `q` is not OFF. -/
def State.quadUsed (s : State) (q : Nat) : Bool := (List.range 36).any fun i => s.unitState (addrLnkCtl (36 * q + i)) ≠ 0

/-- QUAD_PLL_LOCK (R435). -/
def execQuadPllLock (q : Fin 4) (s : State) : Out :=
  if s.quadUsed q then .next (s.setFld addrClkStatus ⟨q, q⟩ 1) else .next s

/-- The PLL of a quadrant whose ports are all OFF stops. -/
def State.quadStops (s : State) (q : Nat) : State := if s.quadUsed q then s else s.setFld addrClkStatus ⟨q, q⟩ 0

/-- A reading in units of 0.125 degrees. -/
def tempOf (w : Word) : Int := signedOf 12 w.toNat

/-- THERMAL_CONVERSION (R465): the alarm at the first conversion in which a sensor reads at least LIMIT after all read below
it. The sensors stop in DEEP SLEEP. -/
def execThermalConversion (t0 t1 t2 t3 t4 : BitVec 12) (s : State) : Out :=
  if s.asleep then .next s
  else
    let lim : Int := 8 * (s.fld addrPwrTalrm fldPwrTalrm_LIMIT : Nat)
    let hot := fun (s : State) => (List.range 5).any fun i =>
      s.on (addrPwrTemp i) fldPwrTemp_VALID && decide (lim ≤ tempOf (s.rd (addrPwrTemp i)))
    let was := hot s
    let s := ((List.range 5).zip [t0, t1, t2, t3, t4]).foldl (fun s x => s.wr (addrPwrTemp x.1) (wordOf (2 ^ 31 + x.2.toNat))) s
    if hot s && !was && s.on addrPwrTalrm fldPwrTalrm_EN then .next ((s.setFld addrPwrTalrm fldPwrTalrm_ALARM 1).raise 0x0D40)
    else .next s

/-! ### Boot verification (R384 to R386) -/

/-- The fields of a signed object's header. -/
def objType (o : SignedObj) : Nat := leBytes ((o.hdr.drop 4).take 2)
def objSvn (o : SignedObj) : Nat := leBytes ((o.hdr.drop 8).take 4)
def objHash (o : SignedObj) : List Byte := (o.hdr.drop 32).take 48
def objSysid (o : SignedObj) : List Byte := (o.hdr.drop 80).take 16
def objSigner (o : SignedObj) : List Byte := (o.hdr.drop 96).take 4

/-- An object is accepted under R384 against the keys of its signer class: header form, both signatures, BHASH, SYSID. -/
def objOk (o : SignedObj) (type : Nat) (keys : List Byte) : Bool :=
  o.hdr.length = 4864 && o.hdr.take 4 == [0x54, 0x42, 0x53, 0x4F] && objType o = type &&
    ((o.hdr.drop 6).take 2).all (· = 0) && ((o.hdr.drop 20).take 12).all (· = 0) && ((o.hdr.drop 100).take 28).all (· = 0) &&
    (o.hdr.drop 4851).all (· = 0) && leBytes ((o.hdr.drop 16).take 4) = o.body.length && objHash o == sha384 o.body &&
    ((objSysid o).all (· = 0) || objSysid o == sysid) &&
    Config.cryptoOk (0x300 + type) (o.hdr ++ keys)

/-- The installer keys that may sign: the fingerprints of the slots in use. -/
def State.installerKeys (s : State) : List Byte := (s.instKeys.filter fun x => !s.instGone.contains x.1).flatMap (·.2)

/-- A measurement extended. -/
def State.measure (s : State) (i : Nat) (digest : List Byte) : State :=
  { s with meas := setNth s.meas i (sha384 (nth [] s.meas i ++ digest)) }

/-- The approval lists a digest: at a multiple of 48 bytes of its body. -/
def listsHash (o : SignedObj) (h : List Byte) : Bool :=
  (List.range (o.body.length / 48)).any fun i => (o.body.drop (48 * i)).take 48 == h

/-- The checks of R385 on the firmware, which the keys of the intermediate certificate behind its body sign (R384), its approval in
SHIPPED. -/
def State.firmwareOk (s : State) (fw appr : SignedObj) : Bool :=
  certUnderRoot fw.cert && objOk fw 1 (certKeys fw.cert) && s.fld addrSecSvn fldSecSvn_SVN ≤ objSvn fw &&
    (s.lcs ≠ 2 || (objOk appr 3 s.installerKeys && listsHash appr (objHash fw)))

/-- An item that the firmware verifies before it releases another whorl: measured, and a list of R389 put in force. -/
def State.bootItem (s : State) (x : Fin 8 × List Byte) : State :=
  let s := s.measure x.1 (sha384 x.2)
  let t := leBytes ((x.2.drop 4).take 2)
  if x.1.val = 5 ∧ (t = 5 ∨ t = 6) then { s with lists := tset s.lists t x.2 } else s

/-- On a wake, the retained WH39 image still has its digest (R446). -/
def State.warm (s : State) : Bool :=
  match s.imgHash with
  | some (n, h) =>
    s.on addrRstCause fldRstCause_WAKE && sha384 ((List.range n).map fun i => s.goodByte (spoolBlk 39 (0x8000 + i))) == h
  | none => false

/-- Recovery (R386, R436): producer 449, an audit entry, and BOOTLED begins to blink. -/
def State.recover (s : State) : State :=
  let s := (s.setFld addrSecStatus fldSecStatus_BOOTV 0).fireProd 449
  { s.audit 1 0 2 0 (bytesLE 4 (s.rd addrSecBootcnt).toNat) with recov := some (s.tb64 + 500000000) }

/-- The boot flash has no supply: PG of bank 5 is 0 at the reset value of VSEL (R436). -/
def State.flashDead (s : State) : Bool := !s.on (addrPinBank 5) fldPinBank_PG && s.fld (addrPinBank 5) fldPinBank_VSEL = 3

/-- BOOT_VERIFY (R385, R386, R436, R438, R446): after a wake whose image is intact the firmware resumes. Otherwise, unless RECOV_N was 0
or the flash has no supply 10 ms after T1 started, WH39 T1 checks the firmware, measures ROM and firmware, loads the WH39 image
above the ROM copy, and the firmware measures the items it verifies; or recovery, which only a reset ends. -/
def execBootVerify (fw appr : SignedObj) (image : List (BitVec 8)) (items : List (Fin 8 × List (BitVec 8))) (s : State) : Out :=
  if !s.started || s.on addrSecStatus fldSecStatus_BOOTV || s.recov.isSome || !s.audReady 2 then .next s
  else
    let m := s.measure 0 (sha384 ((List.range 32768).map Config.romByte))
    if m.warm then .next (m.setFld addrSecStatus fldSecStatus_BOOTV 1)
    else if !s.recovLow && s.flashDead && s.tb64 < s.romAt + 10000000 then .next s
    else if !s.recovLow && !s.flashDead && m.firmwareOk fw appr && image.length ≤ 98304 then
      let s := m.measure 1 (objHash fw)
      let s := (s.memWrite 39 (spoolBlk 39 0x8000) image).1
      let s := items.foldl State.bootItem { s with fwSvn := objSvn fw, imgHash := some (image.length, sha384 image) }
      let s := (s.setFld addrSecStatus fldSecStatus_BOOTV 1).pinLevel 86 false
      let boot := bytesLE 4 (s.rd addrSecBootcnt).toNat ++ nth [] s.meas 1 ++ (fw.hdr.drop 12).take 4
      .next ((s.audit 1 0 0 0 boot).audit 9 0 0 0 (objHash fw ++ objSigner fw ++ bytesLE 4 (objSvn fw)))
    else .next m.recover

end Sys2Proof.Machine
end

