-- ==== Sys2Proof/Machine/Tensioner.lean ====
section
/-! DEFINITION. The tensioner (R332 to R345): gradient blocks, swap, probation and revert, transmit swap, recalibration, the
ageing monitors; and what the Snag unit's registers do (R346 to R348). -/

namespace Sys2Proof.Machine

/-- A flag of TNS_ST. -/
def State.tns (s : State) (p : Nat) (b : Bits) : Bool := s.on (addrTnsSt p) b
/-- A flag of TNS_ST set. -/
def State.setTns (s : State) (p : Nat) (b : Bits) (v : Nat) : State := s.setFld (addrTnsSt p) b v
/-- A tensioner event (R351). -/
def State.tnsEvent (s : State) (p k : Nat) : State := s.raise (0x0700 + 4 * p + k)

/-- GRADIENT_BLOCK (R334, R335): a block of a lane with codeword lock ends: the two counts and the gradients are latched with
TNS_GSEQ. A shadow path that does not run, or whose set is not written yet (R21), has no mismatches. -/
def execGradientBlock (p : PortNo) (smm mse : Word) (grad : List Word) (s : State) : Out :=
  if s.lnkOn p fldLnkState_CWLOCK then
    let sh := s.on (addrTnsCtl p) fldTnsCtl_SHEN && (List.range 8).all fun k => s.written (addrTnsShd p k)
    let s := (s.wr (addrTnsSmm p) (if sh then smm else 0)).wr (addrTnsMse p) mse
    let s := (List.range 8).foldl (fun s k => s.wr (addrTnsGrad p k) (nth 0 grad k)) s
    .next ((s.count (addrTnsGseq p) fldTnsGseq_SEQ).tnsEvent p 0)
  else .next s

/-- One set copied to another. -/
def State.copySet (s : State) (p : Nat) (src dst : Nat → Nat → Nat) : State :=
  (List.range 8).foldl (fun s k => s.wr (dst p k) (s.rd (src p k))) s

/-- PEND to MAIN: the lane acts on no word of PEND before it is written (R21). -/
def State.loadPend (s : State) (p : Nat) : State :=
  (List.range 8).foldl (fun s k => if s.written (addrTnsPend p k) then s.wr (addrTnsMain p k) (s.rd (addrTnsPend p k)) else s) s

/-- A write of 1 to SWAP: SWPEND. -/
def State.swapReq (s : State) (p : Nat) : State := s.setTns p fldTnsSt_SWPEND 1

/-- The waiting swap is over: SWAP and SWPEND clear. -/
def State.swapOver (s : State) (p : Nat) : State :=
  (s.setTns p fldTnsSt_SWPEND 0).hwClear (addrTnsCtl p) fldTnsCtl_SWAP

/-- TNS_SWAP (R337, R339, R343): at a codeword boundary a waiting swap takes place, outside probation; probation starts, and
DUE and the age clear. -/
def execTnsSwap (p : PortNo) (s : State) : Out :=
  if s.tns p fldTnsSt_SWPEND && !s.tns p fldTnsSt_PROB && s.lnkOn p fldLnkState_CWLOCK then
    let s := (s.copySet p addrTnsMain addrTnsPrev).loadPend p
    let s := ((s.swapOver p).setTns p fldTnsSt_SWAPPED 1).setTns p fldTnsSt_PVALID 1
    let s := (s.setTns p fldTnsSt_PROB 1).setTns p fldTnsSt_DUE 0
    let n := 2 ^ s.fld (addrTnsCtl p) fldTnsCtl_PROBW
    .next ((s.modPort p fun t => { t with probLeft := n, probBits := 0, trigger := false, revReq := false, ageBase := s.rclk }).tnsEvent p 1)
  else .next s

/-- PREV back to MAIN, and probation ends. -/
def State.revertNow (s : State) (p : Nat) (auto : Bool) : State :=
  let s := ((s.copySet p addrTnsPrev addrTnsMain).setTns p fldTnsSt_PROB 0).swapOver p
  let s := if auto then s.setTns p fldTnsSt_REVERTED 1 else s
  (s.modPort p fun t => { t with trigger := false, revReq := false, probLeft := 0 }).tnsEvent p 2

/-- MAIN and PREV exchanged. -/
def State.exchange (s : State) (p : Nat) : State :=
  let m := (List.range 8).map fun k => s.rd (addrTnsMain p k)
  let s := s.copySet p addrTnsPrev addrTnsMain
  let s := (List.range 8).foldl (fun s k => s.wr (addrTnsPrev p k) (nth 0 m k)) s
  s.modPort p fun t => { t with revReq := false }

/-- REVERT (R338, R339): at a codeword boundary after the trigger, or after a REVERT request. -/
def execRevert (p : PortNo) (s : State) : Out :=
  let t := s.port p
  if s.tns p fldTnsSt_PROB then
    if t.trigger then .next (s.revertNow p true) else if t.revReq then .next (s.revertNow p false) else .next s
  else if t.revReq then .next (s.exchange p) else .next s

/-- PROBATION_END (R338, R339): the codewords of probation have passed without a trigger. -/
def execProbationEnd (p : PortNo) (s : State) : Out :=
  let t := s.port p
  if s.tns p fldTnsSt_PROB && t.probLeft = 0 && !t.trigger then .next (s.setTns p fldTnsSt_PROB 0) else .next s

/-- TX_EQ_SWAP (R341): at a transmit codeword boundary. -/
def execTxEqSwap (p : PortNo) (s : State) : Out :=
  if s.tns p fldTnsSt_TXPEND then
    .next (((s.wr (addrTnsTxa p) (s.rd (addrTnsTxp p))).setTns p fldTnsSt_TXPEND 0).hwClear (addrTnsCtl p) fldTnsCtl_TXSWAP)
  else .next s

/-- TNS_AGEC: seconds since the last kept swap, from RCLK edges of 6.4 ns, saturating. -/
def State.agec (s : State) (p : Nat) : Nat := min ((s.rclk - (s.port p).ageBase) / 156250000) (2 ^ 32 - 1)

/-- RECAL_DUE (R343). -/
def execRecalDue (p : PortNo) (s : State) : Out :=
  if s.fld (addrTnsDuet p) fldTnsDuet_SEC ≤ s.agec p ∧ !s.tns p fldTnsSt_DUE then
    .next ((s.setTns p fldTnsSt_DUE 1).tnsEvent p 3)
  else .next s

/-- TNS_AGECTL.GO (R345): ignored while BUSY. -/
def State.ageGo (s : State) : State := s.setFld addrTnsAgectl fldTnsAgectl_BUSY 1

/-- AGEING_DONE (R345): the counts of the 64 monitors. -/
def execAgeingDone (str ref : List Word) (s : State) : Out :=
  if s.on addrTnsAgectl fldTnsAgectl_BUSY then
    let s := (List.range 64).foldl (fun s i =>
      (s.setFld (addrTnsRostr i) fldTnsRostr_COUNT (nth 0 str i).toNat).setFld (addrTnsRoref i) fldTnsRoref_COUNT (nth 0 ref i).toNat) s
    .next (s.setFld addrTnsAgectl fldTnsAgectl_BUSY 0)
  else .next s

/-- TNS_CTL acts on a write (R337, R339, R341). -/
def State.tnsCtl (s : State) (p : Nat) (v : Word) : State :=
  let s := if isOn v fldTnsCtl_SWAP then s.swapReq p else s
  let s := if isOn v fldTnsCtl_TXSWAP then s.setTns p fldTnsSt_TXPEND 1 else s
  if isOn v fldTnsCtl_REVERT then s.modPort p fun t => { t with revReq := true } else s

/-- A write of TNS_CTL is a reserved encoding. -/
def State.tnsCtlBad (s : State) (p : Nat) (v : Word) : Bool :=
  let symt := getF v fldTnsCtl_SYMT
  getF v fldTnsCtl_REVT = 0 || symt = 0 || 9 ≤ symt || getF v fldTnsCtl_PROBW < 8 ||
    (isOn v fldTnsCtl_SWAP && isOn v fldTnsCtl_REVERT) ||
    (isOn v fldTnsCtl_REVERT && !s.tns p fldTnsSt_PROB && !s.tns p fldTnsSt_PVALID)

/-- A write of word `k` of PEND or SHD is a reserved encoding (R333): a reserved bit, or thresholds out of order: TL and TM in
word 5, TU in word 6 against the TM held. -/
def State.setWordBad (s : State) (a : Nat → Nat) (shd : Bool) (k : Nat) (v : Word) : Bool :=
  let mask := if k = 7 ∧ shd then 0x3FFFF else setMask k
  v.toNat &&& mask ≠ v.toNat ||
    (k = 5 && signedOf 16 (v.toNat / 65536) ≤ signedOf 16 v.toNat) ||
    (k = 6 && signedOf 16 v.toNat ≤ signedOf 16 ((s.rd (a 5)).toNat / 65536))

/-- A write of TNS_TXP is a reserved encoding (R341). -/
def txpBad (v : Word) : Bool := 40 < getF v fldTnsTxp_PRE2 + getF v fldTnsTxp_PRE1 + getF v fldTnsTxp_POST1

/-! ### Snag's registers (R346, R347) -/

/-- The Snag unit becomes ON: every port's pattern pointers and LFSR begin anew, and the counts since ON clear. -/
def State.snagOn (s : State) : State :=
  (List.range 144).foldl (fun s p =>
    let s := s.modPort p fun t => { t with snPtr := List.replicate 4 0, snLfsr := (s.rd (addrSngSeed p)).toNat }
    (List.range 4).foldl (fun s i => s.wr (addrSngEcnt p i) 0) s) (s.setFld addrSngSt fldSngSt_INJ 0)

/-- SNG_CTL.EN written: entry to STARTING raises unit event 0x0A00 (R346). -/
def State.sngEnable (s : State) (en : Nat) : State :=
  let w := s.rd addrSngCtl
  let s := s.wr addrSngCtl (enableRule w en)
  if getF w enSTATE ≠ 1 ∧ s.unitState addrSngCtl = 1 then s.raise 0x0A00 else s

/-- SNG_AUDACK written in STARTING: the enable is recorded, and STARTING ends. -/
def State.sngAck (s : State) : State :=
  let s := s.wr addrSngCtl (startingEnd (s.rd addrSngCtl))
  if s.unitState addrSngCtl = 2 then s.snagOn else s

/-- An entry's configuration is a reserved encoding (R348). -/
def ecfgBad (v : Word) : Bool :=
  let k := getF v fldSngEcfg_KIND
  6 ≤ k || ((k = 1 || k = 5) && getF v fldSngEcfg_CLS ≠ 0) || (isOn v fldSngEcfg_V && getF v fldSngEcfg_PARAM = 0)

end Sys2Proof.Machine
end

