-- ==== Sys2Proof/Machine/CtlEnc.lean ====
section
/-! DEFINITION. Which register writes are privilege violations beyond their access codes (R18, "a chapter may restrict further
fields"), and which are reserved encodings (R19), register by register. `old` is the value that the register holds. -/

namespace Sys2Proof.Machine

/-- Every field of the list is the same in two words. -/
def sameF (a b : Word) (l : List Bits) : Bool := l.all fun f => getF a f = getF b f

/-- The pin that an address of PIN_OWN names: the row of SP0 to SP63, or the part of the row of SP64 to SP95 that no other
register shares (log 21). -/
def pinOfOwn : List Nat → Nat
  | [i] => i
  | [i, j] => 68 + 8 * i + j
  | _ => 0

/-! ### Rights beyond the access codes -/

/-- The Z world writes the register block of a pinned ply unit (R301). -/
def State.pinnedFrom (s : State) (rq : Req) (u : Nat) : Bool := rq.z && s.on (addrPlyOwn u) fldPlyOwn_PIN

/-- A write is a privilege violation by a rule of its chapter: thread controls (R47), the raw accesses (R162), the ledger's
grants (R185), the matrix and consumers (R356), pins (R367, R371), pinned ply units (R301), operation submits (R382). -/
def State.chapterDenied (s : State) (rq : Req) (nm : RegName) (ix : List Nat) (old v : Word) : Bool :=
  match nm, ix with
  | .whlTctl, _ => (isOn v fldWhlTctl_START || isOn v fldWhlTctl_HALT || isOn v fldWhlTctl_CLRF) && !rq.sup
  | .memRawctl, _ => v ≠ 0 && !rq.sup
  | .lgrAdjamt, _ => rq.z
  | .trdMat, c :: _ => !s.colWritable rq c
  | .trdCcfg, [c] => !s.colWritable rq c
  | .trdCack, [c] => !s.colWritable rq c
  | .pinCfg, [i] => !s.pinCfgOk rq i || s.pinCfgForeign i v
  | .pinTctl, [i] => !s.pinCfgOk rq i
  | .pinTqst, [i] => !s.pinCfgOk rq i && (v &&& old).toNat / 8 % 8 ≠ 0
  | .secOpdb, [n] => !opdbOk rq n
  | .plyCtl, u :: _ => s.pinnedFrom rq u
  | .plyOwn, u :: _ => s.pinnedFrom rq u
  | .plyStatus, u :: _ => s.pinnedFrom rq u
  | .plyDone, u :: _ => s.pinnedFrom rq u
  | .plyFdet, u :: _ => s.pinnedFrom rq u
  | .plyFaddr, u :: _ => s.pinnedFrom rq u
  | .plyCmd, u :: _ => s.pinnedFrom rq u
  | .plyEvw, u :: _ => s.pinnedFrom rq u
  | .plyFence, u :: _ => s.pinnedFrom rq u
  | .plyCnt, u :: _ => s.pinnedFrom rq u
  | .plyCntclr, u :: _ => s.pinnedFrom rq u
  | _, _ => false

/-! ### Reserved encodings -/

/-- A unit-event number of R477. -/
def unitEvent (k : Nat) : Bool :=
  k < 0x240 || (0x400 ≤ k && k < 0x420) || (0x480 ≤ k && k < 0x4E0) || (0x500 ≤ k && k < 0x601) ||
  (0x620 ≤ k && k < 0x640) || (0x700 ≤ k && k < 0x941) || k = 0xA00 || k = 0xA01 || (0xB00 ≤ k && k < 0xB10) ||
  (0xC00 ≤ k && k < 0xC28) || k = 0xC40 || (0xD00 ≤ k && k < 0xD20) || k = 0xD40 || k = 0xE00

/-- INDEX lies in the range of CLASS for whorl `n` (R53). -/
def sourceOk (n cls idx : Nat) : Bool :=
  match cls with
  | 0 => true
  | 1 => idx < 64
  | 2 => idx < 64
  | 3 => idx < 16
  | 4 => idx < 16
  | 5 => true
  | 6 => idx / 4 = n && idx < 160
  | 7 => unitEvent idx
  | _ => false

/-- A region register as a write would leave it (R155). -/
def State.rgnWriteBad (s : State) (m r : Nat) (nm : RegName) (v : Word) : Bool :=
  let pick := fun (n : RegName) (a : Nat) => if n = nm then v else s.rd a
  rgnBad m (pick .memRgnattr (addrMemRgnattr m r)) (pick .memRgnbase (addrMemRgnbase m r)) (pick .memRgnlim (addrMemRgnlim m r))

/-- A partition register as a write would leave it (R157); a write that changes nothing is none. -/
def State.cpWriteBad (s : State) (k : Nat) (nm : RegName) (old v : Word) : Bool :=
  let pick := fun (n : RegName) (a : Nat) => if n = nm then v else s.rd a
  v ≠ old && s.cpBad k (pick .memCpattr (addrMemCpattr k)) (pick .memCpbase (addrMemCpbase k)) (pick .memCplim (addrMemCplim k))

/-- A 64 KiB unit starts a partition in force with a use, of at least `n` units. -/
def State.startsPart (s : State) (use u n : Nat) : Bool :=
  (List.range 32).any fun k =>
    s.on (addrMemCpattr k) fldMemCpattr_V && s.fld (addrMemCpattr k) fldMemCpattr_USE = use &&
    s.fld (addrMemCpbase k) fldMemCpbase_BASE = u && u + n ≤ s.fld (addrMemCplim k) fldMemCplim_LIMIT + 1

/-- A bobbin partition overlaps another or passes 65,535 (R179). -/
def State.bobPartBad (s : State) (n : Nat) (v : Word) : Bool :=
  let b := getF v fldBobPart_BASE
  let c := getF v fldBobPart_COUNT
  c ≠ 0 && (65536 < b + c || (List.range 40).any fun m =>
    let d := s.fld (addrBobPart m) fldBobPart_BASE
    let e := s.fld (addrBobPart m) fldBobPart_COUNT
    m ≠ n && e ≠ 0 && b < d + e && d < b + c)

/-- The pending copy of a route entry: CANDLO, CANDHI, PATLO (R230). -/
def State.ptePend (s : State) (d : Nat) : Word × Word × Word :=
  tget (fun _ => (s.rd (addrRteCandlo d), s.rd (addrRteCandhi d), s.rd (addrRtePatlo d))) s.rtePend d

/-- A commit of a route entry is a reserved encoding (R231). -/
def State.commitBad (s : State) (d : Nat) (v : Word) : Bool :=
  let (lo, hi, pl) := s.ptePend d
  let cand := fun k => (if k < 4 then lo.toNat / 2 ^ (8 * k) else hi.toNat / 2 ^ (8 * (k - 4))) % 256
  let step := fun k => (if k < 10 then pl.toNat / 2 ^ (3 * k) else v.toNat / 2 ^ (3 * (k - 10))) % 8
  isOn v fldRtePathi_V &&
    ((List.range (getF v fldRtePathi_PLEN + 1)).any (fun k => 144 ≤ cand (step k)) ||
      (List.range 8).any fun k => 144 ≤ cand k && cand k < 255)

/-- REEL_CFGCMD.ARM is a reserved encoding (R255). The slot time S is 21.5913 ns. -/
def State.armBad (s : State) : Bool :=
  let per := s.fld addrReelPer fldReelPer_PER
  let n := s.fld addrReelCfg fldReelCfg_LEN + 1
  let tb := (s.rd (addrReelCfgtb 0)).toNat + (s.rd (addrReelCfgtb 1)).toNat * 2 ^ 32
  let d := ((20000 * per : Nat) : Int) - (2 * 215913 * n : Nat)
  215913 < d.natAbs || per = 0 || tb % per ≠ 0 || tb < s.tb64 + 10000

/-- A write of LNK registers is a reserved encoding (R225, R226). -/
def lnkCtlBad (old v : Word) : Bool :=
  isOn v fldLnkCtl_PRBS && isOn v fldLnkCtl_AUTO && !isOn old fldLnkCtl_EN
def lnkCfgBad (v : Word) : Bool :=
  getF v fldLnkCfg_DOWNT = 0 || getF v fldLnkCfg_RMAX = 0 || getF v fldLnkCfg_RTO = 0 || getF v fldLnkCfg_NAKT = 0

/-- SUB of a control cell header names a subtype (R203). -/
def subOk (n : Nat) : Bool := n = 1 || n = 2 || n = 3 || n = 0x20 || fwSub n

/-- RTE_CFG holds a reserved value. -/
def rteCfgBad (v : Word) : Bool :=
  let tc := getF v fldRteCfg_ACKTC
  getF v fldRteCfg_STALLT = 0 || getF v fldRteCfg_ACKT = 0 || getF v fldRteCfg_ACKN = 0 || tc = 5 || tc = 7

/-- A write of a group's registers is a reserved encoding: its configuration changed while it is armed (R298), a whorl above
39, a condition in use with COUNT 0. -/
def cgctlBad (old v : Word) : Bool :=
  (isOn old fldPlyCgctl_ARMED &&
    !sameF old v [fldPlyCgctl_WORLD, fldPlyCgctl_AUTO, fldPlyCgctl_SLIP, fldPlyCgctl_EVW, fldPlyCgctl_EVB]) ||
    40 ≤ getF v fldPlyCgctl_EVW
def cgfBad (v : Word) : Bool := isOn v fldPlyCgf_V && getF v fldPlyCgf_COUNT = 0

/-- A write of a result buffer's registers is a reserved encoding (R297). -/
def State.rbWriteBad (s : State) (b : Nat) (nm : RegName) (v : Word) : Bool :=
  let pick := fun (n : RegName) (a : Nat) => if n = nm then v else s.rd a
  s.rbBad b (pick .plyRba (addrPlyRba b)) (pick .plyRbb (addrPlyRbb b)) (pick .plyRbsz (addrPlyRbsz b))

/-- A Snag entry or seed is written while the unit is not OFF (R346). -/
def State.sngBusy (s : State) : Bool := s.unitState addrSngCtl ≠ 0

/-- The reserved bits of TRD_MAT[c][w]: producers from 454 on, and consumers 188 to 191 (R355). -/
def matReserved (c w : Nat) : Word :=
  if 188 ≤ c ∧ c < 192 then 0xFFFFFFFF else if w = 14 then 0xFFFFFFC0 else if w = 15 then 0xFFFFFFFF else 0

/-- An entry of the egress sequence names TC5 (R251). -/
def eseqBad (w : Word) : Bool := isOn w fldReelEseq_USE && getF w fldReelEseq_TC = 5
/-- The write that clears ESQHOLD counts as the write of the whole table. -/
def State.unholdBad (s : State) (p : Nat) (old v : Word) : Bool :=
  isOn old fldReelPctl_ESQHOLD && !isOn v fldReelPctl_ESQHOLD && (List.range 64).any fun e => eseqBad (s.rd (addrReelEseq p e))

/-- The write is a reserved encoding (R19). LGR_OVRSET holds a set number like LGR_ADJSET, so its values from 5,504 on are taken as
reserved too (DESIGN CHOICE, log 102). -/
def State.encBad (s : State) (rq : Req) (nm : RegName) (ix : List Nat) (old v : Word) : Bool :=
  match nm, ix with
  | .whlTctl, _ => 2 ≤ popCount 4 (v.toNat - v.toNat / 4 % 2 * 4)
  | .whlEvsrc, [n, _, i] =>
    (i = 0 || 28 ≤ i) || !sourceOk n (getF v fldWhlEvsrc_CLASS) (getF v fldWhlEvsrc_INDEX)
  | .whlChcfg, _ => isOn old fldWhlChcfg_EN && !sameF old v [fldWhlChcfg_SND, fldWhlChcfg_RCV]
  | .whlXcfg, _ =>
    40 ≤ getF v fldWhlXcfg_PWH ||
      (isOn old fldWhlXcfg_EN && !sameF old v [fldWhlXcfg_PX, fldWhlXcfg_PWH, fldWhlXcfg_THR, fldWhlXcfg_DIR])
  | .memRgnbase, [m, r] => s.rgnWriteBad m r .memRgnbase v
  | .memRgnlim, [m, r] => s.rgnWriteBad m r .memRgnlim v
  | .memRgnattr, [m, r] => s.rgnWriteBad m r .memRgnattr v
  | .memCpbase, [k] => s.cpWriteBad k .memCpbase old v
  | .memCplim, [k] => s.cpWriteBad k .memCplim old v
  | .memCpattr, [k] => s.cpWriteBad k .memCpattr old v
  | .memScrub, _ => !inStore v.toNat
  | .memRawaddr, _ => !inStore v.toNat
  | .memRawctl, _ => v = 3 || (v ≠ 0 && !inStore s.rawAddr)
  | .memCremap, _ => 1536 ≤ getF v fldMemCremap_ROW
  | .bobBctl, [k] => isOn v fldBobBctl_EN && !isOn old fldBobBctl_EN && !s.bobHeld k
  | .bobSetcmd, _ => getF v fldBobSetcmd_OP = 0
  | .bobPart, [n] => s.bobPartBad n v
  | .lgrBase, _ => !s.startsPart 4 (getF v fldLgrBase_BASE) 2
  | .lgrAdjset, _ => 5504 ≤ getF v fldLgrAdjset_SET
  | .lgrOvrset, _ => 5504 ≤ getF v fldLgrOvrset_SET
  | .lnkCtl, _ => lnkCtlBad old v
  | .lnkCfg, _ => lnkCfgBad v
  | .lnkCtxhdr, _ => !subOk (getF v fldLnkCtxhdr_SUB)
  | .rtePathi, [d] => s.commitBad d v
  | .rteCfg, _ => rteCfgBad v
  | .rteRbase, _ => !s.startsPart 2 (getF v fldRteRbase_BASE) 1
  | .rteCtxcmd, _ => getF v fldRteCtxcmd_OP = 0
  | .rtePcfg, _ => getF v fldRtePcfg_ROLE = 3
  | .reelCfg, _ => getF v fldReelCfg_LEN < 15
  | .reelCfgcmd, _ => v = 1 && s.armBad
  | .reelEseq, [p, _] => !s.on (addrReelPctl p) fldReelPctl_ESQHOLD && eseqBad v
  | .reelPctl, [p] => s.unholdBad p old v
  | .reelSbase, _ => !inCreel v.toNat
  | .drfCmd, [e] => s.drfCmdBad e v
  | .drfStgbase, _ => !inCreel v.toNat
  | .drfStgsz, _ => 256 < getF v fldDrfStgsz_SIZE
  | .drfEvw, _ => 40 ≤ getF v fldDrfEvw_WHORL
  | .drfSvcctl, [e] => s.svcBad v (s.rd (addrDrfSvcwlo e)) (s.rd (addrDrfSvcwhi e))
  | .plyOwn, [u] => s.plyOwnBad u v
  | .plyCmd, [u] => s.plyCmdBad u v
  | .plyEvw, _ => 40 ≤ getF v fldPlyEvw_WHORL
  | .plyRba, [b] => s.rbWriteBad b .plyRba v
  | .plyRbb, [b] => s.rbWriteBad b .plyRbb v
  | .plyRbsz, [b] => s.rbWriteBad b .plyRbsz v
  | .plyCgctl, _ => cgctlBad old v
  | .plyCgb, g :: _ => s.armed g
  | .plyCgf, g :: _ => s.armed g || cgfBad v
  | .sknTsnew, [w] => w = 4 && v.toNat / 65536 ≠ 0
  | .sknTcfg, _ => getF v fldSknTcfg_PERIOD = 0
  | .sknScha, _ => schBad v
  | .tnsPend, [p, k] => s.tns p fldTnsSt_SWPEND || s.setWordBad (addrTnsPend p) false k v
  | .tnsShd, [p, k] => s.setWordBad (addrTnsShd p) true k v
  | .tnsCtl, [p] => s.tnsCtlBad p v
  | .tnsTxp, _ => txpBad v
  | .tnsDuet, _ => getF v fldTnsDuet_SEC = 0
  | .sngEcfg, _ => s.sngBusy || ecfgBad v
  | .sngEpat, _ => s.sngBusy
  | .sngEprob, _ => s.sngBusy
  | .sngElim, _ => s.sngBusy
  | .sngSeed, _ => s.sngBusy || v = 0
  | .sngAudack, _ => s.unitState addrSngCtl ≠ 1
  | .trdPcfg, _ => getF v fldTrdPcfg_EDGE = 3
  | .trdCcfg, [c] => s.ccfgBad c v
  | .trdMat, [c, w] => v &&& s.matMask rq.z c w &&& matReserved c w ≠ 0
  | .pinCfg, _ => pinCfgBad v
  | .pinOwn, _ => 40 ≤ getF v fldPinOwn_WHORL
  | .pinTctl, _ => 40 ≤ getF v fldPinTctl_CAPW
  | .secAudbase, _ => !s.audFirst
  | .hapCfg, _ => 40 ≤ getF v fldHapCfg_EVW || getF v fldHapCfg_RDTO = 0
  | .hapIctl, _ => getF v fldHapIctl_CLASS = 3
  | .cxpCfg, _ => getF v fldCxpCfg_L < 8 || getF v fldCxpCfg_TMO = 0
  | .pwrCtl, _ => getF v fldPwrCtl_REQ = 3
  | .clkWdiv, _ => getF v fldClkWdiv_DIV < 4 || 8 < getF v fldClkWdiv_DIV
  | .pwrTalrm, _ => 125 < getF v fldPwrTalrm_LIMIT
  | .dbgTsel, _ => 1280 ≤ getF v fldDbgTsel_THREAD
  | .dbgCmd, _ => s.dbg.isSome && 2 ≤ popCount 3 v.toNat
  | _, _ => false

end Sys2Proof.Machine
end

