-- ==== Sys2Proof/Machine/CtlEff.lean ====
section
/-! DEFINITION. What a register write that takes effect does: every register with an effect beyond its own fields, unit by
unit. The writes of the DBG window that act on threads stand in Debug.lean. -/

namespace Sys2Proof.Machine

/-! ### Whorls (R42, R46, R47, R51, R54, R57, R65, R135) -/

/-- HALT written for a thread (R46): READY halts at once, or after its entry turns (R126); a far access, a divide or a
coprocessor word completes first; another wait ends without transfer, the wait of PINT among them (DESIGN CHOICE, log 93). -/
def State.haltThread (s : State) (g : Nat) : State :=
  let th := s.thr g
  let now := fun (s : State) =>
    (s.modThr g fun th => { th with state := .halted, wait := .none, issued := none, owed := 0, haltReq := false, stopReq := false }).settle g
  let later := fun (s : State) => s.modThr g fun th => { th with haltReq := true }
  match th.state, th.wait with
  | .ready, _ => if th.entry.isSome then later s else now s
  | .waiting, .load _ _ _ _ _ => later s
  | .waiting, .atomic _ _ _ _ _ => later s
  | .waiting, .unit _ _ _ _ => later s
  | .waiting, .divide _ _ _ _ => later s
  | .waiting, .cxp _ _ => later s
  | .waiting, _ => now s
  | _, _ => s

/-- The refusal to release a whorl, in the audit log (R25, R404). -/
def State.mapRefused (s : State) (n : Nat) : State :=
  let m := (s.whl n).wmap
  s.auditSoon 8 1 (bytesLE 1 n ++ bytesLE 4 (m &&& wordOf (requiredS n)).toNat ++ bytesLE 4 m.toNat)

/-- WHL_TCTL written (R46, R47). START and CLRF act on a thread in the state they name only. A START in a whorl whose world map gives a
required thread to the Z world is refused (R25; DEDUCED, log 113). -/
def State.tctlWrite (s : State) (n t : Nat) (v : Word) : State :=
  let g := 32 * n + t
  let s := s.wr (addrWhlTctl n t) (v &&& 4)
  if isOn v fldWhlTctl_START then
    if (s.thr g).state = .halted then
      if s.mapOk n then s.startThread g (s.rd (addrWhlTpc n t)) (s.mapZ g) else s.mapRefused n
    else s
  else if isOn v fldWhlTctl_HALT then s.haltThread g
  else if isOn v fldWhlTctl_CLRF then
    if (s.thr g).state = .faulted then s.modThr g fun th => { th with state := .halted } else s
  else s

/-- WHL_CHCFG written (R54): clearing EN discards the words and ends blocked operations with ERR. -/
def State.chcfgWrite (s : State) (n c : Nat) (v : Word) : State :=
  let was := s.on (addrWhlChcfg n c) fldWhlChcfg_EN
  let s := if was ∧ !isOn v fldWhlChcfg_EN then s.chDisable n c else s
  s.wr (addrWhlChcfg n c) v

/-- WHL_XCFG written (R57). -/
def State.xcfgWrite (s : State) (n x : Nat) (v : Word) : State :=
  let was := s.on (addrWhlXcfg n x) fldWhlXcfg_EN
  let s := if was ∧ !isOn v fldWhlXcfg_EN then s.xDisable n x else s
  s.wr (addrWhlXcfg n x) v

/-- A record popped from a whorl's queue, or from the escalation queue (R135, R136). -/
def State.notePop (s : State) (n : Nat) : State := s.modWhl n fun w => { w with notes := w.notes.drop 1 }
def State.escPop (s : State) : State := { s with escq := s.escq.drop 1 }

/-! ### The wire (R223, R226) -/

/-- LNK_CTL written (R217, R223, R440): clearing EN in UP or RETRAIN begins a drain. -/
def State.lnkCtlWrite (s : State) (p : Nat) (v : Word) : State :=
  let old := s.rd (addrLnkCtl p)
  let w := enableRule old (getF v enEN)
  let w := setF (setF (setF w fldLnkCtl_PRBS (getF v fldLnkCtl_PRBS)) fldLnkCtl_AUTO (getF v fldLnkCtl_AUTO))
    fldLnkCtl_RXRDY (getF v fldLnkCtl_RXRDY)
  let s := s.wr (addrLnkCtl p) w
  if getF old enSTATE = 2 ∧ getF w enSTATE = 3 then s.goDrain p else s

/-- The words of LNK_CTXBUF that a cell sends have all been written: the port acts on none before (R21). -/
def State.ctxWritten (s : State) (p : Nat) (full : Bool) : Bool :=
  (List.range (if full then 64 else 16)).all fun j => j < 8 || s.written (addrLnkCtxbuf p j)

/-- LNK_CTXCMD.GO (R226): the cell waits for a position; a GO while BUSY is ignored and sets CTLOV. A GO whose payload has not been
written does nothing (R21). -/
def State.ctxGo (s : State) (p : Nat) : State :=
  let h := s.rd (addrLnkCtxhdr p)
  if s.on (addrLnkCtxcmd p) fldLnkCtxcmd_BUSY then s.lnkFlag p fldLnkStatus_CTLOV
  else if !s.ctxWritten p (isOn h fldLnkCtxhdr_FULL) then s
  else
    let f : FwCell :=
      { sub := getF h fldLnkCtxhdr_SUB, full := isOn h fldLnkCtxhdr_FULL, frag := getF h fldLnkCtxhdr_FRAG,
        dseq := getF h fldLnkCtxhdr_DSEQ, last := s.fld (addrLnkCtxhdr2 p) fldLnkCtxhdr2_LAST,
        pay := (List.range 64).flatMap fun j => bytesLE 4 (s.rd (addrLnkCtxbuf p j)).toNat }
    (s.modPort p fun t => { t with fw := some f }).setFld (addrLnkCtxcmd p) fldLnkCtxcmd_BUSY 1

/-- LNK_CRXCTL.POP (R226): the oldest held cell goes. -/
def State.crxPop (s : State) (p : Nat) : State :=
  if (s.port p).crx.isEmpty then s
  else s.modPort p fun t => { t with crx := t.crx.drop 1, crxHead := (t.crxHead + 1) % 16 }

/-- The counters of an instance cleared. -/
def State.clearCounts (s : State) (a : Nat → Nat) (n : Nat) : State := (List.range n).foldl (fun s i => s.wr (a i) 0) s

/-! ### Forwarding and the reel (R230, R232, R251) -/

/-- A word of an entry's pending copy written (R230). -/
def State.setPend (s : State) (d : Nat) (x : Word × Word × Word) : State := { s with rtePend := tset s.rtePend d x }

/-- A commit (R230, R232): the pending copy and the written word take force; a step pointer beyond PLEN becomes 0. -/
def State.rteCommit (s : State) (d : Nat) (v : Word) : State :=
  let (lo, hi, pl) := s.ptePend d
  let s := s.setPend d (lo, hi, pl)
  let s := (((s.wr (addrRteCandlo d) lo).wr (addrRteCandhi d) hi).wr (addrRtePatlo d) pl).wr (addrRtePathi d) v
  if getF v fldRtePathi_PLEN < s.fld (addrRteStep d) fldRteStep_STEP then s.setFld (addrRteStep d) fldRteStep_STEP 0 else s

/-- REEL_CFGCMD.ARM (R255): the values to arm are taken now. -/
def State.reelArmNow (s : State) : State :=
  let at_ := (s.rd (addrReelCfgtb 0)).toNat + (s.rd (addrReelCfgtb 1)).toNat * 2 ^ 32
  { s with reelArm := (s.fld addrReelCfg fldReelCfg_LEN, s.fld addrReelPer fldReelPer_PER, at_) }.setFld addrReelCfgst
    fldReelCfgst_ARMED 1

/-- REEL_PCTL written (R251, R254): a new SWAP request is dated, and clearing ESQHOLD counts as the write of the whole egress sequence. -/
def State.reelPctl (s : State) (p : Nat) (new : Word) : State :=
  let old := s.rd (addrReelPctl p)
  let s := if isOn new fldReelPctl_SWAP && !isOn old fldReelPctl_SWAP then s.modPort p fun t => { t with swapAt := s.cycle } else s
  let s := s.wr (addrReelPctl p) new
  if isOn old fldReelPctl_ESQHOLD && !isOn new fldReelPctl_ESQHOLD then s.setFld (addrReelPst p) fldReelPst_ESQPEND 1 else s

/-! ### Pins (R367, R373) -/

/-- PIN_OWN written under its key: an owner that changes drops the pin's edges and capture. -/
def State.pinOwnWrite (s : State) (i : Nat) (v : Word) : State :=
  let s' := s.pinsChange fun s => s.wr (pinOwnKey i) v
  if s.rd (pinOwnKey i) = v then s' else s'.pinOwned i

/-- TRD_MAT written (R356): only the bits that the writer may change. -/
def State.matWrite (s : State) (z : Bool) (c w : Nat) (v : Word) : State :=
  let m := s.matMask z c w
  s.wrAon (addrTrdMat c w) ((s.rd (addrTrdMat c w) &&& ~~~ m) ||| (v &&& m))

/-! ### Security (R390, R393, R407) -/

/-- SEC_MBXCTL written: a GO that it sets fires unit event 0x0C40. -/
def State.mbxCtlWrite (s : State) (new : Word) : State :=
  let was := s.on addrSecMbxctl fldSecMbxctl_GO
  let s := s.wr addrSecMbxctl new
  if isOn new fldSecMbxctl_GO ∧ !was then s.raise 0x0C40 else s

/-! ### The effect of a write -/

/-- The effect of a write of `v` that passed the checks: `new` is the word that the access codes leave, `a` the register's
home. -/
def State.effect (s : State) (rq : Req) (nm : RegName) (ix : List Nat) (a : Nat) (new v : Word) : State :=
  let go := v.toNat % 2 = 1
  match nm, ix with
  | .whlSlot, [n, _] => (s.wr a new).setFld (addrWhlSlotst n) fldWhlSlotst_PEND 1
  | .whlTctl, [n, t] => s.tctlWrite n t v
  | .whlEvpend, [n, t] => s.modThr (32 * n + t) fun th => { th with ev := th.ev &&& ~~~ (v &&& ~~~ s.marked a) }
  | .whlDlhi, [n, t] => (s.wr a new).modThr (32 * n + t) fun th => { th with dlArmed := true }
  | .whlChcfg, [n, c] => s.chcfgWrite n c new
  | .whlXcfg, [n, x] => s.xcfgWrite n x new
  | .whlChctl, [n, c] => if go then s.chFlush n c else s
  | .whlXctl, [n, x] => if go then s.chFlush n (64 + x) else s
  | .whlNotectl, [n] => if go then s.notePop n else s
  | .whlEscctl, _ => if go then s.escPop else s
  | .memEccctl, _ => if go then s.eccClear else s
  | .memScrub, _ => (s.scrubUnit rq v.toNat).1
  | .memRawctl, _ => if v = 1 then s.rawReadOp else if v = 2 then s.rawWriteOp else s
  | .memCremap, [b, k] => s.remap (addrMemCremap b) 8 k fldMemCremap_ROW (creelRow b) v
  | .memLremap, [n, b, k] => s.remap (addrMemLremap n b) 4 k fldMemLremap_ROW (lapRow n b) v
  | .bobDb, [k] => (s.dbWrite k rq v).1
  | .bobBctl, [k] => (s.setBctl k (setF (s.rd a) fldBobBctl_OVF (getF new fldBobBctl_OVF))).bobEnable k (getF v enEN)
  | .bobSetcmd, _ => s.setCmd (getF v fldBobSetcmd_OP) (getF v fldBobSetcmd_BOB)
  | .bobRetidx, _ => s.retireMsg v.toNat
  | .lgrAdjamt, _ => s.adjust v
  | .lgrGstat, _ => if getF v ⟨4, 3⟩ ≠ 0 then (s.wr a new).guarBreak else s
  | .lgrOvrcmd, _ => if go then s.override else s
  | .lnkCtl, [p] => s.lnkCtlWrite p v
  | .lnkCntclr, [p] => if go then s.clearCounts (addrLnkCnt p) 9 else s
  | .lnkCtxcmd, [p] => if go then s.ctxGo p else s
  | .lnkCrxctl, [p] => if go then s.crxPop p else s
  | .rteCandlo, [d] => let x := s.ptePend d; s.setPend d (v, x.2.1, x.2.2)
  | .rteCandhi, [d] => let x := s.ptePend d; s.setPend d (x.1, v, x.2.2)
  | .rtePatlo, [d] => let x := s.ptePend d; s.setPend d (x.1, x.2.1, v)
  | .rtePathi, [d] => s.rteCommit d v
  | .rteId, _ => s.wr a (if rq.inst then setF new fldRteId_SET 1 else new)
  | .rteCtxcmd, _ => s.ctxCmd (getF v fldRteCtxcmd_OP) (getF v fldRteCtxcmd_CTX)
  | .rteCntclr, _ => if go then s.clearCounts addrRteCnt 13 else s
  | .reelCfgcmd, _ => if go then s.reelArmNow else s
  | .reelPctl, [p] => s.reelPctl p new
  | .reelEseq, [p, _] => (s.wr a new).setFld (addrReelPst p) fldReelPst_ESQPEND 1
  | .drfCtl, [e] => s.drfCtl e (enableRule (s.rd a) (getF v enEN))
  | .drfGo, [e] => if go then (s.goWrite e rq).1 else s
  | .drfCmd, [e] => s.drfCmd e v
  | .drfCntclr, [e] => if go then s.clearCounts (addrDrfCnt e) 6 else s
  | .plyCtl, _ => s.wr a (enableRule (s.rd a) (getF v enEN))
  | .plyCmd, [u] => s.plyCmd u v
  | .plyCntclr, [u] => if go then s.clearCounts (addrPlyCnt u) 5 else s
  | .plyCgctl, _ => s.wr a (if isOn v fldPlyCgctl_ARMED then setF new fldPlyCgctl_DEFER 0 else new)
  | .sknCtl, _ => s.wr a (enableRule (s.rd a) (getF v enEN))
  | .sknInc1, _ => (s.wr a new).tbRate
  | .sknSlewn, _ => if getF v fldSknSlewn_N ≠ 0 then (s.wr a new).tbSlewStart else s.wr a new
  | .sknTbctl, _ =>
    let s := if isOn v fldSknTbctl_SNAP then s.tbSnapNow else s
    if isOn v fldSknTbctl_STEP then s.tbStepReq else s
  | .sknScha, [j] => (s.wr a new).schArmed j
  | .tnsCtl, [p] => (s.wr a new).tnsCtl p v
  | .tnsClr, [p] => if go then s.wr (addrTnsEbits p) 0 else s
  | .tnsAgectl, _ => if isOn v fldTnsAgectl_GO ∧ !s.on a fldTnsAgectl_BUSY then (s.wr a new).ageGo else s.wr a new
  | .sngCtl, _ => s.sngEnable (getF v enEN)
  | .sngAudack, _ => (s.wr a new).sngAck
  | .trdSwfire, [w] => s.swfire rq w v
  | .trdPworld, _ => s.wrAon a new
  | .trdCworld, _ => s.wrAon a new
  | .trdGctl, [g] => s.gctlWrite g new
  | .trdCcfg, [c] => s.ccfgWrite c new
  | .trdCack, [c] => if go then s.cackWrite c else s
  | .trdMat, [c, w] => s.matWrite rq.z c w v
  | .pinOut, [w] => s.pinOutWrite w (s.pinMask rq w) v
  | .pinSet, [w] => s.pinSetBits w (s.pinMask rq w) v
  | .pinClr, [w] => s.pinClrBits w (s.pinMask rq w) v
  | .pinTgl, [w] => s.pinTglBits w (s.pinMask rq w) v
  | .pinIdef, _ => s.pinsChange fun s => s.wr a new
  | .pinCfg, _ => s.pinsChange fun s => s.wr a new
  | .pinOwn, _ => s.pinOwnWrite (pinOfOwn ix) new
  | .pinTctl, [i] => if isOn v fldPinTctl_FLUSH then (s.wr a new).pinFlushNow i else s.wr a new
  | .secCmddone, _ => if go then s.grantDone else s
  | .secOpdb, [n] => if s.fld (addrSecOpst n) fldSecOpst_QCNT = 8 then s.secSubmit n v else (s.wr a new).secSubmit n v
  | .secMbxctl, _ => s.mbxCtlWrite new
  | .secMbxrsp, _ => if go then s.mbxPost else s
  | .hapCtl, [c] => s.setHapCtl c (enableRule (s.rd a) (getF v enEN))
  | .hapCntclr, [c] => if go then s.clearCounts (addrHapCnt c) 8 else s
  | .hapIarm, [w] => s.iarm w v
  | .hapIfire, [w] => s.ifire w v
  | .pwrCtl, _ => s.pwrCtl v
  | .clkWdiv, _ => s.wdivWrite v
  | .rstCmd, _ => if go then { s with rstCmd := true } else s
  | _, _ => s.wr a new

end Sys2Proof.Machine
end

