-- ==== Sys2Proof/Machine/Control.lean ====
section
/-! DEFINITION. A register access of control space by any master: rights of its regions (R152, R154), the access codes (R16 to
R18), reserved bits and encodings (R19), offsets that hold no register (R469), and what a read shows where a register's value is
computed. The writes and reads of the DBG window that act on a thread stand in Debug.lean. -/

namespace Sys2Proof.Machine

/-! ### Who may reach an address -/

/-- The fixed mailbox grant of R154. -/
def mailboxGrant (w : Bool) (a : Nat) : Bool :=
  (0x4B001000 ≤ a && a < 0x4B002000) || (!w && 0x4B002000 ≤ a && a < 0x4B003000) || a = 0x4B003000

/-- A master's access to a control address is granted (R152, R154, R467). -/
def State.ctlGranted (s : State) (rq : Req) (w : Bool) (a : Nat) : Bool :=
  match rq.who with
  | .debugPort => mailboxGrant w a || a / 2 ^ 24 = 0x4F
  | .host _ => mailboxGrant w a || s.granted (masterOf rq.who) rq.z rq.lv (if w then .write else .read) a
  | _ => s.granted (masterOf rq.who) rq.z rq.lv (if w then .write else .read) a

/-! ### Writes -/

/-- The word that the write's checks compare with: the pending copy for the first words of a route entry, the register
otherwise. -/
def State.heldWord (s : State) (nm : RegName) (ix : List Nat) (home : Nat) : Word :=
  match nm, ix with
  | .rteCandlo, [d] => (s.ptePend d).1
  | .rteCandhi, [d] => (s.ptePend d).2.1
  | .rtePatlo, [d] => (s.ptePend d).2.2
  | _, _ => s.rd home

/-- The write is a privilege violation (R18). -/
def State.writeDenied (s : State) (rq : Req) (row : RegRow) (ix : List Nat) (home : Nat) (v : Word) : Bool :=
  let old := s.heldWord row.name ix home
  privViolation rq row.flds old v || s.chapterDenied rq row.name ix old v

/-- What a write that is neither denied nor discarded is answered: a refused doorbell or release (R175), a start that the host
asked for (R260), a scrub that the regions refuse (R161). -/
def State.writeRefused (s : State) (rq : Req) (nm : RegName) (ix : List Nat) (v : Word) : Option Told :=
  match nm, ix with
  | .memScrub, _ => if (s.scrubUnit rq v.toNat).2 then none else some .region
  | .bobDb, [k] => if (s.dbWrite k rq v).2 then none else some .refused
  | .drfGo, [e] =>
    match rq.who with
    | .host _ => if v.toNat % 2 = 1 && !(s.goWrite e rq).2 then some .refused else none
    | _ => none
  | _, _ => none

/-- What the access codes leave of a register (R16, R17): a W1C bit that hardware has set in this WCLK cycle ends set (R20). -/
def State.leftBy (s : State) (fl : List Field) (home : Nat) (old v : Word) : Word :=
  fl.foldl (fun w f => if f.acc = .w1c then setF w f.bits (getF w f.bits ||| getF (old &&& s.marked home) f.bits) else w)
    (merged fl old v)

/-- The W1S bits that a write of this WCLK cycle has set (R20). -/
def State.wroteW1s (s : State) (fl : List Field) (home : Nat) (v : Word) : State :=
  let m := v &&& wordOf (fieldMask (fl.filter fun f => f.acc = .w1s))
  if m = 0 then s else { s with swNow := tset s.swNow home (tget (fun _ => 0) s.swNow home ||| m) }

/-- The effect of a write that passed its checks. -/
def State.performed (s : State) (rq : Req) (row : RegRow) (ix : List Nat) (home : Nat) (old v : Word) : State :=
  (s.effect rq row.name ix home (s.leftBy row.flds home old v) v).wroteW1s row.flds home v

/-- A write of a register past the privilege check: reserved bits and encodings, then the effect. `a` is the address whose
unit's RSVD_WR a discarded write sets. -/
def State.regApply (s : State) (rq : Req) (row : RegRow) (ix : List Nat) (home a : Nat) (v : Word) : State × Told :=
  let old := s.heldWord row.name ix home
  if setsReserved row.flds v || s.encBad rq row.name ix old v then (s.rsvd a, .discarded)
  else
    match s.writeRefused rq row.name ix v with
    | some .region => (s, .region)
    | some t => (s.performed rq row ix home old v, t)
    | none => (s.performed rq row ix home old v, .done)

/-- A write of a register: privilege (R18), then the rest. -/
def State.regPut (s : State) (rq : Req) (row : RegRow) (ix : List Nat) (home a : Nat) (v : Word) : State × Told :=
  if s.writeDenied rq row ix home v then (s, .privilege) else s.regApply rq row ix home a v

/-- A write past the checks that its requester made before (R134): a thread's store when it leaves the store buffer. -/
def State.ctlApply (s : State) (rq : Req) (a : Nat) (v : Word) : State × Told :=
  match locate a with
  | none => if v = 0 then (s, .done) else (s.rsvd a, .discarded)
  | some (row, ix) => s.regApply rq row ix a a v

/-- The write is a privilege violation at its address. -/
def State.ctlDenied (s : State) (rq : Req) (a : Nat) (v : Word) : Bool :=
  match locate a with
  | none => false
  | some (row, ix) => s.writeDenied rq row ix a v

/-- A write of control space with every check. -/
def State.ctlWrite (s : State) (rq : Req) (a : Nat) (v : Word) : State × Told :=
  if !s.ctlGranted rq true a then (s, .region)
  else if s.ctlDenied rq a v then (s, .privilege)
  else s.ctlApply rq a v

/-! ### Reads -/

/-- WHL_TSTAT of a thread (R47). -/
def Wait.code : Wait → Nat
  | .none => 0
  | .event _ => 1
  | .chanSend _ => 2
  | .chanRecv _ _ => 3
  | .divide _ _ _ _ => 5
  | .storeSpace => 6
  | .fence => 6
  | _ => 4
def TState.code : TState → Nat
  | .halted => 0
  | .ready => 1
  | .waiting => 2
  | .stopped => 3
  | .faulted => 4
def Thread.tstat (th : Thread) : Word :=
  wordOf (th.turns.toNat * 2 ^ 16 + th.sbuf.length * 2 ^ 8 + (if th.state = .waiting then th.wait.code else 0) * 2 ^ 4 + th.state.code)

/-- A thread is blocked on a channel. -/
def State.blockedAt (s : State) (n ch : Nat) (send : Bool) : Bool :=
  s.anyThread n fun th => decide (th.state = .waiting) && th.blockedOn ch send

/-- WHL_CHSTS and WHL_XSTS (R54, R57): FILL, OPEN and the blocked flags beside the stored ones. -/
def State.chstsWord (s : State) (n c : Nat) : Word :=
  let w := s.rd (addrWhlChsts n c)
  wordOf (s.chFill n c + 8 * b2n (0 < (s.chSend n c).open_) + (getF w fldWhlChsts_ERR) * 16 + getF w fldWhlChsts_HF * 32 +
    64 * b2n (s.blockedAt n c true) + 128 * b2n (s.blockedAt n c false))
def State.xstsWord (s : State) (n x : Nat) : Word :=
  let w := s.rd (addrWhlXsts n x)
  let l := s.linked n x
  let snd := s.xSender n x
  let rcv := s.xReceiver n x
  wordOf ((if l then s.chFill n (64 + x) else 0) + 16 * b2n (l && 0 < (s.chSend n (64 + x)).open_) + getF w fldWhlXsts_ERR * 32 +
    getF w fldWhlXsts_HF * 64 + 128 * b2n (l && s.blockedAt snd.1 (64 + snd.2) true) +
    256 * b2n (l && s.blockedAt rcv.1 (64 + rcv.2) false) + 512 * b2n l)

/-- A word of the record at the head of a queue, 0 where it is empty (R135). -/
def headWord (l : List Note) (k : Nat) : Word := match l with | [] => 0 | r :: _ => r.word k

/-- Word `k` of held control cell `i` of a port (R226): header, whose byte 0 is bits [127:120] (R196), then payload. -/
def State.crxWord (s : State) (p i k : Nat) : Word :=
  let t := s.port p
  match t.crx[(i + 16 - t.crxHead) % 16]? with
  | none => 0
  | some c =>
    if k < 4 then wordOf (leBytes (((hdrBytes c.hdr).drop (4 * k)).take 4)) else wordOf (pWord c (4 * (k - 4)))

/-- A word of trace record `i`, oldest first (R473); 0 without a debug session (R395). -/
def State.traceWord (s : State) (i k : Nat) : Word :=
  match if s.dbg.isSome then s.trace[i]? else none with
  | none => 0
  | some r => match k with
    | 0 => r.src
    | 1 => r.dst
    | 2 => wordOf (r.cause * 256 + r.kind)
    | _ => r.tb

/-- The conflicts of word `w` (R372). -/
def State.conflWord (s : State) (w : Nat) : Word :=
  wordOf ((List.range 32).foldl (fun v b => if s.inConfl (32 * w + b) then v + 2 ^ b else v) 0)

/-- PIN_IN[w] (R368, R370): each pin's level, free where two outside levels meet. -/
def State.pinInWord (s : State) (w : Nat) : State × Word :=
  (List.range 32).foldl (fun (x : State × Word) b =>
    let (s, v) := x.1.pinSample (32 * w + b)
    (s, if v then x.2 ||| wordOf (2 ^ b) else x.2)) (s, 0)

/-- A reader sees the bits of a precise pin's queue and capture (R367). -/
def State.pinQueueSeen (s : State) (rq : Req) (i : Nat) : Bool := rq.sup || s.pinBitOk rq i

/-- A unit's register block is hidden from a Z-world reader while the unit is pinned (R301). -/
def State.plyHidden (s : State) (rq : Req) (nm : RegName) (ix : List Nat) : Bool :=
  let unit := nm = .plyCtl || nm = .plyOwn || nm = .plyStatus || nm = .plyDone || nm = .plyFdet || nm = .plyFaddr ||
    nm = .plyCmd || nm = .plyEvw || nm = .plyFence || nm = .plyCnt || nm = .plyCntclr
  unit && rq.z && s.on (addrPlyOwn (nth 0 ix 0)) fldPlyOwn_PIN

/-- The cells queued in a class at a port (R249). -/
def State.queueDepth (s : State) (p tc : Nat) : Nat := ((s.port p).q.filter fun c => cTC c.cell = tc).length

/-- A debug command is in progress: a stop that waits (R63, R470). -/
def State.dbgBusy (s : State) : Bool :=
  s.threads.any fun x => x.2.stopReq && (x.2.state = .ready || x.2.state = .waiting)

/-- The value of a register as a reader sees it, before the access codes: the computed ones, and the stored word. -/
def State.viewWord (s : State) (rq : Req) (nm : RegName) (ix : List Nat) (a : Nat) : State × Word :=
  match nm, ix with
  | .whlNote, [n, k] => (s, headWord (s.whl n).notes k)
  | .whlNotest, [n] => (s, setF (s.rd a) fldWhlNotest_COUNT (s.whl n).notes.length)
  | .whlEsc, [k] => (s, headWord s.escq k)
  | .whlEscst, _ => (s, setF (s.rd a) fldWhlEscst_COUNT s.escq.length)
  | .whlTstat, [n, t] => (s, (s.thr (32 * n + t)).tstat)
  | .whlEvpend, [n, t] => (s, s.lines (32 * n + t))
  | .whlChsts, [n, c] => (s, s.chstsWord n c)
  | .whlXsts, [n, x] => (s, s.xstsWord n x)
  | .lnkCrxst, [p] => (s, wordOf ((s.port p).crxHead * 256 + (s.port p).crx.length))
  | .lnkCrxbuf, [p, i, k] => (s, s.crxWord p i k)
  | .reelTq, [p, tc] => (s, wordOf (s.queueDepth p tc))
  | .tnsAgec, [p] => (s, wordOf (s.agec p))
  | .trdPlat, [w] => (s, s.platWord w)
  | .trdMat, [c, w] => (s, s.rd a &&& s.matMask rq.z c w)
  | .trdCcfg, [c] => (s, if rq.z && !s.colZ c then 0 else s.rd a)
  | .trdCst, [c] => (s, setF (s.rd a) fldTrdCst_HOLD (b2n (s.holdoff c)))
  | .pinOut, [w] => (s, s.rd a &&& s.pinMask rq w)
  | .pinIn, [w] => s.pinInWord w
  | .pinConfl, [w] => (s, s.conflWord w)
  | .pinTqst, [i] => (s, if s.pinQueueSeen rq i then s.rd a else 0)
  | .pinTcap, i :: _ => (s, if s.pinQueueSeen rq i then s.rd a else 0)
  | .hapIarm, [w] => (s, s.iarmWord w)
  | .pwrStatus, _ => (s, s.pwrStatusWord)
  | .dbgStatus, _ => (s, setF (s.rd a) fldDbgStatus_BUSY (b2n s.dbgBusy))
  | .dbgTrcst, _ => (s, setF (s.rd a) fldDbgTrcst_COUNT s.trace.length)
  | .dbgTrc0, [i] => (s, s.traceWord i 0)
  | .dbgTrc1, [i] => (s, s.traceWord i 1)
  | .dbgTrc2, [i] => (s, s.traceWord i 2)
  | .dbgTrc3, [i] => (s, s.traceWord i 3)
  | _, _ => (s, if s.plyHidden rq nm ix then 0 else s.rd a)

/-- A read of control space past its region check; an offset that holds no register reads 0 (R469). -/
def State.ctlRead (s : State) (rq : Req) (a : Nat) : State × Word :=
  match locate a with
  | none => (s, 0)
  | some (row, ix) =>
    let (s, w) := s.viewWord rq row.name ix a
    (s, readable row.flds w)

end Sys2Proof.Machine
end

