-- ==== Sys2Proof/Machine/System.lean ====
section
/-! DEFINITION. Special registers (R70 to R73), system calls and returns (R128 to R130), HALT and BRK (R46, R139), FENCE
(R45), illegal instructions (R117, R119), exception entry and asynchronous causes (R125, R126, R131, R132). -/

namespace Sys2Proof.Machine

/-- A special register that only a supervisor may name (R70). -/
def srSup (n : Nat) : Bool := (5 ≤ n && n ≤ 11) || n = 15

/-- The value of a 32-bit special register for the thread that reads it (R70, R124). -/
def State.srRead (s : State) (g : Nat) (n : Nat) : Word :=
  let th := s.thr g
  match n with
  | 0 => th.wordAddr
  | 1 => th.lk
  | 2 => th.st
  | 3 => th.fx
  | 4 => th.rc
  | 5 => th.epc
  | 6 => th.est
  | 7 => th.ecause
  | 8 => th.eaddr
  | 9 => s.vbase (g / 32) th.isZ
  | 10 => th.sentry
  | 11 => th.sstack
  | 12 => wordOf g
  | 13 => wordOf s.tb64
  | 14 => wordOf s.tbf
  | 15 => th.lse
  | 16 => wordOf th.hrs.length
  | _ => 0

/-- MFS (R70): a number from 17 on is a reserved value, and tb moves into a pair. -/
def execMfs (g : ThreadNo) (rd : Reg) (sr : Fin 32) (s : State) : Out :=
  .next (runOp g s fun th =>
    if sr.val = 13 ∧ !evenReg rd then .trap 1 5 th.wordAddr
    else if 17 ≤ sr.val then .trap 1 6 th.wordAddr
    else if srSup sr && !th.isSup then .trap 2 1 th.wordAddr
    else if sr.val = 13 then .done (th.setPair rd (BitVec.ofNat 64 s.tb64))
    else .done (th.set rd (s.srRead g sr)))

/-- The reserved bits of a special register (R71, R72, R73, R123). -/
def srReserved (n : Nat) : Nat :=
  match n with
  | 1 | 5 | 10 | 11 => 0x3
  | 2 | 6 => 0xFFFFFC00
  | 3 => 0xFFFFFFC8
  | 7 => 0x00FFFF40
  | 9 => 0xFF
  | _ => 0

/-- st after an MTS (R72): user level changes DZE, OVE, SAT, HT and HU only, and W never changes. -/
def stWrite (old new : Word) (sup : Bool) : Word :=
  let m : Word := if sup then 0x3FB else 0x1F0
  (old &&& ~~~ m) ||| (new &&& m)

/-- A special register written, without the checks (R70, R71, R124). -/
def State.srWrite (s : State) (g n : Nat) (v : Word) (sup : Bool) : State :=
  if n = 9 then
    if (s.thr g).isZ then s.modWhl (g / 32) fun w => { w with vbaseZ := v }
    else s.modWhl (g / 32) fun w => { w with vbaseS := v }
  else s.modThr g fun th =>
    match n with
    | 1 => { th with lk := v }
    | 2 => { th with st := stWrite th.st v sup }
    | 3 => { th with fx := v }
    | 4 => { th with rc := v }
    | 5 => { th with epc := v }
    | 6 => { th with est := v }
    | 7 => { th with ecause := v }
    | 8 => { th with eaddr := v }
    | 10 => { th with sentry := v }
    | 11 => { th with sstack := v }
    | 15 => { th with lse := v }
    | _ => th

/-- A special-register number that an MTS may name (R70). -/
def mtsOk (n : Nat) : Bool := n ≤ 15 && n ≠ 0 && n ≠ 12 && n ≠ 13 && n ≠ 14

/-- MTS (R70, R71, R72): a reserved bit leaves the register unchanged and sets RSVD_WR of the whorl. -/
def execMts (g : ThreadNo) (sr : Fin 32) (rs1 : Reg) (s : State) : Out :=
  let th := s.thr g
  if s.runs g then
    let v := th.get rs1
    if !mtsOk sr then .next (s.trap g 1 6 th.wordAddr)
    else if srSup sr && !th.isSup then .next (s.trap g 2 1 th.wordAddr)
    else
      let s := s.setThr g th.advance
      if v &&& wordOf (srReserved sr) ≠ 0 then .next (s.setFld (addrWhlStatus (g / 32)) fldWhlStatus_RSVD_WR 1)
      else .next (s.srWrite g sr v th.isSup)
  else .next s

/-- TBR (R103): one sample of fabric time, TB[47:0] and TBF. -/
def execTbr (g : ThreadNo) (rd : Reg) (s : State) : Out :=
  .next (runOp g s (withPairs [rd] fun th => .done (th.setPair rd (BitVec.ofNat 64 (s.tb64 % 2 ^ 48 * 2 ^ 16 + s.tbf)))))

/-- HALT (R46): the thread is HALTED at retirement. -/
def execHalt (g : ThreadNo) (s : State) : Out :=
  let th := s.thr g
  if s.runs g then .next ((s.setThr g { th.advance with state := .halted }).leaves g) else .next s

/-- BRK (R139): with BRKSTOP the thread stops at the BRK word, otherwise breakpoint, cause 12. -/
def execBrk (g : ThreadNo) (s : State) : Out :=
  let th := s.thr g
  if s.runs g then
    if s.on (addrWhlTexc (g / 32) (g % 32)) fldWhlTexc_BRKSTOP then
      .next ((s.setThr g { th with state := .stopped, issued := none }).leaves g)
    else .next (s.trap g 12 0 0)
  else .next s

/-- FENCE (R45, R94): completes when the store buffer is empty. -/
def execFence (g : ThreadNo) (s : State) : Out :=
  let th := s.thr g
  if s.runs g then
    if th.sbuf.isEmpty then .next (s.setThr g th.advance)
    else .next (s.setThr g { th with state := .waiting, wait := .fence, issued := none })
  else .next s

/-- The steps of the fast-path SCALL (R129). -/
def Thread.fastCall (th : Thread) : Thread :=
  let t := { th.swapStack with epc := th.wordAddr + 4, est := th.st, issued := none }
  { t with st := setOn (setOn t.st stLV) stIM, pc := th.sentry }

/-- SCALL (R129, R130): the fast path from user level, cause 11 at supervisor level. -/
def execScall (g : ThreadNo) (s : State) : Out :=
  let th := s.thr g
  if s.runs g then
    if th.isSup then .next (s.trap g 11 0 0)
    else .next ((s.setThr g th.fastCall).traced g 6 0 th.wordAddr th.sentry)
  else .next s

/-- SRET and ERET: supervisor only, else privilege, DETAIL 1 (R102, R128, R129). -/
def State.opReturn (s : State) (g kind : Nat) : State :=
  let th := s.thr g
  if s.runs g then
    if th.isSup then s.eret g kind else s.trap g 2 1 th.wordAddr
  else s

def execSret (g : ThreadNo) (s : State) : Out := .next (s.opReturn g 7)
def execEret (g : ThreadNo) (s : State) : Out := .next (s.opReturn g 5)

/-- EXCEPTION_ENTRY (R125, R126): the entry, once the thread has made its two entry turns. -/
def execExceptionEntry (g : ThreadNo) (s : State) : Out :=
  let th := s.thr g
  match th.state, th.entry with
  | .ready, some p => .next (if 2 ≤ p.turns then s.enter g p else s)
  | _, _ => .next s

/-- ASYNC_CAUSE_TAKEN (R131 to R133): the turn of a READY thread becomes its first entry turn; a thread WAITING in WFE, CHS, CHSE or
CHR becomes READY and takes the cause at its next turn, with epc at the waiting word, which has transferred and consumed nothing. -/
def execAsyncCauseTaken (g : ThreadNo) (s : State) : Out :=
  match s.asyncDue g, (s.thr g).state with
  | some c, .ready => let s := (s.countTurns g 1).active; .next (s.setThr g ((s.thr g).beginAsync c 1))
  | some c, _ => .next (s.setThr g ((s.thr g).beginAsync c 0))
  | none, _ => .next s

end Sys2Proof.Machine
end

