-- ==== Sys2Proof/Machine/Loads.lean ====
section
/-! DEFINITION. Loads and stores (R44, R45, R92 to R94), atomics (R95), HSPILL and HFILL (R88), pairs (R106 to R109), the repeat
prefix (R89, R90), the unit instructions (R110, R111) and the coprocessor words (R112, R113), each as its word issues. A far
access leaves its thread WAITING; its completion is a command of its own (Far.lean). -/

namespace Sys2Proof.Machine

/-! ### Loads and stores -/

/-- The bytes a load moves. -/
def LoadKind.size : LoadKind → Nat
  | .lb => 1
  | .lbu => 1
  | .lh => 2
  | .lhu => 2
  | .lw => 4
  | .ld => 8

/-- The register written by a load (R92): sign or zero extension, or a pair. -/
def Thread.loaded (th : Thread) (k : LoadKind) (rd : Reg) (d : List Byte) : Thread :=
  let v := leBytes d
  match k with
  | .lb => th.set rd (sxb (wordOf v))
  | .lbu => th.set rd (zxb (wordOf v))
  | .lh => th.set rd (sxh (wordOf v))
  | .lhu => th.set rd (zxh (wordOf v))
  | .lw => th.set rd (wordOf v)
  | .ld => th.setPair rd (BitVec.ofNat 64 v)

/-- The thread waits. -/
def Thread.waitFor (th : Thread) (w : Wait) : Thread := { th with state := .waiting, wait := w, issued := none }

/-- The thread's regions grant its access of `n` bytes. -/
def State.mayAccess (s : State) (g : Nat) (k : AccKind) (a n : Nat) : Bool :=
  s.grantedAll (g / 32) (s.thr g).isZ (s.thr g).isSup k a n

/-- The number of the next far request of a whorl's threads (R149), and the count advanced. -/
def State.nextReq (s : State) (n : Nat) : Nat × State := ((s.whl n).issued, s.modWhl n fun w => { w with issued := w.issued + 1 })

/-- A thread waits for a load or an atomic, numbered among its whorl's requests (R149). -/
def State.waitFar (s : State) (g : Nat) (w : Wait) : State :=
  let (k, s) := s.nextReq (g / 32)
  s.setThr g { (s.thr g).waitFor w with farAt := k }

/-- A load issues (R92, R93): a repetition outside the own lap, alignment, the map and the regions; an access to the own lap
completes at once, any other waits. -/
def State.load (s : State) (g : Nat) (k : LoadKind) (rd : Reg) (a : Word) : State :=
  let th := s.thr g
  let n := k.size
  let fault := s.trap g 4 0 a
  if th.rep.isSome ∧ 0x100000 ≤ a.toNat then s.trap g 18 0 a
  else if a.toNat % n ≠ 0 then s.trap g 3 0 a
  else match threadMap (g / 32) th.isZ th.isSup a.toNat with
    | .ownLap blk =>
      if s.mayAccess g .read a.toNat n then
        match s.memRead (g / 32) blk n with
        | (s, some d) => s.setThr g (th.loaded k rd d).advance
        | (s, none) => s.trap g 14 0 a
      else fault
    | .memory _ => if s.mayAccess g .read a.toNat n then s.waitFar g (.load k a 0 rd none) else fault
    | .control _ =>
      if k = .lw ∧ s.mayAccess g .read a.toNat n then s.waitFar g (.load k a 0 rd none) else fault
    | .window _ =>
      match s.winAddr a.toNat with
      | some h => if s.mayAccess g .read a.toNat n then s.waitFar g (.load k a h rd none) else fault
      | none => fault
    | .unmapped => fault

/-- A far store takes a store-buffer entry, or waits for one (R45). -/
def State.pushStore (s : State) (g : Nat) (e : SbEntry) : State :=
  let th := s.thr g
  if 4 ≤ th.sbuf.length then s.setThr g (th.waitFor .storeSpace)
  else
    let (k, s) := s.nextReq (g / 32)
    s.setThr g { th with sbuf := th.sbuf ++ [e], stamps := th.stamps ++ [k] }.advance

/-- A store to control space past its privilege check issues (R134, R161, R468): the regions, and a scrub's own check. -/
def State.storeCtl (s : State) (g : ThreadNo) (a : Word) (v : Word) : State :=
  let rq := s.reqOf g
  if !s.ctlGranted rq true a.toNat then s.trap g 5 0 a
  else if a.toNat = addrMemScrub ∧ inStore v.toNat ∧ v.toNat % 4 = 0 ∧ !(s.scrubUnit rq v.toNat).2 then s.trap g 5 0 v
  else s.pushStore g (.ctl a { rq with checked := true } v)

/-- A store of some bytes issues; of several causes it reports the first in the order of R118: the privilege of a register write,
repeat misuse, alignment, the map and the regions. -/
def State.store (s : State) (g : ThreadNo) (a : Word) (d : List Byte) : State :=
  let th := s.thr g
  let n := d.length
  let fault := s.trap g 5 0 a
  if n = 4 ∧ inCtl a.toNat ∧ s.ctlDenied (s.reqOf g) (a.toNat / 4 * 4) (wordOf (leBytes d)) then s.trap g 2 2 a
  else if th.rep.isSome ∧ 0x100000 ≤ a.toNat then s.trap g 18 0 a
  else if a.toNat % n ≠ 0 then s.trap g 3 0 a
  else match threadMap (g / 32) th.isZ th.isSup a.toNat with
    | .ownLap blk =>
      if s.mayAccess g .write a.toNat n then
        match s.memWrite (g / 32) blk d with
        | (s, true) => s.setThr g th.advance
        | (s, false) => s.trap g 14 0 a
      else fault
    | .memory blk => if s.mayAccess g .write a.toNat n then s.pushStore g (.mem a blk d) else fault
    | .control _ => if n = 4 then s.storeCtl g a (wordOf (leBytes d)) else fault
    | .window _ =>
      match s.winAddr a.toNat with
      | some h => if s.mayAccess g .write a.toNat n then s.pushStore g (.hostWin a h d) else fault
      | none => fault
    | .unmapped => fault

/-- A word that may issue now, else no effect (log 2). -/
def State.issue (s : State) (g : Nat) (f : Thread → State) : State := if s.runs g then f (s.thr g) else s

/-- LB, LBU, LH, LHU, LW, LD at rs1 + imm15. -/
def State.opLoad (s : State) (g : Nat) (k : LoadKind) (rd rs1 : Reg) (imm : BitVec 15) : State :=
  s.issue g fun th =>
    if k = .ld ∧ !evenReg rd then s.trap g 1 5 th.wordAddr else s.load g k rd (th.effAddr rs1 imm)

/-- SB, SH, SW at rs1 + imm15: the low bytes of rd. -/
def State.opStore (s : State) (g : ThreadNo) (n : Nat) (rd rs1 : Reg) (imm : BitVec 15) : State :=
  s.issue g fun th => s.store g (th.effAddr rs1 imm) (bytesLE n (th.get rd).toNat)

def execLb (g : ThreadNo) (rd rs1 : Reg) (imm : BitVec 15) (s : State) : Out := .next (s.opLoad g .lb rd rs1 imm)
def execLbu (g : ThreadNo) (rd rs1 : Reg) (imm : BitVec 15) (s : State) : Out := .next (s.opLoad g .lbu rd rs1 imm)
def execLh (g : ThreadNo) (rd rs1 : Reg) (imm : BitVec 15) (s : State) : Out := .next (s.opLoad g .lh rd rs1 imm)
def execLhu (g : ThreadNo) (rd rs1 : Reg) (imm : BitVec 15) (s : State) : Out := .next (s.opLoad g .lhu rd rs1 imm)
def execLw (g : ThreadNo) (rd rs1 : Reg) (imm : BitVec 15) (s : State) : Out := .next (s.opLoad g .lw rd rs1 imm)
def execLd (g : ThreadNo) (rd rs1 : Reg) (imm : BitVec 15) (s : State) : Out := .next (s.opLoad g .ld rd rs1 imm)
def execSb (g : ThreadNo) (rd rs1 : Reg) (imm : BitVec 15) (s : State) : Out := .next (s.opStore g 1 rd rs1 imm)
def execSh (g : ThreadNo) (rd rs1 : Reg) (imm : BitVec 15) (s : State) : Out := .next (s.opStore g 2 rd rs1 imm)
def execSw (g : ThreadNo) (rd rs1 : Reg) (imm : BitVec 15) (s : State) : Out := .next (s.opStore g 4 rd rs1 imm)
def execSd (g : ThreadNo) (rd rs1 : Reg) (imm : BitVec 15) (s : State) : Out :=
  .next (s.issue g fun th =>
    if !evenReg rd then s.trap g 1 5 th.wordAddr
    else s.store g (th.effAddr rs1 imm) (bytesLE 8 (th.getPair rd).toNat))

/-! ### Atomics (R95) -/

/-- An atomic issues: alignment, no host window, control space or spool view, the regions; then the thread waits. -/
def State.opAtomic (s : State) (g : Nat) (op : AtomicOp) (rd rs1 rs2 : Reg) : State :=
  s.issue g fun th =>
    let a := th.get rs1
    let fault := s.trap g 5 0 a
    let go := fun (_ : Unit) =>
      if s.mayAccess g .atomic a.toNat 4 then s.waitFar g (.atomic op a rd (th.get rs2) (th.get rd)) else fault
    if a.toNat % 4 ≠ 0 then s.trap g 3 0 a
    else match threadMap (g / 32) th.isZ th.isSup a.toNat with
      | .ownLap _ => go ()
      | .memory blk => if inSpool blk then fault else go ()
      | _ => fault

def execAmadd (g : ThreadNo) (rd rs1 rs2 : Reg) (s : State) : Out := .next (s.opAtomic g .amadd rd rs1 rs2)
def execAmswap (g : ThreadNo) (rd rs1 rs2 : Reg) (s : State) : Out := .next (s.opAtomic g .amswap rd rs1 rs2)
def execAmcas (g : ThreadNo) (rd rs1 rs2 : Reg) (s : State) : Out := .next (s.opAtomic g .amcas rd rs1 rs2)

/-! ### The return stack spilled and filled (R88): words of five turns (R114) -/

/-- The 40 bytes that HSPILL stores. -/
def hrsBytes (l : List Word) : List Byte :=
  bytesLE 4 (l.length) ++ bytesLE 4 0 ++ (padTo 8 0 l).flatMap fun w => bytesLE 4 w.toNat

/-- The return stack that HFILL loads: the depth limited to 8, bits [1:0] of each entry cleared. -/
def hrsOf (d : List Byte) : List Word :=
  let n := min 8 (leBytes (d.take 4) % 16)
  (List.range n).map fun i => wordOf (leBytes ((d.drop (8 + 4 * i)).take 4) / 4 * 4)

def execHspill (g : ThreadNo) (rs1 : Reg) (s : State) : Out :=
  .next (s.issue g fun th =>
    let a := th.get rs1
    if a.toNat % 8 ≠ 0 then s.trap g 3 0 a
    else if 0x100000 < a.toNat + 40 ∨ !s.mayAccess g .write a.toNat 40 then s.trap g 5 0 a
    else (s.memWrite (g / 32) (lapBlk (g / 32) a.toNat) (hrsBytes th.hrs)).1.setThr g { th with hrs := [], owed := 4 }.advance)

def execHfill (g : ThreadNo) (rs1 : Reg) (s : State) : Out :=
  .next (s.issue g fun th =>
    let a := th.get rs1
    if a.toNat % 8 ≠ 0 then s.trap g 3 0 a
    else if 0x100000 < a.toNat + 40 ∨ !s.mayAccess g .read a.toNat 40 then s.trap g 4 0 a
    else match s.memRead (g / 32) (lapBlk (g / 32) a.toNat) 40 with
      | (s, some d) => s.setThr g { th with hrs := hrsOf d, owed := 4 }.advance
      | (s, none) => s.trap g 14 0 a)

/-! ### Pairs (R106 to R109) -/

/-- A short register field names w0 to w15. -/
def sreg (r : Fin 16) : Reg := ⟨r.val, by omega⟩

/-- k4, ks and kl of R106. -/
def k4 (k : Nat) : Word := nth 1 [1, 2, 4, 8] k
def ks (k : Nat) : Nat := nth 1 [1, 8, 16, 31] k
def kl (k : Nat) : Nat := nth 1 [1, 2, 8, 16] k

/-- A short operation that touches no memory (R106), on the registers as the pair finds them. -/
def shortOp (o : ShortOp) (th : Thread) : Res :=
  let d := sreg o.rd
  let r := sreg o.rs
  let k := o.sub.val
  let acc : Acc := o.sub
  match o.op.val with
  | 0x00 => .done th
  | 0x01 => .done (th.set d (th.get r))
  | 0x02 => opBin (· + ·) d d r th
  | 0x03 => opBin (· - ·) d d r th
  | 0x04 => opChk d ((th.get d).toInt + (th.get r).toInt) th
  | 0x05 => opChk d ((th.get d).toInt - (th.get r).toInt) th
  | 0x06 => opBin (· &&& ·) d d r th
  | 0x07 => opBin (· ||| ·) d d r th
  | 0x08 => opBin (· ^^^ ·) d d r th
  | 0x09 => opBin shlW d d r th
  | 0x0A => opBin shrW d d r th
  | 0x0B => opBin sraW d d r th
  | 0x0C => .done (th.set d (th.get r <<< kl k))
  | 0x0D => .done (th.set d (th.get r >>> ks k))
  | 0x0E => .done (th.set d ((th.get r).sshiftRight (ks k)))
  | 0x0F => .done (th.set d (th.get r + k4 k))
  | 0x10 => .done (th.set d (th.get r - k4 k))
  | 0x11 => .done (th.set d (wordOf (16 * k + o.rs.val)))
  | 0x12 => opBin (fun a b => relWord (nth relEq [relEq, relNe, relLt, relLtu] k a b)) d d r th
  | 0x13 => .done (th.set d (relWord (nth relEq [relEq, relNe, relLt, relLe] k (th.get r) 0)))
  | 0x14 => .done (th.set d (nth sxb [sxb, sxh, zxb, zxh] k (th.get r)))
  | 0x15 => opChk d (sprod d r th) th
  | 0x16 => opBin (· * ·) d d r th
  | 0x17 => opAcc acc (sprod d r) th
  | 0x18 => opAcc acc (fun th => -sprod d r th) th
  | 0x19 => opAcc acc (uprod d r) th
  | 0x1A => opAcc acc (fun th => 2 * sprod d r th) th
  | 0x1B => opAcc acc (fun th => -(2 * sprod d r th)) th
  | 0x1C => opAcc acc (lprod d r) th
  | 0x1D => .done (th.setAcc acc 0)
  | _ => .done th

/-- LWS and SWS (R109): the address, its alignment, the own lap and the regions. -/
def State.shortMem (s : State) (g : Nat) (o : ShortOp) : State × Res :=
  let th := s.thr g
  let a := th.get (sreg o.rs) + 4 * wordOf o.sub.val
  let st := o.op.val = 0x1F
  let code := if st then 5 else 4
  if th.rep.isSome ∧ 0x100000 ≤ a.toNat then (s, .trap 18 0 a)
  else if a.toNat % 4 ≠ 0 then (s, .trap 3 0 a)
  else if 0x100000 ≤ a.toNat ∨ !s.mayAccess g (if st then .write else .read) a.toNat 4 then (s, .trap code 0 a)
  else if st then
    match s.memWrite (g / 32) (lapBlk (g / 32) a.toNat) (bytesLE 4 (th.get (sreg o.rd)).toNat) with
    | (s, true) => (s, .done th)
    | (s, false) => (s, .trap 14 0 a)
  else match s.memRead (g / 32) (lapBlk (g / 32) a.toNat) 4 with
    | (s, some d) => (s, .done (th.loaded .lw (sreg o.rd) d))
    | (s, none) => (s, .trap 14 0 a)

/-- One short operation of a pair. -/
def State.shortRun (s : State) (g : Nat) (o : ShortOp) : State × Res :=
  if o.isMem then s.shortMem g o else (s, shortOp o (s.thr g))

/-- The second operation's result laid over the first's: the register and the accumulator that it writes, and its flags. -/
def Thread.overlay (t u : Thread) (o : ShortOp) : Thread :=
  let t := match o.writes with
    | some r => t.set (sreg r) (u.get (sreg r))
    | none => t
  let t := match o.accW with
    | some a => t.setAcc a u.a[a]
    | none => t
  { t with fx := t.fx ||| u.fx }

/-- The error counts and logs that a read of memory left, without the stores of a pair that takes a cause. -/
def State.undone (s t : State) : State := { t with mem := s.mem, syn := s.syn }

/-- A pair (R107, R108): its legality, both operations on the registers as they were, and neither's effect when either raises a
cause. -/
def execPair (g : ThreadNo) (a b : ShortOp) (s : State) : Out :=
  .next (s.issue g fun th =>
    match pairCheck a b with
    | some e => s.trap g 1 e.detail th.wordAddr
    | none =>
      match s.shortRun g a with
      | (s1, .done t) =>
        match s1.shortRun g b with
        | (s2, .done u) => s2.setThr g (t.overlay u b).advance
        | (s2, .trap c d e) => (s.undone s2).trap g c d e
        | (s2, .goto _ _ _) => s.undone s2
      | (s1, .trap c d e) => (s.undone s1).trap g c d e
      | (s1, .goto _ _ _) => s.undone s1)

/-! ### The repeat prefix (R89, R90, R104) -/

/-- A word that REP may not repeat (R90). -/
def notRepeatable : Instr → Bool
  | .bz _ _ _ => true
  | .bnz _ _ _ => true
  | .j _ _ => true
  | .jr _ _ => true
  | .call _ _ => true
  | .callr _ _ => true
  | .ret _ => true
  | .scall _ => true
  | .sret _ => true
  | .eret _ => true
  | .rep _ _ _ _ => true
  | .wfe _ _ _ => true
  | .halt _ => true
  | .brk _ => true
  | .div _ _ _ _ => true
  | .divu _ _ _ _ => true
  | .rem _ _ _ _ => true
  | .chs _ _ _ => true
  | .chse _ _ _ => true
  | .chr _ _ _ => true
  | .amadd _ _ _ _ => true
  | .amswap _ _ _ _ => true
  | .amcas _ _ _ _ => true
  | .fence _ => true
  | .hspill _ _ => true
  | .hfill _ _ => true
  | .mts _ sr _ => sr = 2 || sr = 4
  | _ => false

/-- The CXP port of a major is enabled (R425). -/
def State.cxpOn (s : State) (j : Fin 4) : Bool := s.on (addrCxpCfg j) fldCxpCfg_EN

/-- The word that REP is about to repeat is one that it may not; a word that cannot be fetched or is illegal shows itself at its
first execution (R105). -/
def State.repBad (s : State) (g : ThreadNo) : Bool :=
  match s.fetch g ((s.thr g).pc + 4) with
  | (_, .ok w) =>
    match decodeWord g s.cxpOn w.toNat with
    | .ok i => notRepeatable i
    | .bad _ => false
  | (_, .error _) => false

/-- REP (R89, R90, R104). A count of 0 skips the next word whatever that word is (DESIGN CHOICE, log 96). -/
def execRep (g : ThreadNo) (intr : Bool) (reg : Option Reg) (imm : Fin 4096) (s : State) : Out :=
  .next (s.issue g fun th =>
    if th.rep.isSome then s.trap g 18 0 0
    else
      let cnt := if th.rc ≠ 0 then th.rc.toNat else match reg with
        | some r => (th.get r).toNat
        | none => imm.val + 1
      if (if intr then 4096 else 64) < cnt then s.trap g 18 0 0
      else if cnt = 0 then s.setThr g { th with pc := th.pc + 8, issued := none }
      else if s.repBad g then s.trap g 18 0 0
      else s.setThr g { th with rc := wordOf cnt, rep := some intr, repNew := true, issued := none })

/-! ### Unit instructions (R110, R111) -/

/-- A far unit instruction issues: its thread waits. -/
def State.startUnit (s : State) (g : Nat) (op : UnitOp) (rd : Reg) (a b : Word) : State :=
  s.setThr g ((s.thr g).waitFor (.unit op rd a b))

/-- BDB (R111, R174): its faults at issue, then a store-buffer entry. -/
def execBdb (g : ThreadNo) (rs1 rs2 : Reg) (s : State) : Out :=
  .next (s.issue g fun th =>
    match s.bdbFault g (th.get rs1) (th.get rs2) with
    | some d => s.trap g 16 d (wordOf ((th.get rs1).toNat % 65536))
    | none => s.pushStore g (.doorbell ((th.get rs1).toNat % 65536) (th.get rs2).toNat))

/-- BPOP: rs1[16] selects the release form, which is a command of its own. -/
def execBpop (g : ThreadNo) (rd rs1 : Reg) (s : State) : Out :=
  .next (s.issue g fun th => if (th.get rs1).toNat.testBit 16 then s else s.startUnit g .bpop rd (th.get rs1) 0)
def execBpopRelease (g : ThreadNo) (rd rs1 : Reg) (s : State) : Out :=
  .next (s.issue g fun th => if (th.get rs1).toNat.testBit 16 then s.startUnit g .bpop rd (th.get rs1) 0 else s)
def execBalloc (g : ThreadNo) (rd rs1 : Reg) (s : State) : Out :=
  .next (s.issue g fun th => s.startUnit g .balloc rd (th.get rs1) 0)
def execBfree (g : ThreadNo) (rs1 : Reg) (s : State) : Out :=
  .next (s.issue g fun th => s.startUnit g .bfree 0 (th.get rs1) 0)
def execBcrd (g : ThreadNo) (rd rs1 rs2 : Reg) (s : State) : Out :=
  .next (s.issue g fun th => s.startUnit g .bcrd rd (th.get rs1) (th.get rs2))

/-- DRGO, PLYGO and SKN (R259, R282, R318): an operand that the thread may not name raises privilege, DETAIL 3. -/
def execDrgo (g : ThreadNo) (rd rs1 rs2 : Reg) (s : State) : Out :=
  .next (s.issue g fun th =>
    if s.drgoDenied g (th.get rs1) then s.trap g 2 3 th.wordAddr else s.startUnit g .drgo rd (th.get rs1) (th.get rs2))

/-- PLYGO with the operation that rs2[2:0] must spell; the reserved operations 4 to 7 issue by any of the commands. -/
def State.opPlygo (s : State) (g : Nat) (op : Nat) (rd rs1 rs2 : Reg) : State :=
  s.issue g fun th =>
    let k := (th.get rs2).toNat % 8
    if k = op ∨ 4 ≤ k then
      if s.plygoDenied g (th.get rs1) (th.get rs2) then s.trap g 2 3 th.wordAddr
      else s.startUnit g .plygo rd (th.get rs1) (th.get rs2)
    else s
def execPlygoPass (g : ThreadNo) (rd rs1 rs2 : Reg) (s : State) : Out := .next (s.opPlygo g 0 rd rs1 rs2)
def execPlygoPost (g : ThreadNo) (rd rs1 rs2 : Reg) (s : State) : Out := .next (s.opPlygo g 1 rd rs1 rs2)
def execPlygoArm (g : ThreadNo) (rd rs1 rs2 : Reg) (s : State) : Out := .next (s.opPlygo g 2 rd rs1 rs2)
def execPlygoAbort (g : ThreadNo) (rd rs1 rs2 : Reg) (s : State) : Out := .next (s.opPlygo g 3 rd rs1 rs2)

/-- SKN with the operation that rs2[3:0] must spell; the reserved operations 5 to 15 issue by any of the commands. -/
def State.opSkn (s : State) (g : Nat) (op : Nat) (rd rs1 rs2 : Reg) : State :=
  s.issue g fun th =>
    let k := (th.get rs2).toNat % 16
    if k = op ∨ 5 ≤ k then
      if s.sknDenied g (th.get rs1) (th.get rs2) then s.trap g 2 3 th.wordAddr
      else s.startUnit g .skn rd (th.get rs1) (th.get rs2)
    else s
def execSknOpen (g : ThreadNo) (rd rs1 rs2 : Reg) (s : State) : Out := .next (s.opSkn g 0 rd rs1 rs2)
def execSknEnter (g : ThreadNo) (rd rs1 rs2 : Reg) (s : State) : Out := .next (s.opSkn g 1 rd rs1 rs2)
def execSknSnap (g : ThreadNo) (rd rs1 rs2 : Reg) (s : State) : Out := .next (s.opSkn g 2 rd rs1 rs2)
def execSknDrain (g : ThreadNo) (rd rs1 rs2 : Reg) (s : State) : Out := .next (s.opSkn g 3 rd rs1 rs2)
def execSknClose (g : ThreadNo) (rd rs1 rs2 : Reg) (s : State) : Out := .next (s.opSkn g 4 rd rs1 rs2)

/-- TRF (R357): the software producer rs1[5:0] fires at once. -/
def execTrf (g : ThreadNo) (rs1 : Reg) (s : State) : Out :=
  .next (s.issue g fun th =>
    let p := (th.get rs1).toNat % 64
    if s.rowZ p != th.isZ then s.trap g 2 3 th.wordAddr else (s.setThr g th.advance).fireProd p)

/-- PINW, PINR (R367, R370). -/
def execPinw (g : ThreadNo) (rs1 rs2 : Reg) (s : State) : Out :=
  .next (s.issue g fun th =>
    let i := (th.get rs1).toNat % 128
    if !s.pinThreadOk g i then s.trap g 2 3 th.wordAddr
    else (s.setThr g th.advance).pinLevel i ((th.get rs2).toNat % 2 = 1))
def execPinr (g : ThreadNo) (rd rs1 : Reg) (s : State) : Out :=
  .next (s.issue g fun th =>
    let i := (th.get rs1).toNat % 128
    if !s.pinThreadOk g i then s.trap g 2 3 th.wordAddr
    else
      let (s, v) := s.pinSample i
      s.setThr g (th.set rd (relWord v)).advance)

/-- PINT (R374): a timed edge queued, or a wait for an entry. -/
def execPint (g : ThreadNo) (rs1 rs2 : Reg) (s : State) : Out :=
  .next (s.issue g fun th =>
    let i := (th.get rs1).toNat % 128
    if !evenReg rs2 then s.trap g 1 5 th.wordAddr
    else if 16 ≤ i ∨ !s.pinThreadOk g i then s.trap g 2 3 th.wordAddr
    else if 4 ≤ (s.pin i).edges.length then s.setThr g (th.waitFor (.pinQueue i))
    else (s.setThr g th.advance).queueEdge i ((th.get rs1).toNat.testBit 8) (th.getPair rs2).toNat)

/-! ### Coprocessor words (R112, R113, R424, R425) -/

/-- CXP0 to CXP3: a request on the port, and the thread waits for its response. -/
def execCxp (g : ThreadNo) (port : Fin 4) (rd rs1 rs2 : Reg) (fn : Fin 1024) (s : State) : Out :=
  .next (s.issue g fun th =>
    if !s.cxpOn port then s.trap g 1 2 th.wordAddr
    else if th.isZ && !s.on (addrCxpCfg port) fldCxpCfg_ZOK then s.trap g 2 3 th.wordAddr
    else
      let r : CxpReq :=
        { whorl := g / 32, maj := port, fn := fn, a := th.get rs1, b := th.get rs2, thr := g % 32, z := th.isZ, lv := th.isSup }
      { s with cxpOut := s.cxpOut ++ [r] }.setThr g (th.waitFor (.cxp port rd)))

/-- CXP_RESPONSE (R424, R425): rd is written; a response that no word awaits is discarded and counted. -/
def execCxpResponse (g : ThreadNo) (val : Word) (s : State) : Out :=
  let th := s.thr g
  match th.wait with
  | .cxp _ rd => .next ((s.setThr g (th.set rd val).complete).settle g)
  | _ => .next (s.bump addrCxpCnt fldCxpCnt_COUNT)

/-- CXP_TIMEOUT (R113, R46): cause 17, or none where a halt waits for the word. -/
def execCxpTimeout (g : ThreadNo) (s : State) : Out :=
  let th := s.thr g
  match th.wait with
  | .cxp _ _ => if th.haltReq then .next ((s.setThr g th.complete).settle g) else .next (s.trap g 17 0 0)
  | _ => .next s

end Sys2Proof.Machine
end

