-- ==== Sys2Proof/Machine/Issue.lean ====
section
/-! DEFINITION. An instruction word executed by its bits (R96, R117), for the debug unit's single step and for an illegal word's
trap: the decoder's command, run by its own meaning. -/

namespace Sys2Proof.Machine

/-- The state that a meaning answers; the state before it where it answers none. -/
def outOr (o : Out) (s : State) : State :=
  match o with
  | .next t => t
  | _ => s

/-- The meaning of a word that works on its thread's registers, by majors 0x00 to 0x04 and 0x08 to 0x17. -/
def runAlu (i : Instr) (s : State) : Option Out :=
  match i with
  | .add g a b c => some (execAdd g a b c s)
  | .addu g a b c => some (execAddu g a b c s)
  | .sub g a b c => some (execSub g a b c s)
  | .subu g a b c => some (execSubu g a b c s)
  | .neg g a b => some (execNeg g a b s)
  | .and g a b c => some (execAnd g a b c s)
  | .or g a b c => some (execOr g a b c s)
  | .xor g a b c => some (execXor g a b c s)
  | .shl g a b c => some (execShl g a b c s)
  | .shr g a b c => some (execShr g a b c s)
  | .sra g a b c => some (execSra g a b c s)
  | .sxb g a b => some (execSxb g a b s)
  | .sxh g a b => some (execSxh g a b s)
  | .zxb g a b => some (execZxb g a b s)
  | .zxh g a b => some (execZxh g a b s)
  | .ceq g a b c => some (execCeq g a b c s)
  | .cne g a b c => some (execCne g a b c s)
  | .clt g a b c => some (execClt g a b c s)
  | .cltu g a b c => some (execCltu g a b c s)
  | .cle g a b c => some (execCle g a b c s)
  | .cleu g a b c => some (execCleu g a b c s)
  | .addd g a b c => some (execAddd g a b c s)
  | .subd g a b c => some (execSubd g a b c s)
  | .mul g a b c => some (execMul g a b c s)
  | .mulu g a b c => some (execMulu g a b c s)
  | .mulh g a b c => some (execMulh g a b c s)
  | .mulhu g a b c => some (execMulhu g a b c s)
  | .mulw g a b c => some (execMulw g a b c s)
  | .mulwu g a b c => some (execMulwu g a b c s)
  | .div g a b c => some (execDiv g a b c s)
  | .divu g a b c => some (execDivu g a b c s)
  | .rem g a b c => some (execRem g a b c s)
  | .addq g a b c sat => some (execAddq g a b c sat s)
  | .subq g a b c sat => some (execSubq g a b c sat s)
  | .mulq g a b c sat => some (execMulq g a b c sat s)
  | .addp g a b c sat => some (execAddp g a b c sat s)
  | .subp g a b c sat => some (execSubp g a b c sat s)
  | .mulp g a b c sat => some (execMulp g a b c sat s)
  | .aclr g a => some (execAclr g a s)
  | .amov g a b => some (execAmov g a b s)
  | .maci g a b c => some (execMaci g a b c s)
  | .msui g a b c => some (execMsui g a b c s)
  | .macu g a b c => some (execMacu g a b c s)
  | .macq g a b c => some (execMacq g a b c s)
  | .msuq g a b c => some (execMsuq g a b c s)
  | .macp g a b c => some (execMacp g a b c s)
  | .ash g a k => some (execAsh g a k s)
  | .extq g a b sat => some (execExtq g a b sat s)
  | .exth g a b sat => some (execExth g a b sat s)
  | .axl g a b => some (execAxl g a b s)
  | .axh g a b => some (execAxh g a b s)
  | .axg g a b => some (execAxg g a b s)
  | .asat g a b sat => some (execAsat g a b sat s)
  | .addi g a b k => some (execAddi g a b k s)
  | .addiu g a b k => some (execAddiu g a b k s)
  | .andi g a b k => some (execAndi g a b k s)
  | .ori g a b k => some (execOri g a b k s)
  | .xori g a b k => some (execXori g a b k s)
  | .shli g a b k => some (execShli g a b k s)
  | .shri g a b k => some (execShri g a b k s)
  | .srai g a b k => some (execSrai g a b k s)
  | .ceqi g a b k => some (execCeqi g a b k s)
  | .cnei g a b k => some (execCnei g a b k s)
  | .clti g a b k => some (execClti g a b k s)
  | .cltui g a b k => some (execCltui g a b k s)
  | .clei g a b k => some (execClei g a b k s)
  | .cleui g a b k => some (execCleui g a b k s)
  | .li g a k => some (execLi g a k s)
  | .lui g a k => some (execLui g a k s)
  | _ => none

/-- The meaning of any other word: control, system, memory, units, coprocessors. BPOP, PLYGO and SKN take their form from the
register that holds it. -/
def runOther (i : Instr) (s : State) : Option Out :=
  match i with
  | .pair g a b => some (execPair g a b s)
  | .mfs g a b => some (execMfs g a b s)
  | .mts g a b => some (execMts g a b s)
  | .wfe g a b => some (execWfe g a b s)
  | .sev g a => some (execSev g a s)
  | .halt g => some (execHalt g s)
  | .brk g => some (execBrk g s)
  | .tbr g a => some (execTbr g a s)
  | .fence g => some (execFence g s)
  | .scall g => some (execScall g s)
  | .sret g => some (execSret g s)
  | .eret g => some (execEret g s)
  | .hspill g a => some (execHspill g a s)
  | .hfill g a => some (execHfill g a s)
  | .jr g a => some (execJr g a s)
  | .callr g a => some (execCallr g a s)
  | .ret g => some (execRet g s)
  | .lb g a b k => some (execLb g a b k s)
  | .lbu g a b k => some (execLbu g a b k s)
  | .lh g a b k => some (execLh g a b k s)
  | .lhu g a b k => some (execLhu g a b k s)
  | .lw g a b k => some (execLw g a b k s)
  | .ld g a b k => some (execLd g a b k s)
  | .sb g a b k => some (execSb g a b k s)
  | .sh g a b k => some (execSh g a b k s)
  | .sw g a b k => some (execSw g a b k s)
  | .sd g a b k => some (execSd g a b k s)
  | .amadd g a b c => some (execAmadd g a b c s)
  | .amswap g a b c => some (execAmswap g a b c s)
  | .amcas g a b c => some (execAmcas g a b c s)
  | .rep g f r k => some (execRep g f r k s)
  | .bz g a k => some (execBz g a k s)
  | .bnz g a k => some (execBnz g a k s)
  | .j g k => some (execJ g k s)
  | .call g k => some (execCall g k s)
  | .chs g a b => some (execChs g a b s)
  | .chse g a b => some (execChse g a b s)
  | .chr g a b => some (execChr g a b s)
  | .chts g a b c f => some (execChts g a b c f s)
  | .chtr g a b => some (execChtr g a b s)
  | .chst g a b => some (execChst g a b s)
  | .bdb g a b => some (execBdb g a b s)
  | .bpop g a b =>
    some (if ((s.thr g).get b).toNat.testBit 16 then execBpopRelease g a b s else execBpop g a b s)
  | .balloc g a b => some (execBalloc g a b s)
  | .bfree g a => some (execBfree g a s)
  | .bcrd g a b c => some (execBcrd g a b c s)
  | .drgo g a b c => some (execDrgo g a b c s)
  | .plygoPass g a b c => some (.next (s.opPlygo g (((s.thr g).get c).toNat % 8) a b c))
  | .sknOpen g a b c => some (.next (s.opSkn g (((s.thr g).get c).toNat % 16) a b c))
  | .trf g a => some (execTrf g a s)
  | .pinw g a b => some (execPinw g a b s)
  | .pinr g a b => some (execPinr g a b s)
  | .pint g a b => some (execPint g a b s)
  | .cxp g p a b c k => some (execCxp g p a b c k s)
  | _ => none

/-- ILLEGAL_INSTRUCTION (R117, R119, R123): a word that decodes to no instruction raises cause 1 with the DETAIL of the first
check that it fails; a word that decodes to one is no illegal word. -/
def execIllegalInstruction (g : ThreadNo) (word : Word) (s : State) : Out :=
  let th := s.thr g
  if s.runs g then
    match decodeWord g s.cxpOn word.toNat with
    | .ok _ => .next s
    | .bad e => .next (s.trap g 1 e.detail th.wordAddr)
  else .next s

/-- An issued word executes. -/
def State.execWord (s : State) (g : ThreadNo) (w : Word) : State :=
  match decodeWord g s.cxpOn w.toNat with
  | .ok i =>
    match runAlu i s with
    | some o => outOr o s
    | none =>
      match runOther i s with
      | some o => outOr o s
      | none => s
  | .bad e => s.trap g 1 e.detail (s.thr g).wordAddr

end Sys2Proof.Machine
end

