-- ==== Sys2Proof/Machine/Debug.lean ====
section
/-! DEFINITION. The debug unit (R63, R138, R139, R395, R470 to R473): the requests that act on a thread or on memory, and every
register write and read with the DBG window's part in it. -/

namespace Sys2Proof.Machine

/-- A debug request is refused: ERR and ECODE (R395). -/
def State.dbgErr (s : State) (c : Nat) : State :=
  (s.setFld addrDbgStatus fldDbgStatus_ERR 1).setFld addrDbgStatus fldDbgStatus_ECODE c

/-- The selected thread. -/
def State.dbgThr (s : State) : Nat := s.fld addrDbgTsel fldDbgTsel_THREAD

/-- A request on the selected thread: without a session ECODE 1; an S-world thread in a Z session ECODE 2, with its audit entry
(R138); else the request. -/
def State.dbgGate (s : State) (f : Nat → State) : State :=
  match s.dbg with
  | none => s.dbgErr 1
  | some (sc, role) =>
    let g := s.dbgThr
    if sc || (s.thr g).isZ then f g
    else (s.audit 0x0E role 1 0 (bytesLE 1 0 ++ bytesLE 2 g)).dbgErr 2

/-- A thread that a debug request may look into (R471). -/
def Thread.atRest (th : Thread) : Bool := th.state = .stopped || th.state = .halted || th.state = .faulted

/-! ### Stop, resume, step (R63, R139, R470) -/

/-- A stop that waits takes hold: the thread has issued nothing that is not complete, and waits for no far access, divide, fence
or coprocessor word. A blocked channel operation, WFE or wait for an entry is held. -/
def State.stopNow (s : State) (g : Nat) : State :=
  let th := s.thr g
  let held : Bool := match th.wait with
    | .event _ => true
    | .chanSend _ => true
    | .chanRecv _ _ => true
    | .storeSpace => true
    | .pinQueue _ => true
    | _ => false
  if th.stopReq && ((th.state = .ready && th.entry.isNone && th.issued.isNone) || (th.state = .waiting && held)) then
    (s.setThr g { th with state := .stopped, stopReq := false }).leaves g
  else s

/-- THREAD_STOPPED (R63). -/
def execThreadStopped (g : ThreadNo) (s : State) : Out := .next (s.stopNow g)

/-- STOP: the thread issues nothing more (R63); no effect on a thread that is at rest (R46). -/
def State.dbgStop (s : State) (g : Nat) : State :=
  if (s.thr g).atRest then s else s.modThr g fun th => { th with stopReq := true }

/-- RESUME (R46): READY, or WAITING while the operation in progress has its condition unmet. -/
def State.dbgResume (s : State) (g : ThreadNo) : State :=
  let th := { s.thr g with stopReq := false }
  let back := s.setThr g { th with state := .waiting }
  let ready := s.setThr g { th with state := .ready, wait := .none }
  match th.wait with
  | .event _ => outOr (execEventWake g back) back
  | .chanSend _ => outOr (execChannelUnblock g back) back
  | .chanRecv _ _ => outOr (execChannelUnblock g back) back
  | .storeSpace => if th.sbuf.length < 4 then ready else back
  | .pinQueue i => if (s.pin i).edges.length < 4 then ready else back
  | _ => ready

/-- The stop after a step: at once, or when the word completes. -/
def State.stepEnd (s : State) (g : Nat) : State := (s.dbgStop g).stopNow g

/-- The turns that a step's word still takes, and the entry turns that it causes, made and counted (R38, R114, R126). -/
def State.stepTurns (s : State) (g : Nat) : State :=
  let k := (s.thr g).owed
  let s := (s.countTurns g k).modThr g fun th => { th with owed := 0 }
  match (s.thr g).state, (s.thr g).entry with
  | .ready, some p => (s.countTurns g 2).enter g p
  | _, _ => s

/-- STEP (R139): one turn with its word, and the entry turns that the word causes; a pending asynchronous cause waits for the
resume. -/
def State.dbgStep (s : State) (g : ThreadNo) : State :=
  let s := s.modThr g fun th => { th with state := .ready, wait := .none, stopReq := false }
  let s := ((s.countTurns g 1).active).fetchWord g
  let s := match (s.thr g).issued with
    | some w => s.execWord g w
    | none => s
  let s := s.stepTurns g
  s.stepEnd g

/-- DBG_CMD written (R470). -/
def State.dbgCmd (s : State) (v : Word) : State × Told :=
  if s.dbg.isNone then (s.dbgErr 1, .done)
  else if 8 ≤ v.toNat ∨ 2 ≤ popCount 3 v.toNat then (s.rsvd addrDbgCmd, .discarded)
  else if v = 0 then (s, .done)
  else if s.dbgBusy then (s.dbgErr 5, .done)
  else
    (s.dbgGate fun g =>
      if isOn v fldDbgCmd_STOP then (s.dbgStop g).stopNow g
      else if (s.thr g).state ≠ .stopped then s.dbgErr 3
      else if isOn v fldDbgCmd_RESUME then s.dbgResume (Fin.ofNat 1280 g)
      else s.dbgStep (Fin.ofNat 1280 g), .done)

/-! ### Registers of a thread (R471) -/

/-- The selected register; none where it is not accessible. -/
def State.dbgReg (s : State) (g : Nat) : Option Word :=
  let th := s.thr g
  let i := s.fld addrDbgRsel fldDbgRsel_INDEX
  match s.fld addrDbgRsel fldDbgRsel_BANK with
  | 0 => some (th.get (Fin.ofNat 32 i))
  | 1 => if i = 0 then some th.pc else if i = 17 then some (wordOf (s.tb64 / 2 ^ 32)) else if i ≤ 16 then some (s.srRead g i) else none
  | 2 => if i < 16 ∧ i % 4 < 3 then some (wordOf (th.a[Fin.ofNat 4 (i / 4)].toNat / 2 ^ (32 * (i % 4)))) else none
  | _ => if i < 8 then some (nth 0 th.hrs i) else none

/-- Word `k` of an accumulator replaced. -/
def accPut (a : BitVec 80) (k : Nat) (v : Word) : BitVec 80 :=
  let w := if k = 2 then 16 else 32
  let old := a.toNat / 2 ^ (32 * k) % 2 ^ w
  BitVec.ofNat 80 (a.toNat - old * 2 ^ (32 * k) + v.toNat % 2 ^ w * 2 ^ (32 * k))

/-- The selected register replaced: pc ends a repetition or a held wait; st as an MTS by a supervisor (R138). -/
def State.dbgRegPut (s : State) (g : Nat) (v : Word) : State × Told :=
  let i := s.fld addrDbgRsel fldDbgRsel_INDEX
  let bad := (s.rsvd addrDbgRdata, Told.discarded)
  match s.fld addrDbgRsel fldDbgRsel_BANK with
  | 0 => (s.modThr g fun th => th.set (Fin.ofNat 32 i) v, .done)
  | 1 =>
    if i = 0 then
      if v.toNat % 4 ≠ 0 then bad else (s.modThr g fun th => { th with pc := v, rep := none, repNew := false, owed := 0, wait := .none }, .done)
    else if i ≤ 16 ∧ mtsOk i then
      if v &&& wordOf (srReserved i) ≠ 0 then
        if i = 2 then (s.setFld (addrWhlStatus (g / 32)) fldWhlStatus_RSVD_WR 1, .discarded) else bad
      else (s.srWrite g i v true, .done)
    else (s.dbgErr 4, .done)
  | 2 =>
    if i < 16 ∧ i % 4 < 3 then
      if i % 4 = 2 ∧ 65536 ≤ v.toNat then bad
      else (s.modThr g fun th => { th with a := th.a.set (Fin.ofNat 4 (i / 4)) (accPut th.a[Fin.ofNat 4 (i / 4)] (i % 4) v) }, .done)
    else (s.dbgErr 4, .done)
  | _ => (s.dbgErr 4, .done)

/-- DBG_RDATA read; a refusal reads 0. -/
def State.dbgRdRead (s : State) : State × Word :=
  let t := s.dbgGate fun g => if (s.thr g).atRest then (if (s.dbgReg g).isSome then s else s.dbgErr 4) else s.dbgErr 3
  let ok : Bool := match s.dbg with
    | none => false
    | some (sc, _) => (sc || (s.thr s.dbgThr).isZ) && (s.thr s.dbgThr).atRest
  (t, if ok then (s.dbgReg s.dbgThr).getD 0 else 0)

/-- DBG_RDATA written. -/
def State.dbgRdWrite (s : State) (v : Word) : State × Told :=
  match s.dbg with
  | some (sc, _) =>
    if (sc || (s.thr s.dbgThr).isZ) && (s.thr s.dbgThr).atRest then s.dbgRegPut s.dbgThr v
    else (s.dbgGate fun _ => s.dbgErr 3, .done)
  | none => (s.dbgErr 1, .done)

/-! ### Memory as a thread sees it (R472) -/

/-- The rights of an access that the debug unit makes as a thread: no RW-I and no RW-M field (R395). -/
def State.dbgReq (s : State) (g : Nat) : Req :=
  let th := s.thr g
  { who := .thread (Fin.ofNat 1280 g), sup := th.isSup && !th.isZ, inst := false, mak := false, z := th.isZ, lv := th.isSup }

/-- A word loaded as the selected thread. The word is kept in DBG_MDATA, where that of a host window arrives later. -/
def State.dbgLoad (s : State) (g : Nat) : State :=
  let th := s.thr g
  let n := g / 32
  let a := s.fld addrDbgMaddr fldDbgMaddr_ADDR * 4
  let bad := (s.wr addrDbgMdata 0).dbgErr 6
  let mem := fun (blk : Nat) =>
    match s.memRead n blk 4 with
    | (s, some d) => s.wr addrDbgMdata (wordOf (leBytes d))
    | (s, none) => (s.wr addrDbgMdata 0).dbgErr 6
  if !s.granted n th.isZ th.isSup .read a then bad
  else match threadMap n th.isZ th.isSup a with
    | .ownLap blk => mem blk
    | .memory blk => mem blk
    | .control a =>
      let (s, v) := s.ctlRead (s.dbgReq g) a
      s.wr addrDbgMdata v
    | .window a =>
      match s.winAddr a with
      | none => bad
      | some h =>
        if s.hapOn (s.chanOf n) then
          match s.hostRead n th.isZ (.debug (h % 128)) h with
          | (s, some _) => s
          | (_, none) => bad
        else bad
    | .unmapped => bad

/-- A word stored as the selected thread. -/
def State.dbgStore (s : State) (g : Nat) (v : Word) : State :=
  let th := s.thr g
  let n := g / 32
  let a := s.fld addrDbgMaddr fldDbgMaddr_ADDR * 4
  let bad := s.dbgErr 6
  let mem := fun (blk : Nat) =>
    match s.memWrite n blk (bytesLE 4 v.toNat) with
    | (s, true) => s
    | (s, false) => s.dbgErr 6
  if !s.grantedAll n th.isZ th.isSup .write a 4 then bad
  else match threadMap n th.isZ th.isSup a with
    | .ownLap blk => mem blk
    | .memory blk => mem blk
    | .control a =>
      match s.ctlWrite (s.dbgReq g) a v with
      | (s, .done) => s
      | (s, .discarded) => s
      | (s, _) => s.dbgErr 6
    | .window a =>
      match s.winAddr a with
      | none => bad
      | some h => s.hostWrite n th.isZ .none a h (bytesLE 4 v.toNat)
    | .unmapped => bad

/-- DBG_TRCCTL written (R473): the thread selected at the write is recorded. -/
def State.dbgTrace (s : State) (v : Word) : State × Told :=
  if isOn v fldDbgTrcctl_TRCEN then
    if s.dbg.isNone then (s.dbgErr 1, .done)
    else if 2 ≤ v.toNat then (s.rsvd addrDbgTrcctl, .discarded)
    else (s.dbgGate fun g => { s.wr addrDbgTrcctl 1 with trcThread := some g }, .done)
  else if 2 ≤ v.toNat then (s.rsvd addrDbgTrcctl, .discarded)
  else ({ s.wr addrDbgTrcctl 0 with trcThread := none }, .done)

/-! ### Every register access -/

/-- A write past its requester's privilege and region checks. -/
def State.regApplyAt (s : State) (rq : Req) (a : Nat) (v : Word) : State × Told :=
  if a = addrDbgCmd then s.dbgCmd v
  else if a = addrDbgRdata then s.dbgRdWrite v
  else if a = addrDbgMdata then (s.dbgGate fun g => s.dbgStore g v, .done)
  else if a = addrDbgTrcctl then s.dbgTrace v
  else s.ctlApply rq a v

/-- A write with every check. -/
def State.regWrite (s : State) (rq : Req) (a : Nat) (v : Word) : State × Told :=
  if !s.ctlGranted rq true a then (s, .region)
  else if s.ctlDenied rq a v then (s, .privilege)
  else s.regApplyAt rq a v

/-- A read past the region check. -/
def State.regRead (s : State) (rq : Req) (a : Nat) : State × Word :=
  if a = addrDbgRdata then s.dbgRdRead
  else if a = addrDbgMdata then
    let t := (s.wr addrDbgMdata 0).dbgGate fun g => s.dbgLoad g
    (t, t.rd addrDbgMdata)
  else s.ctlRead rq a

end Sys2Proof.Machine
end

