-- ==== Sys2Proof/Machine/Rows.lean ====
section
/-! DEFINITION. The commands that are a register write by some master (R16 to R19, R467 to R469), each at its register's address,
with what the writer is told; the debug unit's reads; and the ends of STARTING and STOPPING (R440). -/

namespace Sys2Proof.Machine

/-! ### Writers and what they are told -/

/-- The rights of a writer's access (R16, R151). -/
def State.reqBy (s : State) : Writer → Req
  | .thread g => s.reqOf g
  | .host c => hostReq c
  | .draft e =>
    match (s.drf e).cur with
    | some l => draftReq e l.z l.lv
    | none => draftReq e true false
  | .debugPort => debugReq

/-- The host's error response to a write; the command carries no tag, so a free value stands there. -/
def State.hostTold (s : State) (c st : Nat) : State :=
  let (n, s) := s.nextFree
  s.hapRefuse c st ((Config.freeWord n).toNat % 1024) 0

/-- A running thread takes a cause for its access; a thread that cannot issue asks for nothing. -/
def State.causeFor (s : State) (g code detail : Nat) (a : Word) : State :=
  if s.runs g then s.trap g code detail a else s

/-- A draft engine that runs a list stops it with a fault. -/
def State.stopList (s : State) (e detail a : Nat) : State :=
  if s.drfRun e = 1 ∨ s.drfRun e = 2 then s.drfFault e detail 0 0 0 a else s

/-- What a write's outcome tells its writer (R18, R161, R175): `a` the address, `v` the value. -/
def State.tell (s : State) (who : Writer) (a : Nat) (v : Word) (scrubbed : Bool) : Told → State
  | .done => s
  | .discarded => s
  | .privilege =>
    match who with
    | .thread g => s.causeFor g 2 2 (wordOf a)
    | .host c => s.hostTold c 3
    | .draft e => s.stopList e 7 a
    | .debugPort => s
  | .region =>
    match who with
    | .thread g => s.causeFor g 5 0 (if scrubbed then v else wordOf a)
    | .host c => s.hostTold c 3
    | .draft e => s.stopList e 2 a
    | .debugPort => s
  | .refused =>
    match who with
    | .thread g => s.lateStore g (wordOf a)
    | .host c => s.hostTold c 3
    | .draft e => s.stopList e 9 a
    | .debugPort => s

/-- A write by a master with every check; a thread's privilege check comes before its regions (R118). -/
def State.writeBy (s : State) (who : Writer) (a : Nat) (v : Word) : State × Told :=
  let rq := s.reqBy who
  match who with
  | .thread _ => if s.ctlDenied rq a v then (s, .privilege) else s.regWrite rq a v
  | _ => s.regWrite rq a v

/-- A command that is a register write. -/
def State.put (s : State) (who : Writer) (a : Nat) (v : Word) : State :=
  let scrubbed := s.ctlGranted (s.reqBy who) true a
  match s.writeBy who a v with
  | (s, t) => s.tell who a v scrubbed t

/-- PIN_OWN of a pin by its number (R373): its first address is shared by other registers for the pins from 64 on. -/
def State.putOwner (s : State) (who : Writer) (i : Nat) (v : Word) : State :=
  let rq := s.reqBy who
  let a := addrPinOwn i
  match locate (addrPinOwn 0) with
  | none => s
  | some (row, _) =>
    let out := if s.writeDenied rq row [i] (pinOwnKey i) v then (s, Told.privilege)
      else if !s.ctlGranted rq true a then (s, .region)
      else s.regApply rq row [i] (pinOwnKey i) a v
    match out with
    | (s, t) => s.tell who a v false t

/-- The value of a register with one field replaced, as a writer of that field leaves the others. -/
def State.withFld (s : State) (a : Nat) (b : Bits) (v : Nat) : Word := setF (s.rd a) b v

/-- WHL_TCTL's value: a command bit and NODON. -/
def tctlVal (bit : Nat) (nodon : Bool) : Word := wordOf (2 ^ bit + 4 * b2n nodon)

/-! ### The commands -/

/-- A write of WHL_SLOT (R40). -/
def execSlotWrite (who : Writer) (n : WhorlNo) (e : Fin 64) (val : Word) (s : State) : Out := .next (s.put who (addrWhlSlot n e) val)
/-- A write of WHL_SLOTCTL.HOLD (R40). -/
def execSlotHold (who : Writer) (n : WhorlNo) (hold : Bool) (s : State) : Out := .next (s.put who (addrWhlSlotctl n) (wordOf (b2n hold)))
/-- A write of WHL_TCTL.START (R46). -/
def execThreadStart (who : Writer) (g : ThreadNo) (nodon : Bool) (s : State) : Out := .next (s.put who (addrWhlTctl (g / 32) (g % 32)) (tctlVal 0 nodon))
/-- A write of WHL_TCTL.HALT (R46). -/
def execThreadHalt (who : Writer) (g : ThreadNo) (nodon : Bool) (s : State) : Out := .next (s.put who (addrWhlTctl (g / 32) (g % 32)) (tctlVal 1 nodon))
/-- A write of WHL_TCTL.CLRF (R46). -/
def execThreadClrf (who : Writer) (g : ThreadNo) (nodon : Bool) (s : State) : Out := .next (s.put who (addrWhlTctl (g / 32) (g % 32)) (tctlVal 3 nodon))
/-- A write of WHL_EVPEND (R49). -/
def execEvpendClear (who : Writer) (g : ThreadNo) (val : Word) (s : State) : Out := .next (s.put who (addrWhlEvpend (g / 32) (g % 32)) val)
/-- A write of WHL_DLHI (R51). -/
def execDeadlineArm (who : Writer) (g : ThreadNo) (val : Word) (s : State) : Out := .next (s.put who (addrWhlDlhi (g / 32) (g % 32)) val)
/-- A write of WHL_CHCFG (R54). -/
def execChannelConfig (who : Writer) (n : WhorlNo) (c : Fin 64) (val : Word) (s : State) : Out := .next (s.put who (addrWhlChcfg n c) val)
/-- A write of WHL_XCFG (R57). -/
def execXchanConfig (who : Writer) (n : WhorlNo) (x : Fin 16) (val : Word) (s : State) : Out := .next (s.put who (addrWhlXcfg n x) val)
/-- A write of WHL_CHCTL.FLUSH and WHL_XCTL.FLUSH (R65). -/
def execChannelFlush (who : Writer) (n : WhorlNo) (ch : Fin 80) (s : State) : Out := .next (s.put who (if ch.val < 64 then addrWhlChctl n ch else addrWhlXctl n (ch - 64)) 1)
/-- A write of WHL_NOTECTL.POP and WHL_ESCCTL.POP (R135, R136). -/
def execNotePop (who : Writer) (n : WhorlNo) (esc : Bool) (s : State) : Out := .next (s.put who (if esc then addrWhlEscctl else addrWhlNotectl n) 1)
/-- A write of MEM_SCRUB (R161). -/
def execScrub (who : Writer) (val : Word) (s : State) : Out := .next (s.put who addrMemScrub val)
/-- A write of MEM_RAWCTL with RD (R162). -/
def execRawRead (who : Writer) (val : Word) (s : State) : Out := .next (s.put who addrMemRawctl val)
/-- A write of MEM_RAWCTL with WR (R162). -/
def execRawWrite (who : Writer) (val : Word) (s : State) : Out := .next (s.put who addrMemRawctl val)
/-- A write of MEM_ECCCTL (R161). -/
def execEccCountClear (who : Writer) (val : Word) (s : State) : Out := .next (s.put who addrMemEccctl val)
/-- A write of MEM_REMAPCTL (R164). -/
def execRemapLock (who : Writer) (val : Word) (s : State) : Out := .next (s.put who addrMemRemapctl val)
/-- A write of BOB_SETCMD, OP 1 (R167). -/
def execBobSetWrite (who : Writer) (k : Fin 65536) (s : State) : Out := .next (s.put who addrBobSetcmd (wordOf (0x10000 + k)))
/-- A write of BOB_SETCMD, OP 2 (R167). -/
def execBobSetRead (who : Writer) (k : Fin 65536) (s : State) : Out := .next (s.put who addrBobSetcmd (wordOf (0x20000 + k)))
/-- A write of BOB_SETCMD, OP 3 (R167). -/
def execBobSetClear (who : Writer) (k : Fin 65536) (s : State) : Out := .next (s.put who addrBobSetcmd (wordOf (0x30000 + k)))
/-- A write of BOB_BCTL (R169). -/
def execBobbinEnable (who : Writer) (k : Fin 65536) (val : Word) (s : State) : Out := .next (s.put who (addrBobBctl k) val)
/-- A write of BOB_DB with REL 0 (R175). -/
def execDoorbell (who : Writer) (k : Fin 65536) (cnt : Fin 131072) (s : State) : Out := .next (s.put who (addrBobDb k) (wordOf cnt))
/-- A write of BOB_DB with REL 1 (R175). -/
def execRelease (who : Writer) (k : Fin 65536) (cnt : Fin 131072) (s : State) : Out := .next (s.put who (addrBobDb k) (wordOf (2 ^ 31 + cnt)))
/-- A write of BOB_RETIDX (R184). -/
def execRetire (who : Writer) (val : Word) (s : State) : Out := .next (s.put who addrBobRetidx val)
/-- A write of LGR_ADJAMT (R185). -/
def execGrantAdjust (who : Writer) (val : Word) (s : State) : Out := .next (s.put who addrLgrAdjamt val)
/-- A write of LGR_OVRCMD (R187). -/
def execLedgerOverride (who : Writer) (val : Word) (s : State) : Out := .next (s.put who addrLgrOvrcmd val)
/-- A write of LGR_GSTAT (R188). -/
def execGuaranteeBreak (who : Writer) (val : Word) (s : State) : Out := .next (s.put who addrLgrGstat val)
/-- A write of LNK_CTXCMD (R226). -/
def execControlSend (who : Writer) (p : PortNo) (val : Word) (s : State) : Out := .next (s.put who (addrLnkCtxcmd p) val)
/-- A write of LNK_CRXCTL (R226). -/
def execControlPop (who : Writer) (p : PortNo) (val : Word) (s : State) : Out := .next (s.put who (addrLnkCrxctl p) val)
/-- A write of LNK_CNTCLR (R226). -/
def execLinkCounterClear (who : Writer) (p : PortNo) (val : Word) (s : State) : Out := .next (s.put who (addrLnkCntclr p) val)
/-- A write of LNK_CTL (R217, R223). -/
def execLinkEnable (who : Writer) (p : PortNo) (val : Word) (s : State) : Out := .next (s.put who (addrLnkCtl p) val)
/-- A write of RTE_PATHI (R230). -/
def execRouteCommit (who : Writer) (d : Fin 4096) (val : Word) (s : State) : Out := .next (s.put who (addrRtePathi d) val)
/-- A write of RTE_CTXCMD, OP 1 (R243). -/
def execCtxHold (who : Writer) (c : Fin 16384) (s : State) : Out := .next (s.put who addrRteCtxcmd (wordOf (2 ^ 30 + c)))
/-- A write of RTE_CTXCMD, OP 2 (R243). -/
def execCtxResend (who : Writer) (c : Fin 16384) (s : State) : Out := .next (s.put who addrRteCtxcmd (wordOf (2 * 2 ^ 30 + c)))
/-- A write of RTE_CTXCMD, OP 3 (R243). -/
def execCtxAbort (who : Writer) (c : Fin 16384) (s : State) : Out := .next (s.put who addrRteCtxcmd (wordOf (3 * 2 ^ 30 + c)))
/-- A write of RTE_CNTCLR (R227). -/
def execRouteCounterClear (who : Writer) (val : Word) (s : State) : Out := .next (s.put who addrRteCntclr val)
/-- A write of REEL_PCTL (R254). -/
def execReelSwapRequest (who : Writer) (p : PortNo) (val : Word) (s : State) : Out := .next (s.put who (addrReelPctl p) val)
/-- A write of REEL_CFGCMD (R255). -/
def execReelArm (who : Writer) (val : Word) (s : State) : Out := .next (s.put who addrReelCfgcmd val)
/-- A write of DRF_GO (R260). -/
def execDraftGoWrite (who : Writer) (e : Fin 8) (val : Word) (s : State) : Out := .next (s.put who (addrDrfGo e) val)
/-- A write of DRF_CTL (R279). -/
def execDraftEnable (who : Writer) (e : Fin 8) (val : Word) (s : State) : Out := .next (s.put who (addrDrfCtl e) val)
/-- A write of DRF_CMD.PAUSE (R279). -/
def execDraftPause (who : Writer) (e : Fin 8) (s : State) : Out := .next (s.put who (addrDrfCmd e) 1)
/-- A write of DRF_CMD.RESUME (R279). -/
def execDraftResume (who : Writer) (e : Fin 8) (s : State) : Out := .next (s.put who (addrDrfCmd e) 2)
/-- A write of DRF_CMD.ABORT (R279). -/
def execDraftAbort (who : Writer) (e : Fin 8) (s : State) : Out := .next (s.put who (addrDrfCmd e) 4)
/-- A write of DRF_CMD.CLRF (R278). -/
def execDraftClrf (who : Writer) (e : Fin 8) (s : State) : Out := .next (s.put who (addrDrfCmd e) 8)
/-- A write of DRF_CNTCLR (R280). -/
def execDraftCounterClear (who : Writer) (e : Fin 8) (val : Word) (s : State) : Out := .next (s.put who (addrDrfCntclr e) val)
/-- A write of PLY_CGCTL (R300). -/
def execGroupDisarm (who : Writer) (g : Fin 32) (val : Word) (s : State) : Out := .next (s.put who (addrPlyCgctl g) val)
/-- A write of PLY_CMD.CLRF (R304). -/
def execPlyClrf (who : Writer) (u : Fin 16) (s : State) : Out := .next (s.put who (addrPlyCmd u) 1)
/-- A write of PLY_CMD.ABORT (R304). -/
def execPlyAbort (who : Writer) (u : Fin 16) (s : State) : Out := .next (s.put who (addrPlyCmd u) 2)
/-- A write of PLY_CTL (R304). -/
def execPlyEnable (who : Writer) (u : Fin 16) (val : Word) (s : State) : Out := .next (s.put who (addrPlyCtl u) val)
/-- A write of PLY_CNTCLR (R303). -/
def execPlyCounterClear (who : Writer) (u : Fin 16) (val : Word) (s : State) : Out := .next (s.put who (addrPlyCntclr u) val)
/-- A write of SKN_INC[1] (R307). -/
def execTbRateWrite (who : Writer) (val : Word) (s : State) : Out := .next (s.put who addrSknInc1 val)
/-- A write of SKN_SLEWN (R307). -/
def execTbSlew (who : Writer) (val : Word) (s : State) : Out := .next (s.put who addrSknSlewn val)
/-- A write of SKN_TBCTL with STEP (R307). -/
def execTbStep (who : Writer) (val : Word) (s : State) : Out := .next (s.put who addrSknTbctl val)
/-- A write of SKN_TBCTL with SNAP (R308). -/
def execTbSnap (who : Writer) (val : Word) (s : State) : Out := .next (s.put who addrSknTbctl val)
/-- A write of SKN_CTL (R330). -/
def execSkeinEnable (who : Writer) (val : Word) (s : State) : Out := .next (s.put who addrSknCtl val)
/-- A write of TNS_CTL (R337). -/
def execTnsSwapRequest (who : Writer) (p : PortNo) (val : Word) (s : State) : Out := .next (s.put who (addrTnsCtl p) val)
/-- A write of TNS_CTL with REVERT (R339). -/
def execTnsRevertCmd (who : Writer) (p : PortNo) (val : Word) (s : State) : Out := .next (s.put who (addrTnsCtl p) val)
/-- A write of TNS_CLR (R343). -/
def execTnsCounterClear (who : Writer) (p : PortNo) (val : Word) (s : State) : Out := .next (s.put who (addrTnsClr p) val)
/-- A write of TNS_AGECTL (R345). -/
def execAgeingMeasure (who : Writer) (val : Word) (s : State) : Out := .next (s.put who addrTnsAgectl val)
/-- A write of SNG_CTL (R346). -/
def execSnagEnable (who : Writer) (val : Word) (s : State) : Out := .next (s.put who addrSngCtl val)
/-- A write of SNG_AUDACK (R346). -/
def execSnagAudack (who : Writer) (val : Word) (s : State) : Out := .next (s.put who addrSngAudack val)
/-- A write of TRD_SWFIRE (R357). -/
def execSwfire (who : Writer) (w : Fin 2) (val : Word) (s : State) : Out := .next (s.put who (addrTrdSwfire w) val)
/-- A write of TRD_CACK (R361). -/
def execConsumerAck (who : Writer) (c : Fin 256) (val : Word) (s : State) : Out := .next (s.put who (addrTrdCack c) val)
/-- A write of TRD_CCFG (R361). -/
def execConsumerConfig (who : Writer) (c : Fin 256) (val : Word) (s : State) : Out := .next (s.put who (addrTrdCcfg c) val)
/-- A write of TRD_GCTL (R359). -/
def execGroupControl (who : Writer) (g : Fin 32) (val : Word) (s : State) : Out := .next (s.put who (addrTrdGctl g) val)
/-- A write of TRD_MAT (R356). -/
def execMatrixWrite (who : Writer) (c : Fin 256) (w : Fin 16) (val : Word) (s : State) : Out := .next (s.put who (addrTrdMat c w) val)
/-- A write of PIN_OUT (R369). -/
def execPinOutWrite (who : Writer) (w : Fin 3) (val : Word) (s : State) : Out := .next (s.put who (addrPinOut w) val)
/-- A write of PIN_SET (R369). -/
def execPinSet (who : Writer) (w : Fin 3) (val : Word) (s : State) : Out := .next (s.put who (addrPinSet w) val)
/-- A write of PIN_CLR (R369). -/
def execPinClr (who : Writer) (w : Fin 3) (val : Word) (s : State) : Out := .next (s.put who (addrPinClr w) val)
/-- A write of PIN_TGL (R369). -/
def execPinTgl (who : Writer) (w : Fin 3) (val : Word) (s : State) : Out := .next (s.put who (addrPinTgl w) val)
/-- A write of PIN_CFG (R373). -/
def execPinConfig (who : Writer) (i : Fin 96) (val : Word) (s : State) : Out := .next (s.put who (addrPinCfg i) val)
/-- A write of PIN_TCTL (R374). -/
def execPinFlush (who : Writer) (i : Fin 16) (val : Word) (s : State) : Out := .next (s.put who (addrPinTctl i) val)
/-- A write of SEC_OPDB (R382). -/
def execSecSubmit (who : Writer) (n : WhorlNo) (val : Word) (s : State) : Out := .next (s.put who (addrSecOpdb n) val)
/-- A write of SEC_CMDDONE (R393). -/
def execGrantClear (who : Writer) (val : Word) (s : State) : Out := .next (s.put who addrSecCmddone val)
/-- A write of SEC_MBXCTL (R390). -/
def execMailboxGo (who : Writer) (val : Word) (s : State) : Out := .next (s.put who addrSecMbxctl val)
/-- A write of SEC_MBXRSP (R390). -/
def execMailboxPost (who : Writer) (val : Word) (s : State) : Out := .next (s.put who addrSecMbxrsp val)
/-- A write of HAP_IARM (R420). -/
def execInterruptRearm (who : Writer) (w : Fin 8) (val : Word) (s : State) : Out := .next (s.put who (addrHapIarm w) val)
/-- A write of HAP_IFIRE (R420). -/
def execInterruptSoftwareFire (who : Writer) (w : Fin 8) (val : Word) (s : State) : Out := .next (s.put who (addrHapIfire w) val)
/-- A write of HAP_CTL (R422). -/
def execHapEnable (who : Writer) (c : Fin 8) (val : Word) (s : State) : Out := .next (s.put who (addrHapCtl c) val)
/-- A write of HAP_CNTCLR (R429). -/
def execHapCounterClear (who : Writer) (c : Fin 8) (val : Word) (s : State) : Out := .next (s.put who (addrHapCntclr c) val)
/-- A write of RST_CMD (R434). -/
def execResetCommand (who : Writer) (val : Word) (s : State) : Out := .next (s.put who addrRstCmd val)
/-- A write of PWR_CTL, REQ 0 (R443). -/
def execPowerRun (who : Writer) (s : State) : Out := .next (s.put who addrPwrCtl 0)
/-- A write of PWR_CTL, REQ 1 (R443). -/
def execPowerDoze (who : Writer) (s : State) : Out := .next (s.put who addrPwrCtl 1)
/-- A write of PWR_CTL, REQ 2 (R444). -/
def execPowerDeepSleep (who : Writer) (s : State) : Out := .next (s.put who addrPwrCtl 2)
/-- A write of CLK_WDIV (R447). -/
def execWclkDivider (who : Writer) (val : Word) (s : State) : Out := .next (s.put who addrClkWdiv val)
/-- A write of DBG_CMD.STOP (R63, R470). -/
def execDebugStop (who : Writer) (s : State) : Out := .next (s.put who addrDbgCmd 1)
/-- A write of DBG_CMD.RESUME (R470). -/
def execDebugResume (who : Writer) (s : State) : Out := .next (s.put who addrDbgCmd 2)
/-- A write of DBG_CMD.STEP (R139, R470). -/
def execDebugStep (who : Writer) (s : State) : Out := .next (s.put who addrDbgCmd 4)
/-- A write of DBG_RDATA (R471). -/
def execDebugRegWrite (who : Writer) (val : Word) (s : State) : Out := .next (s.put who addrDbgRdata val)
/-- A write of DBG_MDATA (R472). -/
def execDebugMemWrite (who : Writer) (val : Word) (s : State) : Out := .next (s.put who addrDbgMdata val)
/-- A write of DBG_TRCCTL (R473). -/
def execTraceEnable (who : Writer) (val : Word) (s : State) : Out := .next (s.put who addrDbgTrcctl val)
/-- A write of a register without a command of its own (R18). -/
def execRegisterWrite (who : Writer) (addr val : Word) (s : State) : Out := .next (s.put who (addr.toNat / 4 * 4) val)

/-- The address of a remap register (R164). -/
def remapAddr : RemapRow → Nat
  | .creel b k => addrMemCremap b k
  | .lap n b k => addrMemLremap n b k

/-- A write of a remap register (R164). -/
def execRemapWrite (who : Writer) (row : RemapRow) (val : Word) (s : State) : Out := .next (s.put who (remapAddr row) val)

/-- A write of PIN_OWN (R373). -/
def execPinOwner (who : Writer) (i : Fin 96) (val : Word) (s : State) : Out := .next (s.putOwner who i val)

/-! ### Reads of the debug unit (R471, R472) -/

/-- A read that the regions refuse (R152): cause 4 or STATUS 1. -/
def State.readRefused (s : State) (who : Writer) (a : Nat) : State :=
  match who with
  | .thread g => s.causeFor g 4 0 (wordOf a)
  | .host c => s.hostTold c 1
  | .draft e => s.stopList e 2 a
  | .debugPort => s

/-- A read of one of the debug unit's data registers: the value that the reader gets is left in the register. -/
def State.debugRead (s : State) (who : Writer) (a : Nat) : State :=
  let rq := s.reqBy who
  if s.ctlGranted rq false a then
    let (s, v) := s.regRead rq a
    s.wr a v
  else s.readRefused who a

def execDebugRegRead (who : Writer) (s : State) : Out := .next (s.debugRead who addrDbgRdata)
def execDebugMemRead (who : Writer) (s : State) : Out := .next (s.debugRead who addrDbgMdata)

/-- LX_SIGNAL_CHANGE (R426). -/
def execLxSignalChange (k : Fin 64) (level : Bool) (s : State) : Out := .next (s.lxChange k level)

/-! ### The ends of STARTING and STOPPING (R440) -/

/-- STATE of a unit's control register moved by a rule. -/
def State.unitMove (s : State) (a : Nat) (f : Word → Word) : State := s.wr a (f (s.rd a))

/-- A port's STARTING ends once the PLL of its quadrant is locked; an ON port with AUTO leaves DOWN for TRAIN (R217). -/
def State.linkStarted (s : State) (p : Nat) : State :=
  let a := addrLnkCtl p
  if s.unitState a = 1 ∧ s.on addrClkStatus ⟨p / 36, p / 36⟩ then
    let s := s.unitMove a startingEnd
    if s.unitState a = 2 ∧ s.lstate p = 0 ∧ s.on a fldLnkCtl_AUTO ∧ (s.port p).holdTil ≤ s.tb64 then (s.noSlots p).goTrain p else s
  else s

/-- A port's STOPPING ends in DOWN: a port that is still in bring-up goes there at once, one in UP, RETRAIN or DRAIN by its
drain (R217, R222, R223). -/
def State.linkStopped (s : State) (p : Nat) : State :=
  let a := addrLnkCtl p
  if s.unitState a = 3 ∧ !s.beenUp p then
    let s := if s.lstate p = 0 then s else s.goDown p
    (s.unitMove a stoppingEnd).quadStops (p / 36)
  else s

/-- Snag's STOPPING ends; an entry to STARTING raises its unit event (R346). -/
def State.snagStopped (s : State) : State :=
  let t := s.unitMove addrSngCtl stoppingEnd
  if s.unitState addrSngCtl = 3 ∧ t.unitState addrSngCtl = 1 then t.raise 0x0A00 else t

/-- STARTING_END. -/
def execStartingEnd (u : UnitSel) (s : State) : Out :=
  match u with
  | .link p => .next (s.linkStarted p)
  | .bobbin k => .next (if s.bobHeld k then s.bobStarted k else s)
  | .draft e => .next (s.drfCtl e (startingEnd (s.rd (addrDrfCtl e))))
  | .ply k => .next (s.unitMove (addrPlyCtl k) startingEnd)
  | .skein => .next (s.unitMove addrSknCtl startingEnd)
  | .snag => .next s
  | .hap c => .next (s.hapStarted c)

/-- STOPPING_END: the unit holds nothing that it has started. -/
def execStoppingEnd (u : UnitSel) (s : State) : Out :=
  match u with
  | .link p => .next (s.linkStopped p)
  | .bobbin k => .next (s.bobStopped k)
  | .draft e => .next (if s.drfIdle e then s.drfCtl e (stoppingEnd (s.rd (addrDrfCtl e))) else s)
  | .ply k => .next (if s.plyIdle k then s.unitMove (addrPlyCtl k) stoppingEnd else s)
  | .skein => .next (if s.sknIdle then s.unitMove addrSknCtl stoppingEnd else s)
  | .snag => .next s.snagStopped
  | .hap c => .next (s.hapStopped c)

end Sys2Proof.Machine
end

