-- ==== Sys2Proof/Machine/Far.lean ====
section
/-! DEFINITION. What completes a far instruction (R44, R45, R93 to R95, R111, R115): the store buffer's drain, far loads and
atomics, the unit instructions, BDB doorbells. -/

namespace Sys2Proof.Machine

/-! ### The store buffer (R45, R111, R133) -/

/-- The buffer has changed: a FENCE completes when it is empty; a thread that waits for an entry executes its word again. -/
def State.drained (s : State) (g : Nat) : State :=
  let th := s.thr g
  if th.state ≠ .waiting then s
  else match th.wait with
    | .fence => if th.sbuf.isEmpty then (s.setThr g th.complete).settle g else s
    | .storeSpace => s.setThr g { th with state := .ready, wait := .none }
    | _ => s

/-- The oldest entry leaves the buffer. -/
def State.popStore (s : State) (g : Nat) : State :=
  (s.modThr g fun th => { th with sbuf := th.sbuf.drop 1, stamps := th.stamps.drop 1 }).drained g

/-- The bank of a block address, as a number: 64 creel banks (R144), 8 banks of each lap (R143), a spool. -/
def bankOf (a : Nat) : Nat :=
  if inCreel a then a / 64 % 64
  else if inLap a then 64 + 8 * ((a - 0x20000000) / 0x100000) + a / 8 % 8
  else 512 + a / 0x20000

/-- The block address of a store that goes to a bank. -/
def SbEntry.blk? : SbEntry → Option Nat
  | .mem _ blk _ => some blk
  | .ctl _ _ _ => none
  | .hostWin _ _ _ => none
  | .doorbell _ _ => none

/-- The block address of the load or atomic that a thread of whorl `n` waits for. -/
def Thread.farBlk (n : Nat) (th : Thread) : Option Nat :=
  let at_ := fun (a : Word) => match threadMap n th.isZ th.isSup a.toNat with
    | .ownLap blk => some blk
    | .memory blk => some blk
    | _ => none
  if th.state ≠ .waiting then none
  else match th.wait with
    | .load _ a _ _ _ => at_ a
    | .atomic _ a _ _ _ => at_ a
    | _ => none

/-- The requests of a thread that are not yet performed, with their numbers and block addresses. -/
def Thread.requests (n : Nat) (th : Thread) : List (Nat × Nat) :=
  ((th.stamps.zip th.sbuf).filterMap fun x => x.2.blk?.map fun b => (x.1, b)) ++
    ((th.farBlk n).map fun b => (th.farAt, b)).toList

/-- Request number `k` of whorl `n` at a block address may be presented: no request of the whorl that was issued before it waits for
the same bank (R149). -/
def State.presents (s : State) (n k blk : Nat) : Bool :=
  !(List.range 32).any fun t =>
    ((s.thr (32 * n + t)).requests n).any fun x => x.1 < k && bankOf x.2 = bankOf blk

/-- A far store performed (R45, R93): memory, a register, or a host window; a failure is a late store error. -/
def State.performStore (s : State) (g : Nat) (e : SbEntry) : State :=
  match e with
  | .mem a blk d =>
    match s.memWrite (g / 32) blk d with
    | (s, true) => s
    | (s, false) => s.lateStore g a
  | .ctl a rq v =>
    match s.regApplyAt rq a.toNat v with
    | (s, .done) => s
    | (s, .discarded) => s
    | (s, _) => s.lateStore g a
  | .hostWin a h d => s.hostWrite (g / 32) (s.thr g).isZ (.thread g) a.toNat h d
  | .doorbell k cnt =>
    match s.ring k cnt false (g / 32) (s.thr g).isZ with
    | (s, true) => s
    | (s, false) => s.lateStore g (wordOf (addrBobDb k))

/-- A thread's oldest store may be performed now (R149). -/
def State.storeFirst (s : State) (g : Nat) (e : SbEntry) : Bool :=
  match e.blk? with
  | some b => s.presents (g / 32) ((s.thr g).stamps.headD 0) b
  | none => true

/-- STORE_DRAIN (R45, R149): the oldest entry, when it is a store and its bank takes it next. -/
def execStoreDrain (g : ThreadNo) (s : State) : Out :=
  match (s.thr g).sbuf with
  | [] => .next s
  | .doorbell _ _ :: _ => .next s
  | e :: _ => .next (if s.storeFirst g e then (s.performStore g e).popStore g else s)

/-- DOORBELL_ARRIVE (R174): the oldest entry, when it is a doorbell. -/
def execDoorbellArrive (g : ThreadNo) (s : State) : Out :=
  match (s.thr g).sbuf with
  | .doorbell k cnt :: _ => .next ((s.performStore g (.doorbell k cnt)).popStore g)
  | _ => .next s

/-! ### Far loads and atomics (R44, R93, R95) -/

/-- The thread's far word completes with its registers changed. -/
def State.finishWord (s : State) (g : Nat) (f : Thread → Thread) : State := (s.setThr g (f (s.thr g)).complete).settle g

/-- The outstanding read of a tag whose one line has come: the line, or none for an error. -/
def State.hostLine (s : State) (ct : Nat) : Option (Option (List Byte)) :=
  ((s.hapc (ct / 1024)).reads.find? fun r => r.tag = ct % 1024).bind fun r => (r.got.find? fun x => x.1 = 0).map (·.2)

/-- A read that has ended leaves its channel. -/
def State.endRead (s : State) (ct : Nat) : State :=
  s.modHapc (ct / 1024) fun h => { h with reads := h.reads.filter fun r => r.tag ≠ ct % 1024 }

/-- A host-window load: first its read is presented, then its line is awaited (R415, R417). -/
def State.loadWindow (s : State) (g : ThreadNo) (k : LoadKind) (a : Word) (host : Nat) (rd : Reg) (tag : Option Nat) : State :=
  let n := g.val / 32
  match tag with
  | none =>
    if s.hapOn (s.chanOf n) then
      match s.hostRead n (s.thr g).isZ (.thread g) host with
      | (s, some t) => s.modThr g fun th => { th with wait := .load k a host rd (some t) }
      | (s, none) => s
    else s.trap g 4 0 a
  | some ct =>
    match s.hostLine ct with
    | none => s
    | some none => (s.endRead ct).trap g 4 0 a
    | some (some l) => (s.endRead ct).finishWord g fun th => th.loaded k rd ((l.drop (host % 128)).take k.size)

/-- A far load's access (R93). -/
def State.farLoad (s : State) (g : ThreadNo) (k : LoadKind) (a : Word) (host : Nat) (rd : Reg) (tag : Option Nat) : State :=
  let th := s.thr g
  match threadMap (g / 32) th.isZ th.isSup a.toNat with
  | .memory blk =>
    match s.memRead (g / 32) blk k.size with
    | (s, some d) => s.finishWord g fun th => th.loaded k rd d
    | (s, none) => s.trap g 14 0 a
  | .control b =>
    let (s, v) := s.regRead (s.reqOf g) b
    s.finishWord g fun th => th.set rd v
  | .window _ => s.loadWindow g k a host rd tag
  | _ => s

/-- The word that an atomic leaves (R95). -/
def AtomicOp.after (op : AtomicOp) (old a b : Word) : Word :=
  match op with
  | .amadd => old + a
  | .amswap => a
  | .amcas => if old = a then b else old

/-- An atomic's read and write, one access (R95, R158): `a` is rs2, `b` the old value of rd. -/
def State.farAtomic (s : State) (g : ThreadNo) (op : AtomicOp) (addr : Word) (rd : Reg) (a b : Word) : State :=
  let n := g.val / 32
  let blk := if addr.toNat < 0x100000 then lapBlk n addr.toNat else addr.toNat
  match s.memRead n blk 4 with
  | (s, none) => s.trap g 14 0 addr
  | (s, some d) =>
    let old := wordOf (leBytes d)
    (s.memLay blk (bytesLE 4 (op.after old a b).toNat)).finishWord g fun th => th.set rd old

/-- A thread's load or atomic may be presented: its older stores have drained, and its bank takes it next (R93, R149). -/
def State.farFirst (s : State) (g : Nat) : Bool :=
  (s.thr g).sbuf.isEmpty && match (s.thr g).farBlk (g / 32) with
    | some b => s.presents (g / 32) (s.thr g).farAt b
    | none => true

/-- FAR_LOAD_COMPLETE (R44): the access is made once it may be presented. -/
def execFarLoadComplete (g : ThreadNo) (s : State) : Out :=
  let th := s.thr g
  if th.state ≠ .waiting ∨ !s.farFirst g then .next s
  else match th.wait with
    | .load k a host rd tag => .next (s.farLoad g k a host rd tag)
    | .atomic op addr rd a b => .next (s.farAtomic g op addr rd a b)
    | _ => .next s

/-! ### Unit instructions (R110, R111, R115) -/

/-- A bobbin instruction's outcome: rd, or bobbin fault with the bobbin number in eaddr (R182); BALLOC has none and gives 0, BCRD
gives its pool number (DESIGN CHOICE, log 100). -/
def State.bobEnd (s : State) (g : Nat) (rd : Reg) (a : Word) : Except Nat Word → State
  | .ok v => s.finishWord g fun th => th.set rd v
  | .error d => s.trap g 16 d (wordOf (a.toNat % 65536))

/-- FAR_UNIT_COMPLETE (R115): DRGO, PLYGO and SKN act once the store buffer is empty (R111). -/
def execFarUnitComplete (g : ThreadNo) (s : State) : Out :=
  let th := s.thr g
  if th.state ≠ .waiting then .next s
  else match th.wait with
    | .unit op rd a b =>
      let after := fun (x : State × Word) => x.1.finishWord g fun th => th.set rd x.2
      match op with
      | .bpop => let x := s.bpop g a; .next (x.1.bobEnd g rd a x.2)
      | .balloc => let x := s.balloc g a; .next (x.1.bobEnd g rd 0 x.2)
      | .bfree => let x := s.bfree g a; .next (x.1.bobEnd g rd a x.2)
      | .bcrd => let x := s.bcrd g a b; .next (x.1.bobEnd g rd a x.2)
      | .drgo => .next (if th.sbuf.isEmpty then after (s.drgo g a b) else s)
      | .plygo => .next (if th.sbuf.isEmpty then after (s.plygo g a b) else s)
      | .skn => .next (if th.sbuf.isEmpty then after (s.sknOp a b) else s)
    | _ => .next s

end Sys2Proof.Machine
end

