-- ==== Sys2Proof/Machine/DraftExec.lean ====
section
/-! DEFINITION. What draft engines execute (R261 to R277): commands fetched and checked, rectangles moved element by element in the
sequence of R264, PLYCOPY, PUT and GET through bobbins, FENCE, EVENT, LINK, STOP, and service commands (R276). -/

namespace Sys2Proof.Machine

/-! ### Commands (R263, R264) -/

/-- A command: its sixteen words, its address, and the world and level of its list. -/
structure DCmd where
  ws   : List Nat
  addr : Nat
  z    : Bool
  lv   : Bool
  deriving DecidableEq, Repr

def dcW (c : DCmd) (i : Nat) : Nat := nth 0 c.ws i
def dcF (c : DCmd) (i hi lo : Nat) : Nat := natField (dcW c i) ⟨hi, lo⟩
def dcOp (c : DCmd) : Nat := dcF c 0 31 28
/-- Element bytes. -/
def dcN (c : DCmd) : Nat := 2 ^ dcF c 0 27 25
/-- The highest dimension in use, and the count of a dimension. -/
def dcDims (c : DCmd) : Nat := dcF c 0 20 19
def dcCnt (c : DCmd) : Nat → Nat
  | 0 => dcF c 1 15 0 + 1
  | 1 => dcF c 1 31 16 + 1
  | _ => dcF c 2 15 0 + 1
def dcTotal (c : DCmd) : Nat := dcCnt c 0 * dcCnt c 1 * dcCnt c 2
def dcDir (c : DCmd) (k : Nat) : Bool := (dcW c 0).testBit (21 + k)

/-- An address pair: words `i` and `i + 1`. -/
def dcLoc (c : DCmd) (i : Nat) : Bool := (dcW c (i + 1)).testBit 20
def dcBase (c : DCmd) (i : Nat) : Nat := dcW c i + dcF c (i + 1) 19 0 * 2 ^ 32
/-- A stride of the rectangle whose address stands at word `i`. -/
def dcStr (c : DCmd) (i k : Nat) : Int := signedOf 32 (dcW c (i + 2 + k))

/-- Index `k` of the element numbered `n` in the sequence. -/
def dcIdx (c : DCmd) (n k : Nat) : Nat :=
  let r := match k with
    | 0 => n % dcCnt c 0
    | 1 => n / dcCnt c 0 % dcCnt c 1
    | _ => n / (dcCnt c 0 * dcCnt c 1)
  if dcDir c k then dcCnt c k - 1 - r else r

/-- The address of element `n` of the rectangle at word `i`. -/
def dcAt (c : DCmd) (i n : Nat) : Int :=
  (dcBase c i : Int) + (dcIdx c n 0 : Int) * dcStr c i 0 + (dcIdx c n 1 : Int) * dcStr c i 1 + (dcIdx c n 2 : Int) * dcStr c i 2

/-- The bounding range of the rectangle at word `i` (R264). -/
def dcLo (c : DCmd) (i : Nat) : Int :=
  (List.range 3).foldl (fun a k => a + min 0 (((dcCnt c k - 1 : Nat) : Int) * dcStr c i k)) (dcBase c i : Int)
def dcHi (c : DCmd) (i : Nat) : Int :=
  (List.range 3).foldl (fun a k => a + max 0 (((dcCnt c k - 1 : Nat) : Int) * dcStr c i k)) (dcBase c i : Int) + (dcN c : Int) - 1
/-- The range leaves its space. -/
def dcOut (c : DCmd) (i : Nat) : Bool :=
  dcLo c i < 0 || (if dcLoc c i then (2 ^ 52 : Int) ≤ dcHi c i else (2 ^ 32 : Int) ≤ dcHi c i)

/-- The opcodes that move a rectangle, name a source, name a destination. -/
def dcRect (c : DCmd) : Bool := dcOp c ≤ 4
def dcScat (c : DCmd) : Bool := (dcW c 0).testBit 17
def dcStream (c : DCmd) : Bool := (dcW c 13).testBit 31
def dcHasSrc (c : DCmd) : Bool := dcOp c = 0 || dcOp c = 2 || dcOp c = 3 || dcOp c = 4
def dcHasDst (c : DCmd) : Bool :=
  dcOp c = 0 || dcOp c = 1 || (dcOp c = 4 && !dcStream c) || (dcOp c = 2 && dcScat c)

/-- Words `lo` to `hi` are zero. -/
def dcZero (c : DCmd) (lo hi : Nat) : Bool := (List.range (hi + 1 - lo)).all fun i => dcW c (lo + i) = 0
/-- The second word of an address pair is in order. -/
def dcPairOk (c : DCmd) (i : Nat) : Bool := dcF c (i + 1) 31 21 = 0 && (dcLoc c i || dcF c (i + 1) 19 0 = 0)

/-- Words 13 to 15, by opcode (R267 to R275). -/
def dcTailOk (c : DCmd) : Bool :=
  match dcOp c with
  | 0 => dcZero c 13 15
  | 1 => dcW c 15 = 0
  | 2 => dcF c 14 31 28 = 0 && (dcScat c || dcF c 13 31 16 = 0)
  | 3 => dcF c 14 31 28 = 0
  | 4 => dcF c 13 30 7 = 0 && dcZero c 14 15
  | 5 => dcF c 13 31 3 = 0 && dcF c 14 31 20 = 0 && dcW c 15 = 0
  | 6 => dcF c 13 31 3 = 0 && dcF c 14 31 16 = 0
  | _ => dcZero c 13 15

/-- A reserved field or value (R263, R271): DETAIL 1. -/
def dcBad (c : DCmd) : Bool :=
  let op := dcOp c
  let msg := op = 2 || op = 3
  let w0 := dcF c 0 14 0 = 0 && (op = 2 || !dcScat c) && (msg || dcF c 0 16 15 = 0) && dcF c 0 27 25 ≠ 7 && dcDims c ≠ 3
  let w2 := if msg then dcF c 2 31 29 ≠ 7 && (dcF c 2 28 28 = 1 || dcF c 2 27 16 = 0) else dcF c 2 31 16 = 0
  let dims := (List.range 3).all fun k => k ≤ dcDims c || (dcCnt c k = 1 && dcStr c 3 k = 0 && dcStr c 8 k = 0)
  let src := if dcHasSrc c then dcPairOk c 3 else if op = 7 then dcPairOk c 3 && dcZero c 5 7 else dcZero c 3 7
  let dst := if dcHasDst c then dcPairOk c 8 else dcZero c 8 12
  let ctl := op < 7 || (dcF c 0 27 19 = 0 && dcF c 0 17 15 = 0 && dcZero c 1 2)
  9 ≤ op || !(w0 && w2 && dims && src && dst && ctl && dcTailOk c) || (op = 7 && dcW c 3 % 64 ≠ 0)

/-- A rectangle outside its space: DETAIL 4, at its base. -/
def dcBounds (c : DCmd) : Option Nat :=
  if !dcRect c then none
  else if dcHasSrc c && dcOut c 3 then some (dcBase c 3)
  else if dcHasDst c && dcOut c 8 then some (dcBase c 8)
  else none

/-- Overlap-safe mode (R265). -/
def dcOverlap (c : DCmd) : Bool :=
  (dcW c 0).testBit 24 ||
  (dcHasSrc c && dcHasDst c && dcOp c ≠ 2 && (dcLoc c 3 == dcLoc c 8) && dcLo c 3 ≤ dcHi c 8 && dcLo c 8 ≤ dcHi c 3)

/-! ### Accesses of an engine (R142, R151, R152, R159, R468) -/

/-- What a block address names for a list of a world and level. -/
def draftMap (z lv : Bool) (a : Nat) : Place :=
  if inSpool a then (if lv && !z then .memory a else .unmapped)
  else if inCreel a || inLap a then .memory a
  else if inCtl a then .control a
  else if 0x80000000 ≤ a ∧ a < 2 ^ 32 then .window a
  else .unmapped

/-- What a read comes to. -/
inductive DRead where
  | got (d : List Byte)
  | bad
  | wait
  | fault (detail : Nat)
  deriving DecidableEq, Repr

/-- A read of host bytes on the engine's channel, with its answer (R417): the requests go out with it (log 9). -/
def State.drfHost (s : State) (e : Fin 8) (z : Bool) (l : List (Nat × Nat)) (n : Nat) (h : Option (Option (List Byte))) : State × DRead :=
  if !s.hapOn (s.chanOf (40 + e)) then (s, .fault 10)
  else match h with
    | none => (s, .wait)
    | some o =>
      (l.foldl (fun s x => s.askHost (40 + e) z x.1 x.2) s,
        match o with
        | none => .fault 10
        | some d => .got (padTo n 0 d))

/-- `n` bytes read. -/
def State.drfRead (s : State) (e : Fin 8) (z lv host : Bool) (a n : Nat) (h : Option (Option (List Byte))) : State × DRead :=
  let may := s.grantedAll (40 + e) z lv .read a n
  if host then s.drfHost e z [(a, n)] n h
  else match draftMap z lv a, draftMap z lv (a + n - 1) with
    | .memory _, .memory _ =>
      if may then
        match s.memRead (40 + e) a n with
        | (s, some d) => (s, .got d)
        | (s, none) => (s, .bad)
      else (s, .fault 2)
    | .control _, .control _ =>
      if n = 4 ∧ a % 4 = 0 ∧ may then
        let (s, v) := s.regRead (draftReq e z lv) a
        (s, .got (bytesLE 4 v.toNat))
      else (s, .fault 2)
    | .window _, .window _ =>
      if may && (s.winAddr a).isSome && (s.winAddr (a + n - 1)).isSome then s.drfHost e z (s.hostSpans a n) n h
      else (s, .fault 2)
    | _, _ => (s, .fault 2)

/-- An engine has stopped with a fault. -/
def State.drfFaulted (s : State) (e : Nat) : Bool := s.drfRun e = 4

/-- Bytes written through host windows, window by window (R419). -/
def State.drfWindow (s : State) (e : Fin 8) (z : Bool) (ix : Nat × Nat × Nat) (a : Nat) (d : List Byte) : State :=
  let k := 2 ^ 27 - a % 2 ^ 27
  let put := fun (s : State) (a : Nat) (d : List Byte) =>
    match s.winAddr a with
    | some h => if d.isEmpty || s.drfFaulted e then s else s.hostWrite (40 + e) z (.draft e ix) a h d
    | none => s
  put (put s a (d.take k)) (a + k) (d.drop k)

/-- Bytes written for the element of indices `ix`; the DETAIL of a failure. -/
def State.drfWrite (s : State) (e : Fin 8) (z lv host : Bool) (ix : Nat × Nat × Nat) (a : Nat) (d : List Byte) : State × Option Nat :=
  let n := d.length
  let may := s.grantedAll (40 + e) z lv .write a n
  if host then (s.hostWrite (40 + e) z (.draft e ix) a a d, none)
  else match draftMap z lv a, draftMap z lv (a + n - 1) with
    | .memory _, .memory _ =>
      if may then
        match s.memWrite (40 + e) a d with
        | (s, true) => (s, none)
        | (s, false) => (s, some 3)
      else (s, some 2)
    | .control _, .control _ =>
      if n = 4 ∧ a % 4 = 0 then
        match s.regWrite (draftReq e z lv) a (wordOf (leBytes d)) with
        | (s, .done) => (s, none)
        | (s, .discarded) => (s, none)
        | (s, .privilege) => (s, some 7)
        | (s, .region) => (s, some 2)
        | (s, .refused) => (s, some 9)
      else (s, some 2)
    | .window _, .window _ =>
      if may && (s.winAddr a).isSome && (s.winAddr (a + n - 1)).isSome then (s.drfWindow e z ix a d, none) else (s, some 2)
    | _, _ => (s, some 2)

/-- The destination of an element whose source is uncorrectable is written marked bad, in lap or creel (R277). -/
def State.drfSpoil (s : State) (e : Fin 8) (z lv host : Bool) (a n : Nat) : State :=
  if !host && (inCreel a || inLap a) && (inCreel (a + n - 1) || inLap (a + n - 1)) && s.grantedAll (40 + e) z lv .write a n
  then s.memBad a n else s

/-! ### Elements (R264 to R268) -/

/-- What comes of an element or of an action: done, an answer of the host awaited, another condition awaited, a fault. -/
inductive DRes where
  | ok | host | hold
  | fault (detail addr : Nat)
  deriving DecidableEq, Repr

/-- An element read at word `i`'s rectangle. -/
def State.drfGet (s : State) (e : Fin 8) (c : DCmd) (i n : Nat) (h : Option (Option (List Byte))) : State × DRead :=
  s.drfRead e c.z c.lv (dcLoc c i) (dcAt c i n).toNat (dcN c) h
/-- The indices of element `n`. -/
def dcIx (c : DCmd) (n : Nat) : Nat × Nat × Nat := (dcIdx c n 0, dcIdx c n 1, dcIdx c n 2)
/-- An element written at word 8's rectangle. -/
def State.drfPut (s : State) (e : Fin 8) (c : DCmd) (n : Nat) (d : List Byte) : State × DRes :=
  let a := (dcAt c 8 n).toNat
  match s.drfWrite e c.z c.lv (dcLoc c 8) (dcIx c n) a d with
  | (s, none) => (s, .ok)
  | (s, some t) => (s, .fault t a)

/-- An element's source read for a use of it: its failures, or the use. -/
def State.drfWith (s : State) (e : Fin 8) (c : DCmd) (n : Nat) (h : Option (Option (List Byte)))
    (spoil : State → State) (f : State → List Byte → State × DRes) : State × DRes :=
  let a := (dcAt c 3 n).toNat
  match s.drfGet e c 3 n h with
  | (s, .got d) => f s d
  | (s, .bad) => (spoil s, .fault 3 a)
  | (s, .wait) => (s, .host)
  | (s, .fault t) => (s, .fault t a)

/-- The pattern bytes of FILL. -/
def dcFill (c : DCmd) : List Byte := (List.range (dcN c)).map fun b => BitVec.ofNat 8 ((dcW c 13 + dcW c 14 * 2 ^ 32) / 2 ^ (8 * (b % 8)))

/-- The ply unit and the stream of a PLYCOPY. -/
def dcPU (c : DCmd) : Nat := dcF c 13 3 0
def dcK (c : DCmd) : Nat := dcF c 13 6 4

/-- The raw element size of a running pass that would take the elements of this PLYCOPY. -/
def State.plySize (s : State) (c : DCmd) : Option Nat :=
  match (s.ply (dcPU c)).passes with
  | p :: _ =>
    if s.plyRun (dcPU c) ≠ 1 then none
    else if dcStream c then
      if !p.accum && dcK c < p.nin && p.src (dcK c) = 0 then
        some (if p.form (dcK c) = 4 then 64 else formSize p.op.fmt (p.form (dcK c)))
      else none
    else if p.accum && dcK c = 0 then some (if p.op.oform = 4 then 64 else formSize p.op.fmt p.op.oform) else none
  | [] => none

/-- Results of accumulated elements written, each by its engine. -/
def State.drfResults (s : State) : List (AccOut × List Byte) → State × DRes
  | [] => (s, .ok)
  | (o, d) :: r =>
    match s.drfWrite o.eng o.z o.lv o.host o.ix o.addr d with
    | (s, none) => s.drfResults r
    | (s, some t) => (s, .fault t o.addr)

/-- One element of a PLYCOPY (R268, R293, R294). -/
def State.drfPly (s : State) (e : Fin 8) (c : DCmd) (n : Nat) (src dst : Option (Option (List Byte))) : State × DRes :=
  let u := dcPU c
  let da := (dcAt c 8 n).toNat
  match s.plySize c with
  | none => (if dcStream c then s.plyInwait u else s, .hold)
  | some sz =>
    if sz ≠ dcN c then (s, .fault 5 (dcAt c 3 n).toNat)
    else if dcStream c then
      if !s.plyTakes u (dcK c) sz then (s.plyHold u (dcK c), .hold)
      else s.drfWith e c n src (fun s => (s.plyFeed u (dcK c) (List.replicate sz 0) true).1)
        fun s d => ((s.plyFeed u (dcK c) d false).1, .ok)
    else if !s.plyAccums u then (s, .hold)
    else match s.drfGet e c 8 n dst with
      | (s, .wait) => (s, .host)
      | (s, .fault t) => (s, .fault t da)
      | (s, .bad) => (s.drfSpoil e c.z c.lv (dcLoc c 8) da sz, .fault 3 da)
      | (s, .got d) =>
        s.drfWith e c n src (fun s => s.drfSpoil e c.z c.lv (dcLoc c 8) da sz) fun s x =>
          let (s, l) := s.plyAccumElem u { eng := e, z := c.z, lv := c.lv, host := dcLoc c 8, ix := dcIx c n, addr := da } d x
          s.drfResults l

/-- One element of a COPY, FILL or PLYCOPY; `i` counts the elements of this command row, for the host's answers. -/
def State.drfElem (s : State) (e : Fin 8) (c : DCmd) (h : DraftHost) (i n : Nat) : State × DRes :=
  let da := (dcAt c 8 n).toNat
  match dcOp c with
  | 0 => s.drfWith e c n h.src[i]? (fun s => s.drfSpoil e c.z c.lv (dcLoc c 8) da (dcN c)) fun s d => s.drfPut e c n d
  | 1 => s.drfPut e c n (dcFill c)
  | _ => s.drfPly e c n h.src[i]? h.dst[i]?

/-- Elements from the next one on, while `f` completes them; one whose host write fails at once is not done (R278). -/
def State.drfLoop (e : Fin 8) (c : DCmd) (f : State → Nat → Nat → State × DRes) : Nat → Nat → State → State × DRes
  | 0, _, s => (s, .ok)
  | fuel + 1, i, s =>
    let n := (s.drf e).idx
    if dcTotal c ≤ n then (s, .ok)
    else match f s i n with
      | (s, .ok) =>
        if s.drfFaulted e then (s, .host)
        else State.drfLoop e c f fuel (i + 1) (s.modDrf e fun d => { d with idx := n + 1 })
      | r => r

/-! ### Commands fetched (R261, R262) -/

/-- The command at a list address. -/
def State.drfFetchAt (s : State) (e : Fin 8) (l : DList) (h : Option (List Byte)) : State × Fetched :=
  match s.drfRead e l.z l.lv l.host l.addr 64 (some h) with
  | (s, .got d) => (s, .ok d)
  | (s, .bad) => (s, .fail 3)
  | (s, .wait) => (s, .none)
  | (s, .fault t) => (s, .fail t)

/-- A fetched command in its list. -/
def cmdOf (l : DList) (d : List Byte) : DCmd :=
  { ws := (List.range 16).map fun i => leBytes ((d.drop (4 * i)).take 4), addr := l.addr, z := l.z, lv := l.lv }

/-- The list at the command after this one: LINK's target, or the next 64 bytes. -/
def nextList (l : DList) (c : DCmd) : DList :=
  if dcOp c = 7 then { l with addr := dcBase c 3, host := dcLoc c 3 } else { l with addr := l.addr + 64 }

/-- A list stops with a fault at an element or address. -/
def State.drfStopAt (s : State) (e : Fin 8) (c : DCmd) (detail a : Nat) : State :=
  let n := (s.drf e).idx
  s.drfFault e detail (dcIdx c n 0) (dcIdx c n 1) (dcIdx c n 2) a

/-- A command completes (R261, R263): counts, its done event, and the next command of its list. -/
def State.drfComplete (s : State) (e : Fin 8) (c : DCmd) (h : DraftHost) : State :=
  let s := s.bump (addrDrfCnt e 0) fldDrfCnt_COUNT
  let s := if dcRect c && dcOp c ≠ 3 then s.bump (addrDrfCnt e 1) fldDrfCnt_COUNT ((dcTotal c * dcN c + 63) / 64) else s
  let s := if s.on (addrDrfStatus e) fldDrfStatus_OVSM then s.bump (addrDrfCnt e 2) fldDrfCnt_COUNT else s
  let s := if (dcW c 0).testBit 18 then (s.raise (0x0400 + 4 * e)).fireProd (240 + e) else s
  let s := (s.setFld (addrDrfStatus e) fldDrfStatus_OVSM 0).setRun e 1
  match (s.drf e).cur with
  | none => s
  | some l =>
    if dcOp c = 8 then (s.drfEndList e true).drfBegin e
    else
      let l' := nextList l c
      let (s, f) := if dcOp c = 5 then s.drfFetchAt e l' h.next else (s, (s.drf e).next)
      s.modDrf e fun d => { d with cur := some l', cmd := f, next := .none, begun := false, idx := 0, steps := 0, served := false }

/-! ### Slips of PUT and GET (R273 to R275) -/

/-- A slip that an engine has rung is passed by its bobbin's CONS. -/
def State.slipPassed (s : State) (k i : Nat) : Bool := (s.cons k + 2 ^ 32 - (i + 1) % 2 ^ 32) % 2 ^ 32 < 2 ^ 31

/-- The TX bobbin of a command passes its checks (R174, R175, R273): ON, TX, of the list's world, open to the thread that started
the list, or to the host. -/
def State.txbOk (s : State) (k : Nat) (z : Bool) (by_ : Option Nat) : Bool :=
  s.bobOn k && s.bobType k = tyTX && (s.bobZ k == z) &&
  (match by_ with
    | some g => s.bobThreadOk k g
    | none => s.bdf k 0 bdPSCOPE = 3)

/-- Ring entries written at PROD, and the doorbell for them: wait for room, DETAIL 2 where the regions refuse the ring or the doorbell
(R151, R152), 9 where the bobbin refuses the doorbell; an entry whose host write fails at once is not rung. -/
def State.drfRing (s : State) (e : Fin 8) (z lv : Bool) (k : Nat) (ents : List (List Byte)) : State × DRes :=
  let cnt := ents.length
  if s.bobN k < s.bobFill k + cnt then (s, .hold)
  else
    let p := s.prod k
    let host := s.bdf k 0 bdLOC = 1
    let s := (ents.zip (List.range cnt)).foldl (fun (x : State × Option Nat) y =>
      match x with
      | (s, none) => if s.drfFaulted e then (s, none) else s.drfWrite e z lv host (0, 0, 0) (s.entryAddr k (p + y.2)) y.1
      | r => r) (s, none)
    match s with
    | (s, some d) => (s, .fault d (s.entryAddr k p))
    | (s, none) =>
      if s.drfFaulted e then (s, .host)
      else if !s.grantedAll (40 + e) z lv .write (addrBobDb k) 4 then (s, .fault 2 (addrBobDb k))
      else match s.ring k cnt false (40 + e) z with
        | (s, true) => (s.modDrf e fun d => { d with rung := d.rung ++ [(k, p)] }, .ok)
        | (s, false) => (s, .fault 9 (addrBobDb k))

/-- TAG of a command's slips: its address and the engine (R273). -/
def dcTag (c : DCmd) (e : Fin 8) : Nat × Nat := (c.addr % 2 ^ 32, c.addr / 2 ^ 32 % 2 ^ 20 + e * 2 ^ 28)

/-- The message of a PUT: its bytes, and a source that the slip can name as it stands. The two stride equalities hold for every DIMS
as R273 states them, so with R263's zero strides above DIMS a source of fewer dimensions is gathered (log 112). -/
def dcLen (c : DCmd) : Nat := dcTotal c * dcN c
def dcDense (c : DCmd) : Bool :=
  dcF c 0 23 21 = 0 && dcStr c 3 0 = dcN c &&
  dcStr c 3 1 = (dcCnt c 0 : Int) * dcStr c 3 0 && dcStr c 3 2 = (dcCnt c 1 : Int) * dcStr c 3 1

/-- The PUT slip: `src` is the source address and its LOC, `dst` the destination device. -/
def dcPutSlip (c : DCmd) (e : Fin 8) (loc : Bool) (src dst : Nat) : List Nat :=
  let (t0, t1) := dcTag c e
  [2 * 2 ^ 28 + dcF c 2 31 28 * 2 ^ 24 + dcF c 0 15 15 * 2 ^ 22 + dcF c 0 16 16 * 2 ^ 21 + (dcLen c - 1),
   dst * 2 ^ 16 + dcF c 14 15 0, dcF c 2 27 16, dcW c 15, src % 2 ^ 32, b2n loc * 2 ^ 20 + src / 2 ^ 32 % 2 ^ 20, t0, t1]

/-- The inline SEND of 64 bytes to the service bobbin that carries a command. -/
def sendSlip (c : DCmd) (e : Fin 8) : List Nat :=
  let (t0, t1) := dcTag c e
  [2 ^ 28 + dcF c 2 31 28 * 2 ^ 24 + 2 ^ 23 + 63, dcF c 14 27 16 * 2 ^ 16 + dcF c 13 31 16, dcF c 2 27 16, 0, 0, 0, t0, t1]

/-- The COPY that scatters a PUT's data at the far end (R273): the packed data in DBOB's window to words 8 to 12. -/
def scatterCmd (c : DCmd) : List Nat :=
  let n := dcN c
  let st := fun k => if dcDims c < k then 0 else nth 0 [n, n * dcCnt c 0, n * dcCnt c 0 * dcCnt c 1] k
  [dcF c 0 27 25 * 2 ^ 25 + dcDims c * 2 ^ 19, dcW c 1, dcF c 2 15 0, dcW c 15, 0, st 0 % 2 ^ 32, st 1 % 2 ^ 32, st 2 % 2 ^ 32,
   dcW c 8, dcW c 9, dcW c 10, dcW c 11, dcW c 12, dcF c 14 15 0, 0, 0]

/-- The PUT that a GET asks for (R275). -/
def getCmd (s : State) (c : DCmd) : List Nat :=
  [2 * 2 ^ 28 + dcF c 0 27 25 * 2 ^ 25 + dcF c 0 23 19 * 2 ^ 19 + dcF c 0 16 15 * 2 ^ 15, dcW c 1, dcW c 2, dcW c 3, dcW c 4, dcW c 5,
   dcW c 6, dcW c 7, 0, 0, 0, 0, 0, 0, s.fld addrRteId fldRteId_DEVID * 2 ^ 16 + dcF c 14 15 0, dcW c 15]

/-! ### Staging (R274) -/

/-- The staging area's bytes. -/
def State.stgSize (s : State) (e : Fin 8) : Nat := s.fld (addrDrfStgsz e) fldDrfStgsz_SIZE * 4096
/-- The base of the staging area. -/
def State.stgBase (s : State) (e : Fin 8) : Nat := s.fld (addrDrfStgbase e) fldDrfStgbase_BASE * 4096

/-- Room made and taken for a message of `n` bytes: messages whose slip is passed leave; one that does not fit before the end of
the ring starts at its base, and the bytes skipped are held with it. None while there is too little room. -/
def State.stgTake (s : State) (e : Fin 8) (k n : Nat) : Option State :=
  let size := s.stgSize e / 64
  let u := (n + 63) / 64
  let l := ((s.drf e).staged.filter fun x => x.idx < unrung).dropWhile fun x => s.slipPassed x.bob x.idx
  let used := l.foldl (fun a x => a + x.units) 0
  let at_ := if l.isEmpty then 0 else (s.drf e).stgAt
  let pos := if at_ + u ≤ size then at_ else 0
  let take := if at_ + u ≤ size then u else size - at_ + u
  if size < used + take then none
  else some (s.modDrf e fun d => { d with staged := l ++ [{ bob := k, idx := unrung, units := take }], stgAt := pos })

/-- The message is rung: its slip's number is known, and the ring goes on behind it. -/
def State.stgRung (s : State) (e : Fin 8) (i n : Nat) : State :=
  s.modDrf e fun d =>
    { d with staged := d.staged.map fun x => if x.idx = unrung then { x with idx := i } else x, stgAt := d.stgAt + (n + 63) / 64 }

/-- An element gathered into the staging area. -/
def State.drfGather (e : Fin 8) (c : DCmd) (h : DraftHost) (s : State) (i n : Nat) : State × DRes :=
  let a := s.stgBase e + (s.drf e).stgAt * 64 + n * dcN c
  s.drfWith e c n h.src[i]? (fun s => s.drfSpoil e c.z c.lv false a (dcN c)) fun s d =>
    match s.drfWrite e c.z c.lv false (dcIx c n) a d with
    | (s, none) => (s, .ok)
    | (s, some t) => (s, .fault t a)

/-- The steps of a PUT from step `steps` on: room, gathering, the data slip. -/
def State.drfPutData (s : State) (e : Fin 8) (c : DCmd) (h : DraftHost) (k dst : Nat) (dense : Bool) : State × DRes :=
  if dense then s.drfRing e c.z c.lv k [slipBytes (dcPutSlip c e (dcLoc c 3) (dcBase c 3) dst)]
  else
    let start := if (s.drf e).staged.any fun x => x.idx = unrung then some s else s.stgTake e k (dcLen c)
    match start with
    | none => (s, .hold)
    | some s =>
      match State.drfLoop e c (State.drfGather e c h) (dcTotal c) 0 s with
      | (s, .ok) =>
        let p := s.prod k
        match s.drfRing e c.z c.lv k [slipBytes (dcPutSlip c e false (s.stgBase e + (s.drf e).stgAt * 64) dst)] with
        | (s, .ok) => (s.stgRung e p (dcLen c), .ok)
        | r => r
      | r => r

/-- PUT (R273): the data slip, and with SCAT the scatter command behind it. -/
def State.drfPutCmd (s : State) (e : Fin 8) (c : DCmd) (h : DraftHost) : State × DRes :=
  let k := dcF c 13 15 0
  let r : State × DRes := if (s.drf e).steps = 0 then
      match s.drfPutData e c h k (dcF c 14 27 16) (dcDense c) with
      | (s, .ok) => (s.modDrf e fun d => { d with steps := 1 }, DRes.ok)
      | r => r
    else (s, .ok)
  match r with
  | (s, DRes.ok) =>
    if dcScat c then s.drfRing e c.z c.lv k [slipBytes (sendSlip c e), slipBytes (scatterCmd c)] else (s, .ok)
  | r => r

/-- GET (R275). -/
def State.drfGetCmd (s : State) (e : Fin 8) (c : DCmd) : State × DRes :=
  s.drfRing e c.z c.lv (dcF c 13 15 0) [slipBytes (sendSlip c e), slipBytes (getCmd s c)]

/-! ### FENCE and EVENT (R269, R270) -/

/-- One action of a FENCE: false while it must wait. -/
def State.fenceAct (s : State) (e : Fin 8) (c : DCmd) (k : Nat) : State × Bool :=
  if !(dcW c 13).testBit k then (s, true)
  else match k with
    | 0 => s.takeWake e
    | 1 =>
      let l := (s.drf e).rung.filter fun x => !s.slipPassed x.1 x.2
      (s.modDrf e fun d => { d with rung := l }, l.isEmpty)
    | _ =>
      let u := dcF c 14 19 16
      if s.unitState (addrPlyCtl u) ≠ 2 then (s, false)
      else match s.canPost u (dcF c 14 15 0) with
        | some j => (s.postAt u j (dcF c 14 15 0), true)
        | none => (s, false)

/-- The actions of a FENCE in order, from the next one on. -/
def State.drfFence (e : Fin 8) (c : DCmd) : Nat → State → State × DRes
  | 0, s => (s, .ok)
  | fuel + 1, s =>
    let k := (s.drf e).steps
    if 3 ≤ k then (s, .ok)
    else match s.fenceAct e c k with
      | (s, true) => State.drfFence e c fuel (s.modDrf e fun d => { d with steps := k + 1 })
      | (s, false) => (s, .hold)

/-- EVENT (R270): its slip first, at the list's world and level, since it may wait for room; then the pulse, which the unit event
drives too (R272), and the unit event. -/
def State.drfEvent (s : State) (e : Fin 8) (c : DCmd) : State × DRes :=
  let k := dcF c 14 15 0
  let slip := (dcW c 13).testBit 2
  if slip && s.bobOn k && s.bobN k ≤ s.bobFill k then (s, .hold)
  else if slip && s.bobOn k && s.bdf k 0 bdLOC = 0 && !s.grantedAll (40 + e) c.z c.lv .write (s.entryAddr k (s.prod k)) 64 then
    (s, .fault 2 (s.entryAddr k (s.prod k)))
  else
    let (t0, t1) := s.tbWords
    let s := if slip then s.putSlipAs (40 + e) c.z c.lv k (evtSlip [e.val, c.addr % 2 ^ 32, dcW c 15] t0 t1) else s
    if s.drfFaulted e then (s, .host)
    else
      let s := if (dcW c 13).testBit 0 || (dcW c 13).testBit 1 then s.fireProd (256 + e) else s
      (if (dcW c 13).testBit 1 then s.raise (0x0402 + 4 * e) else s, .ok)

/-! ### A command begun and run -/

/-- The ply unit of a PLYCOPY or of a FENCE's POST is closed to the list (R268, R269). -/
def State.drfPlyShut (s : State) (c : DCmd) : Bool :=
  (dcOp c = 4 && !s.plyOpen (dcPU c) c.z) || (dcOp c = 5 && (dcW c 13).testBit 2 && !s.plyOpen (dcF c 14 19 16) c.z)

/-- A bobbin check fails (R270, R273, R275): DETAIL 9. -/
def State.drfBobShut (s : State) (c : DCmd) (by_ : Option Nat) : Bool :=
  ((dcOp c = 2 || dcOp c = 3) && !s.txbOk (dcF c 13 15 0) c.z by_) ||
  (dcOp c = 6 && (dcW c 13).testBit 2 &&
    let k := dcF c 14 15 0
    !(s.bobValid k && s.bobType k = tyEVT && (s.bobZ k == c.z)))

/-- The message is too long (R273): DETAIL 8. -/
def State.drfTooLong (s : State) (e : Fin 8) (c : DCmd) : Bool :=
  dcOp c = 2 && (2 ^ 20 < dcLen c || (!dcDense c && s.stgSize e < dcLen c))

/-- The fault of a command at its beginning: DETAIL and address. -/
def State.drfCheck (s : State) (e : Fin 8) (c : DCmd) (by_ : Option Nat) : Option (Nat × Nat) :=
  if dcBad c then some (1, c.addr)
  else match dcBounds c with
    | some a => some (4, a)
    | none =>
      if s.drfPlyShut c then some (6, 0)
      else if s.drfBobShut c by_ then some (9, 0)
      else if s.drfTooLong e c then some (8, 0)
      else none

/-- A command begins (R262): its checks, overlap-safe mode, and the fetch of the command after it, unless it is a FENCE or STOP. -/
def State.drfStartCmd (s : State) (e : Fin 8) (l : DList) (c : DCmd) (h : DraftHost) : State :=
  let s := ((s.drfCur e l).drfDone e 0).modDrf e fun d => { d with begun := true, idx := 0, steps := 0 }
  match s.drfCheck e c l.by_ with
  | some (t, a) => s.drfFault e t 0 0 0 a
  | none =>
    let s := s.setFld (addrDrfStatus e) fldDrfStatus_OVSM (b2n (dcRect c && dcOverlap c))
    if dcOp c = 5 ∨ dcOp c = 8 then s
    else
      let (s, f) := s.drfFetchAt e (nextList l c) h.next
      s.modDrf e fun d => { d with next := f }

/-- A command's work. -/
def State.drfWork (s : State) (e : Fin 8) (c : DCmd) (h : DraftHost) : State × DRes :=
  match dcOp c with
  | 2 => s.drfPutCmd e c h
  | 3 => s.drfGetCmd e c
  | 5 => State.drfFence e c 3 s
  | 6 => s.drfEvent e c
  | 7 => (s, .ok)
  | 8 => (s, .ok)
  | _ => State.drfLoop e c (fun s i n => s.drfElem e c h i n) (dcTotal c) 0 s

/-- An accumulating PLYCOPY waits for results of its elements (R261, R294). -/
def State.drfOwed (s : State) (e : Fin 8) (c : DCmd) : Bool :=
  dcOp c = 4 && !dcStream c && (s.ply (dcPU c)).outs.any fun o => o.eng = e

/-- The running command goes as far as it can. -/
def State.drfRunCmd (s : State) (e : Fin 8) (c : DCmd) (h : DraftHost) : State :=
  let (s, r) := s.drfWork e c h
  let s := s.drfDone e (s.drf e).idx
  if s.drfFaulted e then s
  else match r with
    | .ok => if s.drfOwed e c then s.setRun e 2 else s.drfComplete e c h
    | .host => s.setRun e 1
    | .hold => s.setRun e 2
    | .fault t a => s.drfStopAt e c t a

/-- The engine executes commands now: RUNNING or WAITING, ON, or STOPPING with a command in progress (R279). -/
def State.drfActive (s : State) (e : Fin 8) : Bool :=
  let run := s.drfRun e
  let st := s.unitState (addrDrfCtl e)
  (run = 1 || run = 2) && (st = 2 || (st = 3 && (s.drf e).begun))

/-- The current command, fetched when it has not been. -/
def State.drfFetch (s : State) (e : Fin 8) (l : DList) (h : DraftHost) : State :=
  match (s.drf e).cmd with
  | .none =>
    let (s, f) := s.drfFetchAt e l h.cmd
    s.modDrf e fun d => { d with cmd := f }
  | _ => s

/-- The engine works on its current command, if that has operation `op` or a reserved one. -/
def State.drfStep (s : State) (op : Nat) (e : Fin 8) (h : DraftHost) : State :=
  if !s.drfActive e then s
  else match (s.drf e).cur with
    | none => s
    | some l =>
      let t := s.drfFetch e l h
      match (t.drf e).cmd with
      | .none => s
      | .fail d => (t.drfCur e l).drfFault e d 0 0 0 l.addr
      | .ok b =>
        let c := cmdOf l b
        if dcOp c ≠ op ∧ dcOp c ≤ 8 then s
        else
          let t := if (t.drf e).begun then t else t.drfStartCmd e l c h
          if t.drfFaulted e then t else t.drfRunCmd e c h

def execDraftCopy (e : Fin 8) (h : DraftHost) (s : State) : Out := .next (s.drfStep 0 e h)
def execDraftFill (e : Fin 8) (h : DraftHost) (s : State) : Out := .next (s.drfStep 1 e h)
def execDraftPut (e : Fin 8) (h : DraftHost) (s : State) : Out := .next (s.drfStep 2 e h)
def execDraftGet (e : Fin 8) (h : DraftHost) (s : State) : Out := .next (s.drfStep 3 e h)
def execPlycopy (e : Fin 8) (h : DraftHost) (s : State) : Out := .next (s.drfStep 4 e h)
def execDraftFence (e : Fin 8) (h : DraftHost) (s : State) : Out := .next (s.drfStep 5 e h)
def execDraftEvent (e : Fin 8) (h : DraftHost) (s : State) : Out := .next (s.drfStep 6 e h)
def execDraftLink (e : Fin 8) (h : DraftHost) (s : State) : Out := .next (s.drfStep 7 e h)
def execDraftStop (e : Fin 8) (h : DraftHost) (s : State) : Out := .next (s.drfStep 8 e h)

/-! ### Service commands (R276) -/

/-- The engine is at a command boundary at which it has not served, or idle; ON and serving. -/
def State.svcReady (s : State) (e : Fin 8) : Bool :=
  s.on (addrDrfSvcctl e) fldDrfSvcctl_EN && s.unitState (addrDrfCtl e) = 2 && s.drfRun e ≤ 1 && !(s.drf e).begun &&
    ((s.drf e).cur.isNone || !(s.drf e).served)

/-- A service command is refused: counted, with its event. -/
def State.svcRefuse (s : State) (e : Fin 8) : State := (s.bump (addrDrfCnt e 5) fldDrfCnt_COUNT).raise (0x0403 + 4 * e)

/-- The rectangle at word `i` lies in the served window. -/
def State.svcInside (s : State) (e : Fin 8) (c : DCmd) (i : Nat) : Bool :=
  !dcLoc c i && (s.fld (addrDrfSvcwlo e) fldDrfSvcwlo_BASE * 4096 : Int) ≤ dcLo c i &&
  dcHi c i ≤ (s.fld (addrDrfSvcwhi e) fldDrfSvcwhi_LIMIT * 4096 + 4095 : Int)

/-- The command that a service COPY executes, its source in the landing window it names; none when it is refused. -/
def State.svcCopy (s : State) (e : Fin 8) (c : DCmd) : Option DCmd :=
  let k := dcF c 13 15 0
  let w := s.bdf k 1 bdLWIN
  let plain : DCmd := { c with ws := c.ws.take 13 ++ [0, 0, 0] }
  if dcF c 13 31 16 ≠ 0 ∨ !dcZero c 14 15 ∨ dcBad plain ∨ dcW c 4 ≠ 0 ∨ !s.bobValid k ∨ s.bobType k ≠ tyRX then none
  else if dcLo c 3 < 0 ∨ (s.winUnits w * 256 : Int) ≤ dcHi c 3 ∨ !s.svcInside e c 8 then none
  else
    let a := s.winBase w + dcW c 3
    let loc := s.on (addrBobLwhi w) fldBobLwhi_LOC
    some { plain with ws := setNth (setNth plain.ws 3 (a % 2 ^ 32)) 4 (if loc then a / 2 ^ 32 + 2 ^ 20 else 0) }

/-- A service PUT is refused. -/
def State.svcPutBad (s : State) (e : Fin 8) (c : DCmd) : Bool := dcBad c || dcScat c || !s.svcInside e c 3

/-- A service command is refused (R276). -/
def State.svcRefused (s : State) (e : Fin 8) (c : DCmd) : Bool :=
  match dcOp c with
  | 0 => (s.svcCopy e c).isNone
  | 2 => s.svcPutBad e c
  | _ => true

/-- A service command executed at once. The result is `hold` where the engine must wait for room, and `host` where its source
lies in a host window that has not answered. -/
def State.svcRun (s : State) (e : Fin 8) (c : DCmd) (h : DraftHost) (src : Nat) : State × DRes :=
  if dcOp c = 0 then
    match s.svcCopy e c with
    | none => (s, .ok)
    | some c' => State.drfLoop e c' (fun s i n => s.drfElem e c' h i n) (dcTotal c') 0 s
  else
    let k := s.fld (addrDrfSvcctl e) fldDrfSvcctl_TXB
    if !s.bobOn k then (s, .fault 9 0)
    else if 2 ^ 20 < dcLen c ∨ s.stgSize e < dcLen c then (s, .fault 8 0)
    else s.drfPutData e c h k src false

/-- The arrival at the head of SBOB: whether it is a SEND of exactly 64 bytes, its offset and its source. -/
def svcHead (d : List Byte) : Bool × Nat × Nat :=
  let w := fun i => leBytes ((d.drop (4 * i)).take 4)
  (w 0 / 2 ^ 28 = 6 && !(w 0).testBit 23 && w 0 % 2 ^ 20 = 63, w 2, natField (w 1) ⟨27, 16⟩)

/-- The engine, its list kept aside, executes the service command at address `a`; then its own list goes on. -/
def State.svcDo (s : State) (e : Fin 8) (k : Nat) (a : Nat) (host : Bool) (b : List Byte) (src : Nat) (h : DraftHost) : Option State :=
  let own := s.drf e
  let l : DList := { addr := a, host := host, z := s.bobZ k, lv := false, by_ := none }
  let c := cmdOf l b
  let s1 := ((s.advCons k 1).drfCur e l).modDrf e fun d => { d with idx := 0 }
  let back := fun (s : State) => s.modDrf e fun d => { d with idx := own.idx }
  if s1.svcRefused e c then some (back (s1.svcRefuse e))
  else match s1.svcRun e c h src with
    | (_, .hold) => none
    | (t, .host) => if t.drfFaulted e then some (back t) else none
    | (t, .fault d x) => some (back ((t.bump (addrDrfCnt e 4) fldDrfCnt_COUNT).drfStopAt e c d x))
    | (t, .ok) =>
      let t := t.bump (addrDrfCnt e 4) fldDrfCnt_COUNT
      some (back (if (dcW c 0).testBit 18 && !t.drfFaulted e then (t.raise (0x0400 + 4 * e)).fireProd (240 + e) else t))

/-- SERVICE_COMMAND (R276): the oldest arrival of SBOB, at a command boundary. `h.cmd` and `h.next` are the arrival slip and the
payload where they lie in host memory. -/
def execServiceCommand (e : Fin 8) (h : DraftHost) (s : State) : Out :=
  let once := fun (s : State) => s.modDrf e fun d => { d with served := true }
  let k := s.fld (addrDrfSvcctl e) fldDrfSvcctl_SBOB
  if !s.svcReady e || !s.bobNotEmpty k then .next s
  else
    let z := s.bobZ k
    match s.drfRead e z false (s.bdf k 0 bdLOC = 1) (s.entryAddr k (s.cons k)) 64 (some h.cmd) with
    | (s1, .got d) =>
      let (ok, off, src) := svcHead d
      if !ok then .next (once ((s1.advCons k 1).svcRefuse e))
      else
        let w := s.bdf k 1 bdLWIN
        let host := s.on (addrBobLwhi w) fldBobLwhi_LOC
        match s1.drfRead e z false host (s.winBase w + off) 64 (some h.next) with
        | (s2, .got b) => .next (((s2.svcDo e k (s.winBase w + off) host b src h).map once).getD s)
        | (s2, .bad) => .next (once ((s2.advCons k 1).drfFault e 3 0 0 0 (s.winBase w + off)))
        | (s2, .fault t) => .next (once ((s2.advCons k 1).drfFault e t 0 0 0 (s.winBase w + off)))
        | (_, .wait) => .next s
    | (s1, .bad) => .next (once ((s1.advCons k 1).drfFault e 3 0 0 0 (s.entryAddr k (s.cons k))))
    | (s1, .fault t) => .next (s1.drfFault e t 0 0 0 (s.entryAddr k (s.cons k)))
    | (_, .wait) => .next s

end Sys2Proof.Machine
end

