-- ==== Sys2Proof/Machine/Host.lean ====
section
/-! DEFINITION. The host's requests and responses (R408 to R418): HREQ flits into block space, DRSP flits for the block's own
reads and posted writes, and the read timeout. -/

namespace Sys2Proof.Machine

/-! ### Requests from the host (R410 to R414) -/

/-- The fields of an HREQ header (R411). -/
def hqF (h : BitVec 128) (hi lo : Nat) : Nat := natField h.toNat ⟨hi, lo⟩
def hqOp (h : BitVec 128) : Nat := hqF h 127 124
def hqTag (h : BitVec 128) : Nat := hqF h 123 114
def hqLen (h : BitVec 128) : Nat := hqF h 113 112
def hqCnt (h : BitVec 128) : Nat := hqF h 111 95
def hqBob (h : BitVec 128) : Nat := hqF h 94 79
def hqAddr (h : BitVec 128) : Nat := hqF h 31 7 * 128

/-- A reserved field is not 0, or a WRDB carries no count from 1 to 65,536. -/
def hqBad (h : BitVec 128) : Bool :=
  hqF h 78 32 ≠ 0 || hqF h 6 0 ≠ 0 ||
  (match hqOp h with
    | 0 => hqCnt h ≠ 0 || hqBob h ≠ 0
    | 1 => hqLen h ≠ 0 || hqCnt h ≠ 0 || hqBob h ≠ 0
    | _ => hqLen h ≠ 0 || hqCnt h = 0 || 65536 < hqCnt h)

/-- A line of memory that a channel may reach: creel or a lap (R141, R142). -/
def hostMem (a : Nat) : Bool := inCreel a || inLap a

/-- A response to a read: a line, or a refusal. -/
def State.hostLineOut (s : State) (c tag idx status : Nat) (d : List Byte) : State :=
  s.hapRespond { ch := c, status := status, tag := tag, idx := idx, data := d }

/-- The words of a control-space line as the channel reads them: 0 where it may not (R412). -/
def State.ctlLine (s : State) (c : Fin 8) (a : Nat) : State × List Byte :=
  (List.range 32).foldl (fun (x : State × List Byte) i =>
    if x.1.ctlGranted (hostReq c) false (a + 4 * i) then
      let (s, v) := x.1.regRead (hostReq c) (a + 4 * i)
      (s, x.2 ++ bytesLE 4 v.toNat)
    else (x.1, x.2 ++ bytesLE 4 0)) (s, [])

/-- One line of an RD. -/
def State.hostRdLine (s : State) (c : Fin 8) (tag idx a : Nat) : State :=
  if inCtl a then
    if (List.range 32).any fun i => s.ctlGranted (hostReq c) false (a + 4 * i) then
      let (s, d) := s.ctlLine c a
      s.hostLineOut c tag idx 0 d
    else s.hapRefuse c 1 tag idx
  else if hostMem a && s.grantedAll (208 + c) true false .read a 128 then
    match s.memRead (208 + c) a 128 with
    | (s, some d) => s.hostLineOut c tag idx 0 d
    | (s, none) => s.hostLineOut c tag idx 2 (List.replicate 128 0)
  else s.hapRefuse c 1 tag idx

/-- An RD (R412). -/
def State.hostRd (s : State) (c : Fin 8) (h : BitVec 128) : State :=
  let n := hqLen h
  let tag := hqTag h
  if hqBad h || (inCtl (hqAddr h) && n ≠ 0) then (List.range (n + 1)).foldl (fun s i => s.hapRefuse c 1 tag i) s
  else (List.range (n + 1)).foldl (fun s i => s.hostRdLine c tag i (hqAddr h + 128 * i)) s

/-- The runs of enabled bytes of a line: place and bytes. -/
def enabledRuns (be : BitVec 128) (d : List Byte) : List (Nat × List Byte) :=
  ((List.range 128).foldl (fun (l : List (Nat × List Byte)) i =>
    if be.getLsbD i then
      let b := nth 0 d i
      match l with
      | (p, x) :: r => if p + x.length = i then (p, x ++ [b]) :: r else (i, [b]) :: l
      | [] => [(i, [b])]
    else l) []).reverse

/-- The ECC words of a run that it covers only in part. -/
def partWords (a : Nat) (run : Nat × List Byte) : List Nat :=
  (eccWords (a + run.1) run.2.length).filter fun wb => wb < a + run.1 || a + run.1 + run.2.length < wb + eccW wb

/-- Enabled bytes of a line written to memory; false when nothing is: the regions refuse a byte, or a word that is covered only
in part is uncorrectable (R152, R159). -/
def State.hostMemWrite (s : State) (c : Fin 8) (a : Nat) (be : BitVec 128) (d : List Byte) : State × Bool :=
  let runs := enabledRuns be d
  let may := hostMem a && runs.all fun r => s.grantedAll (208 + c) true false .write (a + r.1) r.2.length
  let bad := (runs.flatMap (partWords a)).filter fun wb => s.synd wb = .bad
  if !may then (s, false)
  else if !bad.isEmpty then (bad.foldl (fun s wb => s.logUE (208 + c) wb) s, false)
  else (runs.foldl (fun s r => (s.memWrite (208 + c) (a + r.1) r.2).1) s, true)

/-- The words of a control-space line written in ascending order, up to the first that is refused (R412). -/
def State.hostCtlWrite (s : State) (c : Fin 8) (a : Nat) (be : BitVec 128) (d : List Byte) : State × Bool :=
  (List.range 32).foldl (fun (x : State × Bool) i =>
    let e := be.toNat / 2 ^ (4 * i) % 16
    if !x.2 ∨ e = 0 then x
    else if e ≠ 15 then (x.1, false)
    else
      match x.1.regWrite (hostReq c) (a + 4 * i) (wordOf (leBytes ((d.drop (4 * i)).take 4))) with
      | (s, .done) => (s, true)
      | (s, .discarded) => (s, true)
      | (s, _) => (s, false)) (s, true)

/-- A line written; false when it is refused. -/
def State.hostWrLine (s : State) (c : Fin 8) (a : Nat) (be : BitVec 128) (d : List Byte) : State × Bool :=
  if be = 0 then (s, true)
  else if inCtl a then s.hostCtlWrite c a be d
  else s.hostMemWrite c a be d

/-- A WR. -/
def State.hostWr (s : State) (c : Fin 8) (h be : BitVec 128) (d : List Byte) : State :=
  if hqBad h then s.hapRefuse c 3 (hqTag h) 0
  else match s.hostWrLine c (hqAddr h) be d with
    | (s, true) => s
    | (s, false) => s.hapRefuse c 3 (hqTag h) 0

/-- A WRDB: the line, then the doorbell (R175, R412). -/
def State.hostWrdb (s : State) (c : Fin 8) (h be : BitVec 128) (d : List Byte) : State :=
  if hqBad h || inCtl (hqAddr h) then s.hapRefuse c 3 (hqTag h) 0
  else match s.hostWrLine c (hqAddr h) be d with
    | (s, false) => s.hapRefuse c 3 (hqTag h) 0
    | (s, true) =>
      match s.dbWrite (hqBob h) (hostReq c) (wordOf (hqCnt h)) with
      | (s, true) => s
      | (s, false) => s.hapRefuse c 4 (hqTag h) 0

/-- An HREQ flit with an OP that a command performs: the credit is checked and returned, the flit counted; a reserved OP is
refused as a whole. -/
def State.hreq (s : State) (c : Fin 8) (h : BitVec 128) (op : Nat) (f : State → State) : State :=
  if hqOp h ≠ op ∧ hqOp h < 3 then s
  else if (s.hapc c).outHreq = 0 then s.creditViolation c
  else
    let s := (s.hapCount c 0).active
    if 3 ≤ hqOp h then s.hapRefuse c 1 (hqTag h) 0 else f s

def execHreqRd (c : Fin 8) (hdr : BitVec 128) (s : State) : Out := .next (s.hreq c hdr 0 fun s => s.hostRd c hdr)
def execHreqWr (c : Fin 8) (hdr be : BitVec 128) (data : List (BitVec 8)) (s : State) : Out :=
  .next (s.hreq c hdr 1 fun s => s.hostWr c hdr be data)
def execHreqWrdb (c : Fin 8) (hdr be : BitVec 128) (data : List (BitVec 8)) (s : State) : Out :=
  .next (s.hreq c hdr 2 fun s => s.hostWrdb c hdr be data)

/-! ### The host's responses (R417, R418) -/

/-- The fields of a DRSP header. -/
def dsStatus (h : BitVec 64) : Nat := natField h.toNat ⟨63, 60⟩
def dsTag (h : BitVec 64) : Nat := natField h.toNat ⟨59, 50⟩
def dsIdx (h : BitVec 64) : Nat := natField h.toNat ⟨49, 48⟩

/-- A read that has its line, for the debug unit: the word, or the memory fault (R472). -/
def State.dbgLine (s : State) (off : Nat) (d : Option (List Byte)) : State :=
  match d with
  | some l => s.wr addrDbgMdata (wordOf (leBytes ((l.drop off).take 4)))
  | none => (s.wr addrDbgMdata 0).dbgErr 6

/-- A line or an error for an outstanding read; its thread's FAR_LOAD_COMPLETE takes it. -/
def State.drspLine (s : State) (c : Nat) (r : HRead) (idx : Nat) (d : Option (List Byte)) : State :=
  match r.who with
  | .debug off => (s.endRead (c * 1024 + r.tag)).dbgLine off d
  | _ =>
    s.modHapc c fun h =>
      { h with reads := h.reads.map fun x => if x.tag = r.tag then { x with got := x.got ++ [(idx, d)] } else x }

/-- DRSP_RECEIVED: a line, a read error, or a flit that is discarded and counted (R417). -/
def execDrspReceived (c : Fin 8) (hdr : BitVec 64) (data : List (BitVec 8)) (s : State) : Out :=
  let h := s.hapc c
  if dsStatus hdr = 2 then .next s
  else if h.outDrsp = 0 then .next (s.creditViolation c)
  else
    let s := s.hapCount c 3
    let tag := dsTag hdr
    if 2 < dsStatus hdr then .next (s.hapCount c 6)
    else if h.quar.contains tag then
      .next (((s.modHapc c fun h => { h with quar := h.quar.filter (· ≠ tag) }).showTagq c))
    else match h.reads.find? fun r => r.tag = tag with
      | some r =>
        if r.len < dsIdx hdr ∨ r.got.any (fun x => x.1 = dsIdx hdr) ∨ h.dreqQ.any (fun f => f.op = 0 ∧ f.tag = tag) then .next (s.hapCount c 6)
        else .next (s.drspLine c r (dsIdx hdr) (if dsStatus hdr = 0 then some (padTo 128 0 data) else none))
      | none => .next (s.hapCount c 6)

/-- WRITE_FAILURE_REPORT: a DRSP of STATUS 2 (R417, R418). -/
def execWriteFailureReport (c : Fin 8) (hdr : BitVec 64) (s : State) : Out :=
  let h := s.hapc c
  if dsStatus hdr ≠ 2 then .next s
  else if h.outDrsp = 0 then .next (s.creditViolation c)
  else
    let s := s.hapCount c 3
    match h.wlog.reverse.find? fun w => w.wseq = dsTag hdr with
    | some w => .next (s.writeFail c w.who w.addr)
    | none => .next (s.hapCount c 5)

/-- READ_TIMEOUT (R417): the flit was sent and a line is missing; the tag is quarantined, and the requester gets its error. -/
def execReadTimeout (c : Fin 8) (tag : Fin 1024) (s : State) : Out :=
  let h := s.hapc c
  match h.reads.find? fun r => r.tag = tag.val with
  | none => .next s
  | some r =>
    if h.dreqQ.any (fun f => f.op = 0 ∧ f.tag = tag.val) ∨ !r.got.isEmpty then .next s
    else
      let s := s.modHapc c fun h => { h with reads := h.reads.filter (fun x => x.tag ≠ tag.val), quar := h.quar ++ [tag.val] }
      let s := ((((s.showTagq c).setFld (addrHapStatus c) fldHapStatus_RDTO 1).hapCount c 4).raise (0x0D00 + 4 * c))
      match r.who with
      | .debug off => .next (s.dbgLine off none)
      | .thread g =>
        match (s.thr g).wait with
        | .load _ a _ _ (some ct) => .next (if ct = c * 1024 + tag.val then s.trap g 4 0 a else s)
        | _ => .next s
      | _ => .next s

end Sys2Proof.Machine
end

