-- ==== Sys2Proof/Machine/Mill.lean ====
section
/-! DEFINITION. The role dialogue that T2 of WH39 serves (R390 to R394): frames taken and authenticated, the commands of each role
with their audit entries (R403, R404), their register writes under a grant (R393), and the responses. A command's body is
its operands: the spec gives the bodies no layout. -/

namespace Sys2Proof.Machine

/-! ### Responses (R390) -/

/-- The statuses of a response (the model's numbers): done, refused, authentication failed, failed, malformed. -/
abbrev stDone : Nat := 0
abbrev stRefused : Nat := 1
abbrev stAuth : Nat := 2
abbrev stFailed : Nat := 3
abbrev stMalformed : Nat := 5

/-- The mailbox's response registers written. -/
def State.mbxOut (s : State) (d : List Byte) : State :=
  (List.range (min 1024 ((d.length + 3) / 4))).foldl
    (fun s j => s.wr (addrSecMbxout j) (wordOf (leBytes ((d.drop (4 * j)).take 4)))) s

/-- The frame before its MAC. -/
def frameOf (sid cseq code role : Nat) (body : List Byte) : List Byte :=
  bytesLE 4 sid ++ bytesLE 4 cseq ++ bytesLE 2 code ++ bytesLE 2 role ++ bytesLE 4 body.length ++ body

/-- A response posted: a status word, what the command returns, and a MAC in a session; the request is done. -/
def State.answer (s : State) (t : Taken) (key : Option (List Byte)) (st : Nat) (d : List Byte) : State :=
  let f := frameOf t.sid t.cseq t.code t.role (bytesLE 4 st ++ d)
  let f := match key with | some k => f ++ hmac384 k f | none => f
  let s := { s with taken := none, resp := f }
  if t.bob then s else (s.mbxOut f).mbxPost

/-! ### Taking a frame (R390 to R392) -/

/-- T2 of WH39 serves requests: it is READY or WAITING. -/
def State.millServes (s : State) : Bool :=
  (s.thr 1250).state = .ready || (s.thr 1250).state = .waiting

/-- The request registers of the mailbox hold the frame's first 4,096 bytes. -/
def State.mbxHolds (s : State) (frame : List Byte) : Bool :=
  let n := min frame.length 4096
  ((List.range ((n + 3) / 4)).flatMap fun j => bytesLE 4 (s.rd (addrSecMbxin j)).toNat).take n == frame.take n

/-- A request is waiting: in the mailbox, or, once the boot is verified, in the service bobbin. -/
def State.requested (s : State) (bob : Bool) (frame : List Byte) : Bool :=
  if bob then
    s.on addrSecStatus fldSecStatus_BOOTV && s.on addrSecSvcb fldSecSvcb_EN &&
      0 < (s.prod (s.fld addrSecSvcb fldSecSvcb_BOB) + 2 ^ 32 - s.cons (s.fld addrSecSvcb fldSecSvcb_BOB)) % 2 ^ 32
  else s.on addrSecMbxctl fldSecMbxctl_GO && s.mbxHolds frame

/-- The audit entry of an authentication or MAC failure (R404): one a second while they go on, with the count. -/
def State.authFailed (s : State) (role sid cseq : Nat) : State :=
  let n := s.authCnt + 1
  let due : Bool := match s.authAt with | some t => decide (t + 1000000000 ≤ s.tb64) | none => true
  if due then
    { s.audit 4 role 1 0 (bytesLE 4 sid ++ bytesLE 4 cseq ++ bytesLE 4 n) with authAt := some s.tb64, authCnt := 0 }
  else { s with authCnt := n }

/-- A session closed, with its audit entry. -/
def State.endSession (s : State) (role : Nat) : State :=
  match s.session role with
  | some x => (s.audit 3 role 0 0 (bytesLE 4 x.sid ++ x.print.take 16)).closeSession role
  | none => s

/-- The open session with a SID, and its role. -/
def State.sessionBy (s : State) (sid : Nat) : Option (Nat × Session) := s.sessions.find? fun x => x.2.sid = sid
/-- SK of a session. -/
def State.keyOf (s : State) (x : Session) : List Byte := (s.secretOf 2 x.handle).getD []

/-- The installer session open now signs the frame (R392). -/
def State.cosigned (s : State) (signed sigs : List Byte) : Bool :=
  match s.session 2 with
  | some x => sigs.length = lenSigs && Config.cryptoOk 0x105 (sha384 signed ++ sigs ++ x.print)
  | none => false

/-- The codes that a frame outside every session may carry. -/
def freeCode (c : Nat) : Bool := c = 1 || c = 2 || c = 4
/-- The codes of R391 and R394. -/
def knownCode (c : Nat) : Bool := (1 ≤ c && c ≤ 4) || (0x100 ≤ c && c ≤ 0x104) || (0x200 ≤ c && c ≤ 0x206) || (0x300 ≤ c && c ≤ 0x303)

/-- A frame of a session: refused for a wrong role, MAC, CSEQ or co-signature; else taken. -/
def State.sessionFrame (s : State) (t : Taken) (signed : List Byte) : State :=
  match s.sessionBy t.sid with
  | none => (s.authFailed t.role t.sid t.cseq).answer t none stAuth []
  | some (role, x) =>
    let mac := t.tail.take 48
    let extra := t.tail.drop 48
    let needs := role = 3 && s.lcs = 2
    if role ≠ t.role || mac ≠ hmac384 (s.keyOf x) signed then
      let s := s.authFailed role t.sid t.cseq
      let s := s.setSession role { x with macBad := x.macBad + 1 }
      let s := if 8 ≤ x.macBad + 1 then s.endSession role else s
      s.answer t none stAuth []
    else if t.cseq ≠ x.cseq + 1 then (s.authFailed role t.sid t.cseq).answer t (some (s.keyOf x)) stAuth []
    else if (if needs then !s.cosigned signed extra else !extra.isEmpty) then
      (s.authFailed role t.sid t.cseq).answer t (some (s.keyOf x)) stAuth []
    else
      let s := s.setSession role { x with cseq := t.cseq, last := s.tb64, cosig := needs }
      if knownCode t.code && !freeCode t.code || t.code = 4 then { s with taken := some t }
      else (s.audit 5 role 1 0 (bytesLE 4 t.sid ++ bytesLE 4 t.cseq ++ bytesLE 2 t.code)).answer t (some (s.keyOf x)) stMalformed []

/-- A frame parsed (R390). -/
def parseFrame (bob : Bool) (f : List Byte) : Taken :=
  let n := leBytes ((f.drop 12).take 4)
  { bob := bob, sid := leBytes (f.take 4), cseq := leBytes ((f.drop 4).take 4), code := leBytes ((f.drop 8).take 2),
    role := leBytes ((f.drop 10).take 2), body := (f.drop 16).take n, tail := (f.drop 16).drop n }

/-- A frame taken: those of no session are CHALLENGE, OPEN and ATTEST. -/
def State.takeFrame (s : State) (bob : Bool) (f : List Byte) : State :=
  let t := parseFrame bob f
  let s := if bob then s.advCons (s.fld addrSecSvcb fldSecSvcb_BOB) 1 else s
  if f.length < 16 ∨ t.body.length ≠ leBytes ((f.drop 12).take 4) then s.answer t none stMalformed []
  else if t.sid = 0 then
    if freeCode t.code then { s with taken := some t } else s.answer t none stRefused []
  else s.sessionFrame t (f.take (16 + t.body.length))

/-- ROLE_FRAME (R390, R392): T2 takes the next request when it serves none. -/
def execRoleFrame (bob : Bool) (frame : List (BitVec 8)) (s : State) : Out :=
  if s.millServes && s.taken.isNone && s.requested bob frame && s.audReady 4 then .next (s.takeFrame bob frame) else .next s

/-! ### Commands without a session (R391, R401) -/

/-- What a command outside every session does with the frame in hand. -/
def State.openCommand (s : State) (code : Nat) (f : State → Taken → State × Nat × List Byte) : State :=
  match s.taken with
  | some t =>
    if t.code = code ∧ s.audReady 4 then
      let key := match s.sessionBy t.sid with | some (_, x) => some (s.keyOf x) | none => none
      match f s t with
      | (s, st, d) => s.answer t key st d
    else s
  | none => s

/-- CHALLENGE (R391): 48 random bytes and the boot KEM public keys. -/
def execChallenge (s : State) : Out :=
  .next (s.openCommand 1 fun s _ =>
    match s.bootKeys with
    | (s, none) => (s, stFailed, [])
    | (s, some (_, pub)) =>
      let (s, ch) := s.randomBytes 48
      ({ s with chal := some ch }, stDone, ch ++ pub))

/-- The installer slot that holds a fingerprint. -/
def State.instSlot (s : State) (fp : List Byte) : Nat := ((s.instKeys.find? fun x => x.2 == fp).map (·.1)).getD 0

/-- OPEN (R391): an older session of the role closes, the new one opens; or a failure is recorded. -/
def State.openRole (s : State) (t : Taken) : State × Nat × List Byte :=
  let old := s.session t.role
  match s.openSession t.role (t.body ++ t.tail) with
  | (s, .error st) => (s.authFailed t.role t.sid t.cseq, if st = 5 then stMalformed else stAuth, [])
  | (s, .ok (sid, _)) =>
    let s := match old with | some x => s.audit 3 t.role 0 0 (bytesLE 4 x.sid ++ x.print.take 16) | none => s
    match s.session t.role with
    | some x => (s.audit 2 t.role 0 (s.instSlot x.print) (bytesLE 4 sid ++ x.print.take 16), stDone, bytesLE 4 sid)
    | none => (s, stFailed, [])

def execOpenRole (s : State) : Out := .next (s.openCommand 2 State.openRole)

/-- ATTEST (R401). -/
def execAttest (s : State) : Out :=
  .next (s.openCommand 4 fun s t =>
    if t.body.length = 48 then
      let (s, r) := s.report401 t.body
      (s, stDone, r)
    else (s, stMalformed, []))

/-! ### Commands of a session (R394) -/

/-- The role as the audit log names it (R403). -/
def auditRole (role : Nat) (x : Session) : Nat := if role = 3 && x.cosig then 4 else role

/-- A command of the roles that `may` admits, with room for `n` audit entries: outside its rights or malformed it is recorded
and refused with no effect, else recorded and performed (R394, R404). -/
def State.command (s : State) (code n : Nat) (may : Nat → Bool) (good : Bool)
    (f : State → Nat → Session → State × Nat × List Byte) : State :=
  match s.taken with
  | none => s
  | some t =>
    if t.code ≠ code ∨ !s.audReady (n + 4) then s
    else match s.sessionBy t.sid with
      | none => s.answer t none stAuth []
      | some (role, x) =>
        let key := some (s.keyOf x)
        let rec_ := bytesLE 4 t.sid ++ bytesLE 4 t.cseq ++ bytesLE 2 t.code ++ sha384 t.body
        let ok := may role && good
        let s := s.audit 5 (auditRole role x) (b2n !ok) 0 rec_
        if ok then
          match f s role x with
          | (s, st, d) => s.answer t key st d
        else s.answer t key (if good then stRefused else stMalformed) []

/-- The commands of an operator, which an installer may issue too. -/
def mayOperate (role : Nat) : Bool := role = 1 || role = 2
def mayInstall (role : Nat) : Bool := role = 2
def mayMake (role : Nat) : Bool := role = 3
def mayAny (_ : Nat) : Bool := true

/-- A write by T2 under its grant (R393, R404): recorded first, and again if it fails. -/
def State.millWrite (s : State) (role : Nat) (x : Session) (a : Nat) (v : Word) : State :=
  let d := bytesLE 4 a ++ bytesLE 4 (s.rd a).toNat ++ bytesLE 4 v.toNat
  let s := s.audit 6 (auditRole role x) 0 0 d
  match s.regWrite (s.reqOf 1250) a v with
  | (s, .done) => s
  | (s, _) => s.audit 6 (auditRole role x) 2 0 d

/-- GRANT_ROLE, writes, SEC_CMDDONE. -/
def State.underGrant (s : State) (x : Session) (f : State → State) : State × Nat :=
  match s.grantTo x.sid x.handle with
  | (s, 0) => ((f s).grantDone, stDone)
  | (s, _) => (s, stFailed)

/-- A field that keeps what it is given. -/
def storable (f : Field) : Bool := f.kind = .plain && (f.acc = .rw || f.acc = .rws || f.acc = .rwi || f.acc = .rwm)

/-- An item of a register-write command is well formed: a register, and a mask within its fields of the code. -/
def itemOk (code : Access) (it : Word × Word × Word) : Bool :=
  it.1.toNat % 4 = 0 && it.2.1 ≠ 0 &&
    match locate it.1.toNat with
    | some (row, _) => it.2.1.toNat &&& fieldMask (row.flds.filter fun f => f.acc = code) = it.2.1.toNat
    | none => false

/-- The value that an item gives its register: the bits of the mask replaced, the other fields as they are. -/
def State.itemValue (s : State) (it : Word × Word × Word) : Word :=
  let keep := match locate it.1.toNat with | some (row, _) => wordOf (fieldMask (row.flds.filter storable)) | none => 0
  (s.rd it.1.toNat &&& keep &&& ~~~it.2.1) ||| (it.2.2 &&& it.2.1)

/-- The items of a register-write command in list order. -/
def State.writeItems (s : State) (role : Nat) (x : Session) (l : List (Word × Word × Word)) : State :=
  l.foldl (fun s it => s.millWrite role x it.1.toNat (s.itemValue it)) s

/-- CLOSE. -/
def execCloseRole (s : State) : Out :=
  .next (s.command 3 0 mayAny true fun s role _ => (s.endSession role, stDone, []))

/-- The spool area lies in a region of a Z-world thread of its whorl (R387). -/
def State.areaOk (s : State) (x : Nat × List Byte) : Bool :=
  let n := (x.1 - 0x0C000000) / 0x20000
  let off := (x.1 - 0x0C000000) % 0x20000
  inSpool x.1 && !x.2.isEmpty && off + x.2.length ≤ 0x20000 &&
    (s.grantedAll n true false .fetch off x.2.length || s.grantedAll n true true .fetch off x.2.length)

/-- ZLOAD (R387): accepted under R384 and the Z signer list; M3 extended, the areas written, then the threads started. -/
def execZload (obj : SignedObj) (areas : List (Nat × List (BitVec 8))) (threads : List ThreadNo) (s : State) : Out :=
  .next (s.command 0x100 2 mayOperate (areas.flatMap (·.2) == obj.body) fun s role x =>
    let e := objHash obj ++ objSigner obj ++ bytesLE 4 (objSvn obj)
    if objOk obj 2 (tget (fun _ => []) s.lists 5) && areas.all s.areaOk &&
        threads.all (fun g => (s.thr g).state = .halted && s.mapZ g && s.mapOk (g / 32)) then
      let s := (s.audit 0x0A (auditRole role x) 0 0 e).measure 3 (objHash obj)
      let s := areas.foldl (fun s a => (s.memWrite 39 a.1 a.2).1) s
      (threads.foldl (fun (s : State) (g : ThreadNo) => s.startThread g (s.rd (addrWhlTpc (g / 32) (g % 32))) true) s, stDone, [])
    else
      let s := match threads.filter fun (g : ThreadNo) => !s.mapOk (g.val / 32) with
        | g :: _ => s.mapRefused (g / 32)
        | [] => s
      (s.audit 0x0A (auditRole role x) 1 0 e, stRefused, []))

/-- One item of JOBKEY: its audit entry, then the slot installed or erased. -/
def State.jobItem (s : State) (role : Nat) (x : Session) : SlotItem → State × Nat
  | .install slot z kid enc w =>
    let e := bytesLE 2 slot ++ bytesLE 1 (b2n z) ++ bytesLE 4 kid.toNat
    match (s.audit 0x0B (auditRole role x) 0 0 e).installSlot slot z kid x.chal enc w with
    | (s, 0) => (s, stDone)
    | (s, _) => (s.audit 0x0B (auditRole role x) 2 0 e, stFailed)
  | .erase slot =>
    let e := bytesLE 2 slot ++ bytesLE 1 (s.fld (addrSecKslot0 slot) fldSecKslot0_WORLD) ++ bytesLE 4 (s.rd (addrSecKslot1 slot)).toNat
    ((s.audit 0x0B (auditRole role x) 0 0 e).eraseSlot slot, stDone)

/-- JOBKEY (R397, R398). -/
def execJobkey (items : List SlotItem) (s : State) : Out :=
  .next (s.command 0x101 (2 * items.length) mayOperate true fun s role x =>
    let (s, st) := items.foldl (fun (p : State × Nat) it =>
      match p.1.jobItem role x it with | (s, st) => (s, max p.2 st)) (s, stDone)
    (s, st, []))

/-- A register whose write of 1 clears the counters of a unit. -/
def clears : RegName → Bool
  | .memEccctl | .lnkCntclr | .rteCntclr | .drfCntclr | .plyCntclr | .tnsClr | .hapCntclr => true
  | _ => false

/-- One address of COUNTERS: a clear register is written, any other is read. -/
def State.countItem (s : State) (a : Nat) : State × List Byte :=
  match locate a with
  | some (row, _) =>
    if clears row.name then ((s.regWrite (s.reqOf 1250) a 1).1, [])
    else
      let (s, v) := s.regRead (s.reqOf 1250) a
      (s, bytesLE 4 v.toNat)
  | none => (s, bytesLE 4 0)

/-- COUNTERS (R394). -/
def execCounters (addrs : List Word) (s : State) : Out :=
  .next (s.command 0x102 0 mayOperate (addrs.all fun a => (locate a.toNat).isSome && a.toNat % 4 = 0) fun s _ _ =>
    let (s, d) := addrs.foldl (fun (p : State × List Byte) a =>
      match p.1.countItem a.toNat with | (s, b) => (s, p.2 ++ b)) (s, [])
    (s, stDone, d))

/-- The ring entry of a SEQ, if the ring still holds it. -/
def State.audEntry (s : State) (q : Nat) : List Byte :=
  let a := lapBlk 39 (s.fld addrSecAudbase fldSecAudbase_BASE * 65536 + q % 512 * 128)
  let e := (List.range 128).map fun i => s.goodByte (a + i)
  if leBytes (e.take 8) = q then e else []

/-- AUDEXPORT (R406): the entries from a SEQ up to the head and a signed record. -/
def execAudexport (first : Nat) (s : State) : Out :=
  .next (s.command 0x103 0 mayOperate true fun s _ _ =>
    let head := s.audSeq
    let lo := max first (head - 511)
    let es := (List.range (head + 1 - lo)).flatMap fun i => s.audEntry (lo + i)
    let r := bytesLE 8 first ++ bytesLE 8 head ++ s.audHead ++ bytesLE 4 s.audCtr ++ bytesLE 8 s.tb64
    let k := s.free
    ({ s with free := k + 1 }, stDone, es ++ r ++ cryptoN 4 r k lenSigs))

/-- DEBUG (R395): one debug session; the operator's has the Z scope. -/
def execDebugOpen (sScope : Bool) (s : State) : Out :=
  .next (s.command 0x104 1 (fun r => r = 2 || (r = 1 && !sScope)) true fun s role x =>
    if s.dbg.isSome then (s.audit 0x0E (auditRole role x) 1 0 (bytesLE 1 (b2n sScope)), stRefused, [])
    else
      let s := s.audit 0x0E (auditRole role x) 0 0 (bytesLE 1 (b2n sScope))
      ({ s with dbg := some (sScope, role) }.setFld addrSecStatus
        (if sScope then fldSecStatus_DBGS else fldSecStatus_DBGZ) 1, stDone, []))

/-- REGW (R394). -/
def execRegw (l : List (Word × Word × Word)) (s : State) : Out :=
  .next (s.command 0x200 (2 * l.length) mayInstall (l.all (itemOk .rwi)) fun s role x =>
    let (s, st) := s.underGrant x fun s => s.writeItems role x l
    (s, st, []))

/-- A world map entry set. -/
def State.setMapZ (s : State) (g : Nat) (z : Bool) : State :=
  s.modWhl (g / 32) fun w => { w with wmap := setF w.wmap ⟨g % 32, g % 32⟩ (b2n z) }

/-- One entry of WORLDMAP (R120): refused while its thread is not HALTED. -/
def State.mapItem (s : State) (role : Nat) (x : Session) (g : Nat) (z : Bool) : State × Nat :=
  let new := (s.setMapZ g z).whl (g / 32)
  let e := bytesLE 1 (g / 32) ++ bytesLE 4 (2 ^ (g % 32)) ++ bytesLE 4 new.wmap.toNat
  if (s.thr g).state = .halted then ((s.audit 8 (auditRole role x) 0 0 e).setMapZ g z, stDone)
  else (s.audit 8 (auditRole role x) 1 0 e, stRefused)

/-- WORLDMAP (R120). -/
def execWorldmap (l : List (ThreadNo × Bool)) (s : State) : Out :=
  .next (s.command 0x201 l.length mayInstall true fun s role x =>
    let (s, st) := l.foldl (fun (p : State × Nat) it =>
      match p.1.mapItem role x it.1 it.2 with | (s, st) => (s, max p.2 st)) (s, stDone)
    (s, st, []))

/-- The Snag configuration of a port: 84 bytes after its number, for a port with an entry in use (R404). -/
def State.snagPort (s : State) (p : Nat) : List Byte :=
  if (List.range 4).any fun i => s.on (addrSngEcfg p i) fldSngEcfg_V then
    bytesLE 2 p ++ ((List.range 4).flatMap fun i =>
      bytesLE 4 (s.rd (addrSngEcfg p i)).toNat ++ bytesLE 4 (s.rd (addrSngEpat p i 0)).toNat ++
      bytesLE 4 (s.rd (addrSngEpat p i 1)).toNat ++ bytesLE 4 (s.rd (addrSngEprob p i)).toNat ++
      bytesLE 4 (s.rd (addrSngElim p i)).toNat) ++ bytesLE 4 (s.rd (addrSngSeed p)).toNat
  else []

/-- The audit entry of a Snag enable with its continuation, M6, and SNG_AUDACK; or of a disable (R346, R404). -/
def State.snagRecord (s : State) (role : Nat) (x : Session) (was : Bool) : State :=
  let att := (List.range 144).flatMap s.snagPort
  let n := (att.length + 55) / 56
  if s.unitState addrSngCtl = 1 then
    let q := s.audNext
    let s := s.audit 7 (auditRole role x) 0 0 (sha384 att ++ bytesLE 4 n)
    let s := (List.range n).foldl (fun s i => s.audit 0x7F (auditRole role x) 0 0 ((att.drop (56 * i)).take 56)) s
    ((s.measure 6 (sha384 att)).regWrite (s.reqOf 1250) addrSngAudack (wordOf q)).1
  else if was && !s.on addrSngCtl fldSngCtl_EN then s.audit 7 (auditRole role x) 0 0 (sha384 att ++ bytesLE 4 0)
  else s

/-- SNAG (R346). -/
def execSnagCommand (l : List (Word × Word × Word)) (s : State) : Out :=
  .next (s.command 0x202 (2 * l.length + 256) mayInstall (l.all fun it => itemOk .rwi it && it.1.toNat / 2 ^ 24 = 0x48) fun s role x =>
    let was := s.on addrSngCtl fldSngCtl_EN
    let (s, st) := s.underGrant x fun s => (s.writeItems role x l).snagRecord role x was
    (s, st, []))

/-- An installer key succession (R389) performed: its body names the new fingerprint, then the slots to revoke (the layout is
the model's). -/
def State.succeed (s : State) (o : SignedObj) : State :=
  let s := match firstBelow 4 fun i => (s.instKeys.find? fun x => x.1 = i).isNone with
    | some i => { s with instKeys := tset s.instKeys i (o.body.take 48) }
    | none => s
  { s with instGone := s.instGone ++ ((o.body.drop 48).map BitVec.toNat).filter fun i => i < 4 && !s.instGone.contains i }

/-- APPROVE (R394): objects signed by an installer go to the boot flash, outside the block; a succession takes effect. -/
def execApprove (objs : List SignedObj) (s : State) : Out :=
  .next (s.command 0x203 0 mayInstall (objs.all fun o => 3 ≤ objType o && objType o ≤ 7) fun s _ _ =>
    if objs.all (fun o => objOk o (objType o) s.installerKeys) && (s.vppOk || objs.all fun o => objType o ≠ 7) then
      ((objs.filter fun o => objType o = 7).foldl State.succeed s, stDone, [])
    else (s, stRefused, []))

/-- SVNCOMMIT (R385): the floor rises to the running firmware's SVN and never falls. -/
def execSvncommit (s : State) : Out :=
  .next (s.command 0x204 0 mayInstall true fun s _ _ =>
    if s.fld addrSecSvn fldSecSvn_SVN < s.fwSvn then
      if s.vppOk then (s.setOtp addrSecSvn (setF 0 fldSecSvn_SVN s.fwSvn), stDone, []) else (s, stFailed, [])
    else (s, stDone, []))

/-- The memory that a march overwrites: every lap and spool but WH39's, and the creel (R163, R439). -/
def marchRanges : List (Nat × Nat) := [(0x10000000, 0x06000000), (lapBlk 0 0, 39 * 0x100000), (spoolBlk 0 0, 39 * 0x20000)]

/-- What the march leaves in a word: the last background, with the last check bit as element M6 flipped it (R163; DEDUCED, log 84). -/
def State.marchWord (s : State) (wb : Nat) : State :=
  let w := eccW wb
  { s with mem := memPuts s.mem wb (List.replicate w 0x0F), syn := tput (fun _ => 0) s.syn wb (if w = 4 then 0x40 else 0x80) }

/-- The words of WH39's lap and spool, which the last phase writes back (R439). -/
def keptWords : List Nat := eccWords (lapBlk 39 0) 0x100000 ++ eccWords (spoolBlk 39 0) 0x20000

/-- The memory after a march: the backgrounds; M6's corrected reads counted, the last in the last word of WH39's spool; the kept words
whole again. -/
def State.marchMem (s : State) : State :=
  let s := marchRanges.foldl (fun s r => (eccWords r.1 r.2).foldl State.marchWord s) s
  let s := keptWords.foldl (fun s wb => if s.synd wb = .clean then s else s.mendWord wb) s
  let s := (s.setFld addrMemEccst fldMemEccst_CECNT 0xFFFF).setFld addrMemEccst fldMemEccst_CE 1
  s.wr addrMemCelog (wordOf (spoolBlk 39 0x1FFFC))

/-- MARCH (R163): the test on demand; `fails` names the banks with failing rows and their number. -/
def execMarch (fails : List (Nat × Nat)) (s : State) : Out :=
  .next (s.command 0x205 fails.length mayInstall true fun s role x =>
    let s := s.marchMem
    (fails.foldl (fun s f => s.audit 0x12 (auditRole role x) 2 0 (bytesLE 2 f.1 ++ bytesLE 4 f.2)) s, stDone, []))

/-- RESTART (R136): T0 of WH39 cleared when FAULTED, and started. -/
def execRestart (s : State) : Out :=
  .next (s.command 0x206 0 mayInstall true fun s _ _ =>
    let s := (s.regWrite (s.reqOf 1250) (addrWhlTctl 39 0) (tctlVal 3 false)).1
    ((s.regWrite (s.reqOf 1250) (addrWhlTctl 39 0) (tctlVal 0 false)).1, stDone, []))

/-- REGWM (R394). -/
def execRegwm (l : List (Word × Word × Word)) (s : State) : Out :=
  .next (s.command 0x300 (2 * l.length) mayMake (l.all (itemOk .rwm)) fun s role x =>
    let (s, st) := s.underGrant x fun s => s.writeItems role x l
    (s, st, []))

/-- LGROVR (R187): the override's registers written, then its command. -/
def execLgrovr (set v0 v1 v2 v3 : Word) (s : State) : Out :=
  .next (s.command 0x301 14 mayMake true fun s role x =>
    let s := s.audit 0x0F (auditRole role x) 0 0
      (bytesLE 4 set.toNat ++ bytesLE 4 v0.toNat ++ bytesLE 4 v1.toNat ++ bytesLE 4 v2.toNat ++ bytesLE 4 v3.toNat)
    let (s, st) := s.underGrant x fun s =>
      [(addrLgrOvrset, set), (addrLgrOvrval 0, v0), (addrLgrOvrval 1, v1), (addrLgrOvrval 2, v2), (addrLgrOvrval 3, v3),
        (addrLgrOvrcmd, 1)].foldl (fun s w => s.millWrite role x w.1 w.2) s
    (s, st, []))

/-- INSKEY (R389): while MAKER, a fingerprint goes to the next free of the four slots. -/
def execInskey (fp : List (BitVec 8)) (s : State) : Out :=
  .next (s.command 0x302 0 (fun r => r = 3 && s.lcs = 1) (fp.length = 48) fun s _ _ =>
    match firstBelow 4 fun i => (s.instKeys.find? fun x => x.1 = i).isNone with
    | some i => if s.vppOk then ({ s with instKeys := tset s.instKeys i fp }, stDone, bytesLE 4 i) else (s, stFailed, [])
    | none => (s, stRefused, []))

/-- SHIPLOCK (R388): MAKER moves to SHIPPED. -/
def execShiplock (s : State) : Out :=
  .next (s.command 0x303 0 (fun r => r = 3 && s.lcs = 1) true fun s _ _ =>
    if s.vppOk then (s.setLcs 2, stDone, []) else (s, stFailed, []))

end Sys2Proof.Machine
end

