-- ==== Sys2Proof/Machine/Dispatch.lean ====
section
/-! DEFINITION. The dispatch: one arm for each command of the opcode table, each a call of its meaning. -/

namespace Sys2Proof.Machine

/-- A command's effect on everything but the queue. -/
def exec (i : Instr) (s : State) : Host.Outcome State Fault Refusal :=
  match i with
  -- spec/02: whorls and turns
  | .slotTurn n => Sys2Proof.Machine.execSlotTurn n s
  | .shadowCheck n => Sys2Proof.Machine.execShadowCheck n s
  | .shadowSwap n => Sys2Proof.Machine.execShadowSwap n s
  | .slotWrite who n e val => Sys2Proof.Machine.execSlotWrite who n e val s
  | .slotHold who n hold => Sys2Proof.Machine.execSlotHold who n hold s
  | .threadStart who g nodon => Sys2Proof.Machine.execThreadStart who g nodon s
  | .threadHalt who g nodon => Sys2Proof.Machine.execThreadHalt who g nodon s
  | .threadClrf who g nodon => Sys2Proof.Machine.execThreadClrf who g nodon s
  | .evpendClear who g val => Sys2Proof.Machine.execEvpendClear who g val s
  | .deadlineArm who g val => Sys2Proof.Machine.execDeadlineArm who g val s
  | .deadlineFire g => Sys2Proof.Machine.execDeadlineFire g s
  | .eventWake g => Sys2Proof.Machine.execEventWake g s
  | .unitEventPending k => Sys2Proof.Machine.execUnitEventPending k s
  | .channelConfig who n c val => Sys2Proof.Machine.execChannelConfig who n c val s
  | .channelUnblock g => Sys2Proof.Machine.execChannelUnblock g s
  | .xchanConfig who n x val => Sys2Proof.Machine.execXchanConfig who n x val s
  | .xchanArrive n x => Sys2Proof.Machine.execXchanArrive n x s
  | .channelFlush who n ch => Sys2Proof.Machine.execChannelFlush who n ch s
  | .frameAgeExpire n ch => Sys2Proof.Machine.execFrameAgeExpire n ch s
  | .whorlGate n => Sys2Proof.Machine.execWhorlGate n s
  | .whorlWake n => Sys2Proof.Machine.execWhorlWake n s
  | .stall n => Sys2Proof.Machine.execStall n s
  | .quietWatch => Sys2Proof.Machine.execQuietWatch s
  | .notePop who n esc => Sys2Proof.Machine.execNotePop who n esc s
  | .farLoadComplete g => Sys2Proof.Machine.execFarLoadComplete g s
  | .storeDrain g => Sys2Proof.Machine.execStoreDrain g s
  | .divideComplete g => Sys2Proof.Machine.execDivideComplete g s
  -- spec/05: exceptions
  | .exceptionEntry g => Sys2Proof.Machine.execExceptionEntry g s
  | .asyncCauseTaken g => Sys2Proof.Machine.execAsyncCauseTaken g s
  -- spec/03, spec/04: instructions
  | .pair g a b => Sys2Proof.Machine.execPair g a b s
  | .add g rd rs1 rs2 => Sys2Proof.Machine.execAdd g rd rs1 rs2 s
  | .addu g rd rs1 rs2 => Sys2Proof.Machine.execAddu g rd rs1 rs2 s
  | .sub g rd rs1 rs2 => Sys2Proof.Machine.execSub g rd rs1 rs2 s
  | .subu g rd rs1 rs2 => Sys2Proof.Machine.execSubu g rd rs1 rs2 s
  | .neg g rd rs1 => Sys2Proof.Machine.execNeg g rd rs1 s
  | .and g rd rs1 rs2 => Sys2Proof.Machine.execAnd g rd rs1 rs2 s
  | .or g rd rs1 rs2 => Sys2Proof.Machine.execOr g rd rs1 rs2 s
  | .xor g rd rs1 rs2 => Sys2Proof.Machine.execXor g rd rs1 rs2 s
  | .shl g rd rs1 rs2 => Sys2Proof.Machine.execShl g rd rs1 rs2 s
  | .shr g rd rs1 rs2 => Sys2Proof.Machine.execShr g rd rs1 rs2 s
  | .sra g rd rs1 rs2 => Sys2Proof.Machine.execSra g rd rs1 rs2 s
  | .sxb g rd rs1 => Sys2Proof.Machine.execSxb g rd rs1 s
  | .sxh g rd rs1 => Sys2Proof.Machine.execSxh g rd rs1 s
  | .zxb g rd rs1 => Sys2Proof.Machine.execZxb g rd rs1 s
  | .zxh g rd rs1 => Sys2Proof.Machine.execZxh g rd rs1 s
  | .ceq g rd rs1 rs2 => Sys2Proof.Machine.execCeq g rd rs1 rs2 s
  | .cne g rd rs1 rs2 => Sys2Proof.Machine.execCne g rd rs1 rs2 s
  | .clt g rd rs1 rs2 => Sys2Proof.Machine.execClt g rd rs1 rs2 s
  | .cltu g rd rs1 rs2 => Sys2Proof.Machine.execCltu g rd rs1 rs2 s
  | .cle g rd rs1 rs2 => Sys2Proof.Machine.execCle g rd rs1 rs2 s
  | .cleu g rd rs1 rs2 => Sys2Proof.Machine.execCleu g rd rs1 rs2 s
  | .addd g rd rs1 rs2 => Sys2Proof.Machine.execAddd g rd rs1 rs2 s
  | .subd g rd rs1 rs2 => Sys2Proof.Machine.execSubd g rd rs1 rs2 s
  | .mul g rd rs1 rs2 => Sys2Proof.Machine.execMul g rd rs1 rs2 s
  | .mulu g rd rs1 rs2 => Sys2Proof.Machine.execMulu g rd rs1 rs2 s
  | .mulh g rd rs1 rs2 => Sys2Proof.Machine.execMulh g rd rs1 rs2 s
  | .mulhu g rd rs1 rs2 => Sys2Proof.Machine.execMulhu g rd rs1 rs2 s
  | .mulw g rd rs1 rs2 => Sys2Proof.Machine.execMulw g rd rs1 rs2 s
  | .mulwu g rd rs1 rs2 => Sys2Proof.Machine.execMulwu g rd rs1 rs2 s
  | .div g rd rs1 rs2 => Sys2Proof.Machine.execDiv g rd rs1 rs2 s
  | .divu g rd rs1 rs2 => Sys2Proof.Machine.execDivu g rd rs1 rs2 s
  | .rem g rd rs1 rs2 => Sys2Proof.Machine.execRem g rd rs1 rs2 s
  | .addq g rd rs1 rs2 sat => Sys2Proof.Machine.execAddq g rd rs1 rs2 sat s
  | .subq g rd rs1 rs2 sat => Sys2Proof.Machine.execSubq g rd rs1 rs2 sat s
  | .mulq g rd rs1 rs2 sat => Sys2Proof.Machine.execMulq g rd rs1 rs2 sat s
  | .addp g rd rs1 rs2 sat => Sys2Proof.Machine.execAddp g rd rs1 rs2 sat s
  | .subp g rd rs1 rs2 sat => Sys2Proof.Machine.execSubp g rd rs1 rs2 sat s
  | .mulp g rd rs1 rs2 sat => Sys2Proof.Machine.execMulp g rd rs1 rs2 sat s
  | .aclr g a => Sys2Proof.Machine.execAclr g a s
  | .amov g a rs1 => Sys2Proof.Machine.execAmov g a rs1 s
  | .maci g a rs1 rs2 => Sys2Proof.Machine.execMaci g a rs1 rs2 s
  | .msui g a rs1 rs2 => Sys2Proof.Machine.execMsui g a rs1 rs2 s
  | .macu g a rs1 rs2 => Sys2Proof.Machine.execMacu g a rs1 rs2 s
  | .macq g a rs1 rs2 => Sys2Proof.Machine.execMacq g a rs1 rs2 s
  | .msuq g a rs1 rs2 => Sys2Proof.Machine.execMsuq g a rs1 rs2 s
  | .macp g a rs1 rs2 => Sys2Proof.Machine.execMacp g a rs1 rs2 s
  | .ash g a imm => Sys2Proof.Machine.execAsh g a imm s
  | .extq g rd a sat => Sys2Proof.Machine.execExtq g rd a sat s
  | .exth g rd a sat => Sys2Proof.Machine.execExth g rd a sat s
  | .axl g rd a => Sys2Proof.Machine.execAxl g rd a s
  | .axh g rd a => Sys2Proof.Machine.execAxh g rd a s
  | .axg g rd a => Sys2Proof.Machine.execAxg g rd a s
  | .asat g rd a sat => Sys2Proof.Machine.execAsat g rd a sat s
  | .mfs g rd sr => Sys2Proof.Machine.execMfs g rd sr s
  | .mts g sr rs1 => Sys2Proof.Machine.execMts g sr rs1 s
  | .wfe g rd rs1 => Sys2Proof.Machine.execWfe g rd rs1 s
  | .sev g rs1 => Sys2Proof.Machine.execSev g rs1 s
  | .halt g => Sys2Proof.Machine.execHalt g s
  | .brk g => Sys2Proof.Machine.execBrk g s
  | .tbr g rd => Sys2Proof.Machine.execTbr g rd s
  | .fence g => Sys2Proof.Machine.execFence g s
  | .scall g => Sys2Proof.Machine.execScall g s
  | .sret g => Sys2Proof.Machine.execSret g s
  | .eret g => Sys2Proof.Machine.execEret g s
  | .hspill g rs1 => Sys2Proof.Machine.execHspill g rs1 s
  | .hfill g rs1 => Sys2Proof.Machine.execHfill g rs1 s
  | .jr g rs1 => Sys2Proof.Machine.execJr g rs1 s
  | .callr g rs1 => Sys2Proof.Machine.execCallr g rs1 s
  | .ret g => Sys2Proof.Machine.execRet g s
  | .addi g rd rs1 imm => Sys2Proof.Machine.execAddi g rd rs1 imm s
  | .addiu g rd rs1 imm => Sys2Proof.Machine.execAddiu g rd rs1 imm s
  | .andi g rd rs1 imm => Sys2Proof.Machine.execAndi g rd rs1 imm s
  | .ori g rd rs1 imm => Sys2Proof.Machine.execOri g rd rs1 imm s
  | .xori g rd rs1 imm => Sys2Proof.Machine.execXori g rd rs1 imm s
  | .shli g rd rs1 k => Sys2Proof.Machine.execShli g rd rs1 k s
  | .shri g rd rs1 k => Sys2Proof.Machine.execShri g rd rs1 k s
  | .srai g rd rs1 k => Sys2Proof.Machine.execSrai g rd rs1 k s
  | .ceqi g rd rs1 imm => Sys2Proof.Machine.execCeqi g rd rs1 imm s
  | .cnei g rd rs1 imm => Sys2Proof.Machine.execCnei g rd rs1 imm s
  | .clti g rd rs1 imm => Sys2Proof.Machine.execClti g rd rs1 imm s
  | .cltui g rd rs1 imm => Sys2Proof.Machine.execCltui g rd rs1 imm s
  | .clei g rd rs1 imm => Sys2Proof.Machine.execClei g rd rs1 imm s
  | .cleui g rd rs1 imm => Sys2Proof.Machine.execCleui g rd rs1 imm s
  | .li g rd imm => Sys2Proof.Machine.execLi g rd imm s
  | .lui g rd imm => Sys2Proof.Machine.execLui g rd imm s
  | .lb g rd rs1 imm => Sys2Proof.Machine.execLb g rd rs1 imm s
  | .lbu g rd rs1 imm => Sys2Proof.Machine.execLbu g rd rs1 imm s
  | .lh g rd rs1 imm => Sys2Proof.Machine.execLh g rd rs1 imm s
  | .lhu g rd rs1 imm => Sys2Proof.Machine.execLhu g rd rs1 imm s
  | .lw g rd rs1 imm => Sys2Proof.Machine.execLw g rd rs1 imm s
  | .ld g rd rs1 imm => Sys2Proof.Machine.execLd g rd rs1 imm s
  | .sb g rd rs1 imm => Sys2Proof.Machine.execSb g rd rs1 imm s
  | .sh g rd rs1 imm => Sys2Proof.Machine.execSh g rd rs1 imm s
  | .sw g rd rs1 imm => Sys2Proof.Machine.execSw g rd rs1 imm s
  | .sd g rd rs1 imm => Sys2Proof.Machine.execSd g rd rs1 imm s
  | .amadd g rd rs1 rs2 => Sys2Proof.Machine.execAmadd g rd rs1 rs2 s
  | .amswap g rd rs1 rs2 => Sys2Proof.Machine.execAmswap g rd rs1 rs2 s
  | .amcas g rd rs1 rs2 => Sys2Proof.Machine.execAmcas g rd rs1 rs2 s
  | .rep g intr reg imm => Sys2Proof.Machine.execRep g intr reg imm s
  | .bz g rs1 off => Sys2Proof.Machine.execBz g rs1 off s
  | .bnz g rs1 off => Sys2Proof.Machine.execBnz g rs1 off s
  | .j g off => Sys2Proof.Machine.execJ g off s
  | .call g off => Sys2Proof.Machine.execCall g off s
  | .chs g rs1 rs2 => Sys2Proof.Machine.execChs g rs1 rs2 s
  | .chse g rs1 rs2 => Sys2Proof.Machine.execChse g rs1 rs2 s
  | .chr g rd rs1 => Sys2Proof.Machine.execChr g rd rs1 s
  | .chts g rd rs1 rs2 fin => Sys2Proof.Machine.execChts g rd rs1 rs2 fin s
  | .chtr g rd rs1 => Sys2Proof.Machine.execChtr g rd rs1 s
  | .chst g rd rs1 => Sys2Proof.Machine.execChst g rd rs1 s
  | .bdb g rs1 rs2 => Sys2Proof.Machine.execBdb g rs1 rs2 s
  | .bpop g rd rs1 => Sys2Proof.Machine.execBpop g rd rs1 s
  | .bpopRelease g rd rs1 => Sys2Proof.Machine.execBpopRelease g rd rs1 s
  | .balloc g rd rs1 => Sys2Proof.Machine.execBalloc g rd rs1 s
  | .bfree g rs1 => Sys2Proof.Machine.execBfree g rs1 s
  | .bcrd g rd rs1 rs2 => Sys2Proof.Machine.execBcrd g rd rs1 rs2 s
  | .drgo g rd rs1 rs2 => Sys2Proof.Machine.execDrgo g rd rs1 rs2 s
  | .plygoPass g rd rs1 rs2 => Sys2Proof.Machine.execPlygoPass g rd rs1 rs2 s
  | .plygoPost g rd rs1 rs2 => Sys2Proof.Machine.execPlygoPost g rd rs1 rs2 s
  | .plygoArm g rd rs1 rs2 => Sys2Proof.Machine.execPlygoArm g rd rs1 rs2 s
  | .plygoAbort g rd rs1 rs2 => Sys2Proof.Machine.execPlygoAbort g rd rs1 rs2 s
  | .sknOpen g rd rs1 rs2 => Sys2Proof.Machine.execSknOpen g rd rs1 rs2 s
  | .sknEnter g rd rs1 rs2 => Sys2Proof.Machine.execSknEnter g rd rs1 rs2 s
  | .sknSnap g rd rs1 rs2 => Sys2Proof.Machine.execSknSnap g rd rs1 rs2 s
  | .sknDrain g rd rs1 rs2 => Sys2Proof.Machine.execSknDrain g rd rs1 rs2 s
  | .sknClose g rd rs1 rs2 => Sys2Proof.Machine.execSknClose g rd rs1 rs2 s
  | .trf g rs1 => Sys2Proof.Machine.execTrf g rs1 s
  | .pinw g rs1 rs2 => Sys2Proof.Machine.execPinw g rs1 rs2 s
  | .pinr g rd rs1 => Sys2Proof.Machine.execPinr g rd rs1 s
  | .pint g rs1 rs2 => Sys2Proof.Machine.execPint g rs1 rs2 s
  | .cxp g port rd rs1 rs2 fn => Sys2Proof.Machine.execCxp g port rd rs1 rs2 fn s
  | .cxpResponse g val => Sys2Proof.Machine.execCxpResponse g val s
  | .cxpTimeout g => Sys2Proof.Machine.execCxpTimeout g s
  -- spec/06: memory
  | .scrub who val => Sys2Proof.Machine.execScrub who val s
  | .rawRead who val => Sys2Proof.Machine.execRawRead who val s
  | .rawWrite who val => Sys2Proof.Machine.execRawWrite who val s
  | .eccCountClear who val => Sys2Proof.Machine.execEccCountClear who val s
  | .remapLock who val => Sys2Proof.Machine.execRemapLock who val s
  | .remapWrite who row val => Sys2Proof.Machine.execRemapWrite who row val s
  -- spec/07: bobbins and the ledger
  | .bobSetWrite who k => Sys2Proof.Machine.execBobSetWrite who k s
  | .bobSetRead who k => Sys2Proof.Machine.execBobSetRead who k s
  | .bobSetClear who k => Sys2Proof.Machine.execBobSetClear who k s
  | .bobbinEnable who k val => Sys2Proof.Machine.execBobbinEnable who k val s
  | .doorbell who k cnt => Sys2Proof.Machine.execDoorbell who k cnt s
  | .release who k cnt => Sys2Proof.Machine.execRelease who k cnt s
  | .doorbellArrive g => Sys2Proof.Machine.execDoorbellArrive g s
  | .txSlipFetch k host => Sys2Proof.Machine.execTxSlipFetch k host s
  | .txMessageStart k host => Sys2Proof.Machine.execTxMessageStart k host s
  | .norouteRetry k host => Sys2Proof.Machine.execNorouteRetry k host s
  | .cellFramed p => Sys2Proof.Machine.execCellFramed p s
  | .retire who val => Sys2Proof.Machine.execRetire who val s
  | .grantAdjust who val => Sys2Proof.Machine.execGrantAdjust who val s
  | .ledgerOverride who val => Sys2Proof.Machine.execLedgerOverride who val s
  | .guaranteeBreak who val => Sys2Proof.Machine.execGuaranteeBreak who val s
  | .ledgerCheck => Sys2Proof.Machine.execLedgerCheck s
  -- spec/08: the wire
  | .codewordReceived p syms => Sys2Proof.Machine.execCodewordReceived p syms s
  | .lossOfSignal p => Sys2Proof.Machine.execLossOfSignal p s
  | .cellReceived p cell tag => Sys2Proof.Machine.execCellReceived p cell tag s
  | .transitRelease p => Sys2Proof.Machine.execTransitRelease p s
  | .controlCellReceived p cell tag accepted => Sys2Proof.Machine.execControlCellReceived p cell tag accepted s
  | .nakReceived p cell tag => Sys2Proof.Machine.execNakReceived p cell tag s
  | .creditBlock p cell tag => Sys2Proof.Machine.execCreditBlock p cell tag s
  | .creditReturnSend p => Sys2Proof.Machine.execCreditReturnSend p s
  | .syncReceived p cell tag => Sys2Proof.Machine.execSyncReceived p cell tag s
  | .syncRequest p => Sys2Proof.Machine.execSyncRequest p s
  | .replayTimeout p => Sys2Proof.Machine.execReplayTimeout p s
  | .nakRepeat p => Sys2Proof.Machine.execNakRepeat p s
  | .keyExhaust p => Sys2Proof.Machine.execKeyExhaust p s
  | .keyEraseRetrain p => Sys2Proof.Machine.execKeyEraseRetrain p s
  | .egressSlot p => Sys2Proof.Machine.execEgressSlot p s
  | .controlSend who p val => Sys2Proof.Machine.execControlSend who p val s
  | .controlPop who p val => Sys2Proof.Machine.execControlPop who p val s
  | .linkCounterClear who p val => Sys2Proof.Machine.execLinkCounterClear who p val s
  | .linkEnable who p val => Sys2Proof.Machine.execLinkEnable who p val s
  | .retrainTimeout p => Sys2Proof.Machine.execRetrainTimeout p s
  | .drainDone p => Sys2Proof.Machine.execDrainDone p s
  -- spec/09: forwarding and the reel
  | .routeCommit who d val => Sys2Proof.Machine.execRouteCommit who d val s
  | .messageComplete c => Sys2Proof.Machine.execMessageComplete c s
  | .landingSpaceFree c => Sys2Proof.Machine.execLandingSpaceFree c s
  | .orderedLanding c => Sys2Proof.Machine.execOrderedLanding c s
  | .stallTimerExpire c => Sys2Proof.Machine.execStallTimerExpire c s
  | .ctxHold who c => Sys2Proof.Machine.execCtxHold who c s
  | .ctxResend who c => Sys2Proof.Machine.execCtxResend who c s
  | .ctxAbort who c => Sys2Proof.Machine.execCtxAbort who c s
  | .ackSend src => Sys2Proof.Machine.execAckSend src s
  | .ackReceived => Sys2Proof.Machine.execAckReceived s
  | .routeCounterClear who val => Sys2Proof.Machine.execRouteCounterClear who val s
  | .reelSwapRequest who p val => Sys2Proof.Machine.execReelSwapRequest who p val s
  | .reelArm who val => Sys2Proof.Machine.execReelArm who val s
  | .reelBoundary p => Sys2Proof.Machine.execReelBoundary p s
  -- spec/10: draft engines
  | .draftGoWrite who e val => Sys2Proof.Machine.execDraftGoWrite who e val s
  | .draftEnable who e val => Sys2Proof.Machine.execDraftEnable who e val s
  | .draftCopy e h => Sys2Proof.Machine.execDraftCopy e h s
  | .draftFill e h => Sys2Proof.Machine.execDraftFill e h s
  | .draftPut e h => Sys2Proof.Machine.execDraftPut e h s
  | .draftGet e h => Sys2Proof.Machine.execDraftGet e h s
  | .plycopy e h => Sys2Proof.Machine.execPlycopy e h s
  | .draftFence e h => Sys2Proof.Machine.execDraftFence e h s
  | .draftEvent e h => Sys2Proof.Machine.execDraftEvent e h s
  | .draftLink e h => Sys2Proof.Machine.execDraftLink e h s
  | .draftStop e h => Sys2Proof.Machine.execDraftStop e h s
  | .serviceCommand e h => Sys2Proof.Machine.execServiceCommand e h s
  | .draftPause who e => Sys2Proof.Machine.execDraftPause who e s
  | .draftResume who e => Sys2Proof.Machine.execDraftResume who e s
  | .draftAbort who e => Sys2Proof.Machine.execDraftAbort who e s
  | .draftClrf who e => Sys2Proof.Machine.execDraftClrf who e s
  | .draftCounterClear who e val => Sys2Proof.Machine.execDraftCounterClear who e val s
  -- spec/11: ply units
  | .passComplete u => Sys2Proof.Machine.execPassComplete u s
  | .fenceRecorded u j => Sys2Proof.Machine.execFenceRecorded u j s
  | .groupFlip g => Sys2Proof.Machine.execGroupFlip g s
  | .groupDisarm who g val => Sys2Proof.Machine.execGroupDisarm who g val s
  | .plyClrf who u => Sys2Proof.Machine.execPlyClrf who u s
  | .plyAbort who u => Sys2Proof.Machine.execPlyAbort who u s
  | .plyEnable who u val => Sys2Proof.Machine.execPlyEnable who u val s
  | .plyCounterClear who u val => Sys2Proof.Machine.execPlyCounterClear who u val s
  | .startingEnd u => Sys2Proof.Machine.execStartingEnd u s
  | .stoppingEnd u => Sys2Proof.Machine.execStoppingEnd u s
  -- spec/12: skein and fabric time
  | .tbRateWrite who val => Sys2Proof.Machine.execTbRateWrite who val s
  | .tbSlew who val => Sys2Proof.Machine.execTbSlew who val s
  | .tbStep who val => Sys2Proof.Machine.execTbStep who val s
  | .tbSnap who val => Sys2Proof.Machine.execTbSnap who val s
  | .tsinfoSend p => Sys2Proof.Machine.execTsinfoSend p s
  | .tsinfoReceived p cell tag => Sys2Proof.Machine.execTsinfoReceived p cell tag s
  | .scheduledAction j => Sys2Proof.Machine.execScheduledAction j s
  | .skeinCellReceived => Sys2Proof.Machine.execSkeinCellReceived s
  | .skeinComplete c => Sys2Proof.Machine.execSkeinComplete c s
  | .skeinTimeout c => Sys2Proof.Machine.execSkeinTimeout c s
  | .markerReceived p => Sys2Proof.Machine.execMarkerReceived p s
  | .skeinEnable who val => Sys2Proof.Machine.execSkeinEnable who val s
  -- spec/13: tensioner and Snag
  | .gradientBlock p smm mse grad => Sys2Proof.Machine.execGradientBlock p smm mse grad s
  | .tnsSwapRequest who p val => Sys2Proof.Machine.execTnsSwapRequest who p val s
  | .tnsSwap p => Sys2Proof.Machine.execTnsSwap p s
  | .revert p => Sys2Proof.Machine.execRevert p s
  | .probationEnd p => Sys2Proof.Machine.execProbationEnd p s
  | .tnsRevertCmd who p val => Sys2Proof.Machine.execTnsRevertCmd who p val s
  | .txEqSwap p => Sys2Proof.Machine.execTxEqSwap p s
  | .tnsCounterClear who p val => Sys2Proof.Machine.execTnsCounterClear who p val s
  | .recalDue p => Sys2Proof.Machine.execRecalDue p s
  | .ageingMeasure who val => Sys2Proof.Machine.execAgeingMeasure who val s
  | .ageingDone str ref => Sys2Proof.Machine.execAgeingDone str ref s
  | .snagEnable who val => Sys2Proof.Machine.execSnagEnable who val s
  | .snagAudack who val => Sys2Proof.Machine.execSnagAudack who val s
  | .snagReorderRelease p => Sys2Proof.Machine.execSnagReorderRelease p s
  | .squelchEnd p => Sys2Proof.Machine.execSquelchEnd p s
  -- spec/14: the treadle network and the service pins
  | .swfire who w val => Sys2Proof.Machine.execSwfire who w val s
  | .treadleEvent c => Sys2Proof.Machine.execTreadleEvent c s
  | .treadleEmit c => Sys2Proof.Machine.execTreadleEmit c s
  | .consumerAck who c val => Sys2Proof.Machine.execConsumerAck who c val s
  | .consumerConfig who c val => Sys2Proof.Machine.execConsumerConfig who c val s
  | .groupControl who g val => Sys2Proof.Machine.execGroupControl who g val s
  | .matrixWrite who c w val => Sys2Proof.Machine.execMatrixWrite who c w val s
  | .configCapture => Sys2Proof.Machine.execConfigCapture s
  | .pinEdge j ext => Sys2Proof.Machine.execPinEdge j ext s
  | .pinOutWrite who w val => Sys2Proof.Machine.execPinOutWrite who w val s
  | .pinSet who w val => Sys2Proof.Machine.execPinSet who w val s
  | .pinClr who w val => Sys2Proof.Machine.execPinClr who w val s
  | .pinTgl who w val => Sys2Proof.Machine.execPinTgl who w val s
  | .pinConfig who j val => Sys2Proof.Machine.execPinConfig who j val s
  | .pinOwner who j val => Sys2Proof.Machine.execPinOwner who j val s
  | .pinFlush who j val => Sys2Proof.Machine.execPinFlush who j val s
  | .timedEdge j => Sys2Proof.Machine.execTimedEdge j s
  | .pinCapture j rising => Sys2Proof.Machine.execPinCapture j rising s
  | .bankPower k good => Sys2Proof.Machine.execBankPower k good s
  | .sleepRequest level => Sys2Proof.Machine.execSleepRequest level s
  -- spec/15: security and roles
  | .secSubmit who n val => Sys2Proof.Machine.execSecSubmit who n val s
  | .hash => Sys2Proof.Machine.execHash s
  | .random => Sys2Proof.Machine.execRandom s
  | .pubid => Sys2Proof.Machine.execPubid s
  | .signId => Sys2Proof.Machine.execSignId s
  | .verify => Sys2Proof.Machine.execVerify s
  | .kemgen => Sys2Proof.Machine.execKemgen s
  | .encap => Sys2Proof.Machine.execEncap s
  | .decap => Sys2Proof.Machine.execDecap s
  | .deriveLink => Sys2Proof.Machine.execDeriveLink s
  | .hmac => Sys2Proof.Machine.execHmac s
  | .openSession => Sys2Proof.Machine.execOpenSession s
  | .unwrapSlot => Sys2Proof.Machine.execUnwrapSlot s
  | .erase => Sys2Proof.Machine.execErase s
  | .auditAppend => Sys2Proof.Machine.execAuditAppend s
  | .attestOp => Sys2Proof.Machine.execAttestOp s
  | .grantRole => Sys2Proof.Machine.execGrantRole s
  | .grantClear who val => Sys2Proof.Machine.execGrantClear who val s
  | .mailboxGo who val => Sys2Proof.Machine.execMailboxGo who val s
  | .mailboxPost who val => Sys2Proof.Machine.execMailboxPost who val s
  | .roleFrame bob frame => Sys2Proof.Machine.execRoleFrame bob frame s
  | .sessionTimeout role => Sys2Proof.Machine.execSessionTimeout role s
  | .challenge => Sys2Proof.Machine.execChallenge s
  | .openRole => Sys2Proof.Machine.execOpenRole s
  | .closeRole => Sys2Proof.Machine.execCloseRole s
  | .attest => Sys2Proof.Machine.execAttest s
  | .zload obj areas threads => Sys2Proof.Machine.execZload obj areas threads s
  | .jobkey items => Sys2Proof.Machine.execJobkey items s
  | .counters addrs => Sys2Proof.Machine.execCounters addrs s
  | .audexport first => Sys2Proof.Machine.execAudexport first s
  | .debugOpen sScope => Sys2Proof.Machine.execDebugOpen sScope s
  | .regw l => Sys2Proof.Machine.execRegw l s
  | .worldmap l => Sys2Proof.Machine.execWorldmap l s
  | .snagCommand l => Sys2Proof.Machine.execSnagCommand l s
  | .approve objs => Sys2Proof.Machine.execApprove objs s
  | .svncommit => Sys2Proof.Machine.execSvncommit s
  | .march fails => Sys2Proof.Machine.execMarch fails s
  | .restart => Sys2Proof.Machine.execRestart s
  | .regwm l => Sys2Proof.Machine.execRegwm l s
  | .lgrovr set_ v0 v1 v2 v3 => Sys2Proof.Machine.execLgrovr set_ v0 v1 v2 v3 s
  | .inskey fp => Sys2Proof.Machine.execInskey fp s
  | .shiplock => Sys2Proof.Machine.execShiplock s
  -- spec/16: the host attach port
  | .hreqRd c hdr => Sys2Proof.Machine.execHreqRd c hdr s
  | .hreqWr c hdr be data => Sys2Proof.Machine.execHreqWr c hdr be data s
  | .hreqWrdb c hdr be data => Sys2Proof.Machine.execHreqWrdb c hdr be data s
  | .hostCreditReturn c hrsp dreq => Sys2Proof.Machine.execHostCreditReturn c hrsp dreq s
  | .drspReceived c hdr data => Sys2Proof.Machine.execDrspReceived c hdr data s
  | .writeFailureReport c hdr => Sys2Proof.Machine.execWriteFailureReport c hdr s
  | .readTimeout c tag => Sys2Proof.Machine.execReadTimeout c tag s
  | .interruptRearm who w val => Sys2Proof.Machine.execInterruptRearm who w val s
  | .interruptSoftwareFire who w val => Sys2Proof.Machine.execInterruptSoftwareFire who w val s
  | .hapEnable who c val => Sys2Proof.Machine.execHapEnable who c val s
  | .hclkLoss runs => Sys2Proof.Machine.execHclkLoss runs s
  | .hapCounterClear who c val => Sys2Proof.Machine.execHapCounterClear who c val s
  -- spec/17, spec/18: start-up, power, thermal sensing
  | .resetEntry cause => Sys2Proof.Machine.execResetEntry cause s
  | .supplyOutOfRange dom good => Sys2Proof.Machine.execSupplyOutOfRange dom good s
  | .resetRelease => Sys2Proof.Machine.execResetRelease s
  | .resetCommand who val => Sys2Proof.Machine.execResetCommand who val s
  | .quadPllLock q => Sys2Proof.Machine.execQuadPllLock q s
  | .powerRun who => Sys2Proof.Machine.execPowerRun who s
  | .powerDoze who => Sys2Proof.Machine.execPowerDoze who s
  | .powerDeepSleep who => Sys2Proof.Machine.execPowerDeepSleep who s
  | .wake w => Sys2Proof.Machine.execWake w s
  | .wclkDivider who val => Sys2Proof.Machine.execWclkDivider who val s
  | .dividerSwitch => Sys2Proof.Machine.execDividerSwitch s
  | .thermalConversion t0 t1 t2 t3 t4 => Sys2Proof.Machine.execThermalConversion t0 t1 t2 t3 t4 s
  | .bootVerify fw appr image items => Sys2Proof.Machine.execBootVerify fw appr image items s
  -- spec/02, spec/05, spec/19: debug, and what the other rows leave
  | .debugStop who => Sys2Proof.Machine.execDebugStop who s
  | .threadStopped g => Sys2Proof.Machine.execThreadStopped g s
  | .debugResume who => Sys2Proof.Machine.execDebugResume who s
  | .debugStep who => Sys2Proof.Machine.execDebugStep who s
  | .debugRegRead who => Sys2Proof.Machine.execDebugRegRead who s
  | .debugRegWrite who val => Sys2Proof.Machine.execDebugRegWrite who val s
  | .debugMemRead who => Sys2Proof.Machine.execDebugMemRead who s
  | .debugMemWrite who val => Sys2Proof.Machine.execDebugMemWrite who val s
  | .traceEnable who val => Sys2Proof.Machine.execTraceEnable who val s
  | .registerWrite who addr val => Sys2Proof.Machine.execRegisterWrite who addr val s
  | .rclkEdge => Sys2Proof.Machine.execRclkEdge s
  | .laneStopsDead p => Sys2Proof.Machine.execLaneStopsDead p s
  | .farUnitComplete g => Sys2Proof.Machine.execFarUnitComplete g s
  | .vppOtpInRange good => Sys2Proof.Machine.execVppOtpInRange good s
  | .lxSignalChange k level => Sys2Proof.Machine.execLxSignalChange k level s
  | .illegalInstruction g word => Sys2Proof.Machine.execIllegalInstruction g word s

end Sys2Proof.Machine
end

