-- ==== Sys2Proof/Machine/Tick.lean ====
section
/-! DEFINITION. One WCLK cycle with no command waiting (R31, R33): the table has no row for it. -/

namespace Sys2Proof.Machine

/-- A round completed: WHL_ROUND of every whorl, and a return to RUN that waited for the boundary (R33, R443). -/
def State.roundEnd (s : State) : State :=
  ((List.range 40).foldl (fun s n => s.wr (addrWhlRound n) (s.rd (addrWhlRound n) + 1)) s).backToRun

/-- The slot-position counter moves, and the shadow of the timebase advances by the amount of an RCLK period scaled to a WCLK period
(R31, R33). -/
def State.clocked (s : State) : State :=
  { s with cycle := s.cycle + 1, shadow := wrapTo 104 ((s.shadow : Int) + s.cycleAdd) }

/-- What belongs to one WCLK cycle ends with it (R20). -/
def State.cycleEnd (s : State) : State := { s with evNow := [], swNow := [] }

/-- One WCLK cycle while WCLK runs. -/
def State.tick (s : State) : State :=
  if !s.started || s.asleep then s.cycleEnd
  else
    let s := s.cycleEnd.clocked.auditDue
    if s.cycle % 64 = 0 then s.roundEnd else s

end Sys2Proof.Machine
end

