-- ==== Sys2Proof/WellFormed.lean ====
section
/-! DEFINITION. Which commands are well formed: the lengths that the spec gives to what comes from outside, where the operand's
type does not give them already. The meanings are total on ill-formed commands too. -/

namespace Sys2Proof

/-- A cell carries 256 bytes, or 64 as a short cell (R196). -/
def Cell.wf (c : Cell) : Bool := c.pay.length = 256 || c.pay.length = 64
/-- A signed object's header is 4,864 bytes (R384). -/
def SignedObj.wf (o : SignedObj) : Bool := o.hdr.length = 4864
/-- A key package wraps a 32-byte key with its tag, beside an ML-KEM-1024 ciphertext and a P-384 share (R380, R398). -/
def SlotItem.wf : SlotItem → Bool
  | .install _ _ _ enc w => enc.length = 1665 && w.length = 48
  | .erase _ => true
/-- A command fetched from host memory has 64 bytes (R262). -/
def DraftHost.wf (h : DraftHost) : Bool :=
  (match h.cmd with | some d => d.length = 64 | none => true) && (match h.next with | some d => d.length = 64 | none => true)
/-- A data field of the host attach port covers one line of 128 bytes (spec/16, "Channels"). -/
def lineWf (d : List (BitVec 8)) : Bool := d.length = 128
/-- A register item names a word address. -/
def itemWf (x : Word × Word × Word) : Bool := x.1.toNat % 4 = 0

/-- The command is well formed. -/
def Instr.wf : Instr → Bool
  | .codewordReceived _ syms => syms.length = 272
  | .cellReceived _ c _ => c.wf
  | .controlCellReceived _ c _ _ => c.wf
  | .nakReceived _ c _ => c.wf
  | .creditBlock _ c _ => c.wf
  | .syncReceived _ c _ => c.wf
  | .tsinfoReceived _ c _ => c.wf
  | .gradientBlock _ _ _ grad => grad.length = 8
  | .ageingDone str ref => str.length = 64 && ref.length = 64
  | .draftCopy _ h | .draftFill _ h | .draftPut _ h | .draftGet _ h | .plycopy _ h | .draftFence _ h | .draftEvent _ h
  | .draftLink _ h | .draftStop _ h | .serviceCommand _ h => h.wf
  | .hreqWr _ _ _ d => lineWf d
  | .hreqWrdb _ _ _ d => lineWf d
  | .drspReceived _ _ d => lineWf d
  | .roleFrame _ f => 16 ≤ f.length
  | .zload o _ _ => o.wf
  | .jobkey l => l.all SlotItem.wf
  | .audexport q => q < 2 ^ 64
  | .regw l => l.all itemWf
  | .snagCommand l => l.all itemWf
  | .regwm l => l.all itemWf
  | .approve l => l.all SignedObj.wf
  | .inskey fp => fp.length = 48
  | .bootVerify f a image _ => f.wf && a.wf && image.length ≤ 98304
  | .registerWrite _ a _ => a.toNat % 4 = 0
  | _ => true

end Sys2Proof
end

