-- ==== Sys2Proof/Safety.lean ====
section
/-! DEFINITION. What counts as a safe run: one in which no command ends in a fault or a refusal. -/

namespace Sys2Proof.Machine

/-- The next step of the machine ends in a state. -/
def Safe (s : State) : Prop := ∃ t, step s = .next t

/-- `k` steps of the machine end in a state. -/
def SafeRun (k : Nat) (s : State) : Prop := ∃ t, Sys2Proof.core.run k s = .next t

end Sys2Proof.Machine
end

