-- ==== Sys2Proof/Certificates/Slice0/Obligations.lean ====
section
/-! DEFINITION. The statements for the provers. Each docstring names the rule that the statement formalises, or says what it rests
on; that a row of an instruction runs for a READY thread is the model's choice (log entries 2 and 8). -/

open Sys2Proof Sys2Proof.Machine

/-! ### Shared words of the statements -/

/-- Nothing but thread `g` differs: every other thread, every register, every byte of memory is as before. -/
def Sys2Proof.Machine.onlyThread (g : Nat) (s t : State) : Prop :=
  ∃ x, t = s.setThr g x ∧ (∀ h, h ≠ g → t.thr h = s.thr h) ∧ (∀ a, t.rd a = s.rd a) ∧
    (∀ a, memByte t.mem a = memByte s.mem a)

/-- The command answers a next state, and the state has a property. -/
def Sys2Proof.Machine.completes (o : Out) (P : State → Prop) : Prop := ∃ t, o = .next t ∧ P t

/-- Every other thread is as before. -/
def Sys2Proof.Machine.otherThreads (g : Nat) (s t : State) : Prop := ∀ h, h ≠ g → t.thr h = s.thr h

/-- The general registers of a thread besides one. -/
def Sys2Proof.Machine.otherRegs (rd : Reg) (th u : Thread) : Prop := ∀ r, r ≠ rd → u.get r = th.get r

/-- What a word that writes one general register leaves of its thread. -/
def Sys2Proof.Machine.keepsRest (th u : Thread) : Prop :=
  u.a = th.a ∧ u.st = th.st ∧ u.fx = th.fx ∧ u.lk = th.lk ∧ u.epc = th.epc ∧ u.est = th.est ∧ u.ecause = th.ecause ∧
    u.eaddr = th.eaddr ∧ u.sentry = th.sentry ∧ u.sstack = th.sstack ∧ u.lse = th.lse ∧ u.hrs = th.hrs ∧ u.sbuf = th.sbuf

/-! ### The queue -/

/-- A step runs the command at the front of the queue with the queue's rest. -/
def Obligations.StepRunsFront : Prop :=
  ∀ (s : State) (c : Instr) (rest : List Instr), s.pending = c :: rest → step s = exec c { s with pending := rest }

/-- With an empty queue a step is one WCLK cycle of a block that has started (the model's choice, log 1): the slot position moves
by one, no thread and no queue changes, and no memory unless an entry of the audit log waits for VPP_OTP (R454). -/
def Obligations.EmptyQueueTicks : Prop :=
  ∀ s : State, s.pending = [] →
    ∃ t, step s = .next t ∧ t.threads = s.threads ∧ (s.audDue = [] → t.mem = s.mem) ∧ t.pending = [] ∧
      t.cycle = if s.started && !s.asleep then s.cycle + 1 else s.cycle

/-- No command of the block ends in a fault or a refusal. -/
def Obligations.NoCommandStops : Prop := ∀ (c : Instr) (s : State), ∃ t, exec c s = .next t

/-- Reset: every thread HALTED, memory with nothing listed, the queue empty, no session open. -/
def Sys2Proof.Machine.partResetState : Prop :=
  (∀ g, (State.reset.thr g).state = .halted) ∧ (∀ a, memByte State.reset.mem a = 0) ∧ State.reset.pending = [] ∧
    State.reset.sessions = [] ∧ State.reset.keyStore = [] ∧ Memory.wf State.reset.mem = true

/-- R42: after reset entry `e` of both slot tables names T(e mod 32). -/
def Obligations.ResetSlotTable : Prop :=
  ∀ (n : Fin 40) (e : Fin 64),
    State.reset.rd (0x40000100 + 0x10000 * n.val + 4 * e.val) = BitVec.ofNat 32 (0x80 + e.val % 32) ∧
      State.reset.rd (0x40000200 + 0x10000 * n.val + 4 * e.val) = BitVec.ofNat 32 (0x80 + e.val % 32)

/-- The memory and its check-bit differences are in canonical form. -/
def Sys2Proof.Machine.memoryInv (s : State) : Prop := Memory.wf s.mem = true ∧ twf (fun _ => (0 : BitVec 8)) s.syn = true

/-- Every step keeps the canonical form of memory. -/
def Obligations.StepKeepsMemoryForm : Prop := ∀ s t : State, memoryInv s → step s = .next t → memoryInv t

/-- Reset has the canonical form. -/
def Sys2Proof.Machine.partResetMemoryForm : Prop := memoryInv State.reset

/-- R432, R433: after a power-on reset every thread is HALTED, memory lists nothing (log 3), no command waits, no session is open, and
memory and its check bits have the canonical form. The model's choices it rests on: log entries 3, 4, 51, 87. -/
def Obligations.ResetLeaves : Prop := partResetState ∧ partResetMemoryForm

/-! ### Instruction words -/

/-- Decoding the encoding of an instruction gives it back, for every operand that the encoding admits (R96 to R112). -/
def Obligations.DecodeOfEncode : Prop :=
  ∀ (i : Instr) (g : ThreadNo) (w : Nat) (cxpOn : Fin 4 → Bool),
    encodeWord i = some (g, w) → (∀ k, cxpOn k = true) → w < 2 ^ 32 ∧ decodeWord g cxpOn w = .ok i

/-! ### General registers (R67, R68) and retirement (R34, R89) -/

/-- R67: w0 reads 0 and a write to it is discarded; a write to another register is what that register reads, and no other. -/
def Obligations.ZeroRegister : Prop :=
  ∀ (th : Thread) (r q : Reg) (v : Word),
    th.get 0 = 0 ∧ th.set 0 v = th ∧ (r ≠ 0 → (th.set r v).get r = v) ∧ (q ≠ r → (th.set r v).get q = th.get q) ∧
      keepsRest th (th.set r v)

/-- R89: a word that retires moves pc to the next word; during a repetition rc counts down and pc stays at the REP word until the
last, which moves it past the repeated word. -/
def Obligations.Retirement : Prop :=
  ∀ th : Thread,
    (th.rep = none → th.advance.pc = th.pc + 4 ∧ th.advance.rc = th.rc) ∧
    (th.rep ≠ none → th.rc = 1 → th.advance.pc = th.pc + 8 ∧ th.advance.rc = 0 ∧ th.advance.rep = none) ∧
    (th.rep ≠ none → th.rc ≠ 1 → th.advance.pc = th.pc ∧ th.advance.rc = th.rc - 1 ∧ th.advance.rep = th.rep) ∧
    (∀ r, th.advance.get r = th.get r) ∧ keepsRest th th.advance

/-- The words that write one general register and raise no cause, with the value that R77, R83, R84, R99 and R100 give. -/
def Sys2Proof.Machine.plainResult (s : State) : Instr → Option (ThreadNo × Reg × Word)
  | .addu g d a b => some (g, d, (s.thr g).get a + (s.thr g).get b)
  | .subu g d a b => some (g, d, (s.thr g).get a - (s.thr g).get b)
  | .and g d a b => some (g, d, (s.thr g).get a &&& (s.thr g).get b)
  | .or g d a b => some (g, d, (s.thr g).get a ||| (s.thr g).get b)
  | .xor g d a b => some (g, d, (s.thr g).get a ^^^ (s.thr g).get b)
  | .shl g d a b => some (g, d, (s.thr g).get a <<< (((s.thr g).get b).extractLsb' 0 5).toNat)
  | .shr g d a b => some (g, d, (s.thr g).get a >>> (((s.thr g).get b).extractLsb' 0 5).toNat)
  | .sra g d a b => some (g, d, ((s.thr g).get a).sshiftRight (((s.thr g).get b).extractLsb' 0 5).toNat)
  | .sxb g d a => some (g, d, (((s.thr g).get a).truncate 8).signExtend 32)
  | .sxh g d a => some (g, d, (((s.thr g).get a).truncate 16).signExtend 32)
  | .zxb g d a => some (g, d, (s.thr g).get a &&& 0xFF)
  | .zxh g d a => some (g, d, (s.thr g).get a &&& 0xFFFF)
  | .ceq g d a b => some (g, d, if (s.thr g).get a = (s.thr g).get b then 1 else 0)
  | .cne g d a b => some (g, d, if (s.thr g).get a = (s.thr g).get b then 0 else 1)
  | .clt g d a b => some (g, d, if ((s.thr g).get a).toInt < ((s.thr g).get b).toInt then 1 else 0)
  | .cltu g d a b => some (g, d, if ((s.thr g).get a).toNat < ((s.thr g).get b).toNat then 1 else 0)
  | .cle g d a b => some (g, d, if ((s.thr g).get a).toInt ≤ ((s.thr g).get b).toInt then 1 else 0)
  | .cleu g d a b => some (g, d, if ((s.thr g).get a).toNat ≤ ((s.thr g).get b).toNat then 1 else 0)
  | .mulu g d a b => some (g, d, (s.thr g).get a * (s.thr g).get b)
  | .mulh g d a b =>
    some (g, d, (((s.thr g).get a).signExtend 64 * ((s.thr g).get b).signExtend 64).extractLsb' 32 32)
  | .mulhu g d a b =>
    some (g, d, (((s.thr g).get a).zeroExtend 64 * ((s.thr g).get b).zeroExtend 64).extractLsb' 32 32)
  | .axl g d x => some (g, d, (s.thr g).a[x].extractLsb' 0 32)
  | .axh g d x => some (g, d, (s.thr g).a[x].extractLsb' 32 32)
  | .axg g d x => some (g, d, ((s.thr g).a[x].extractLsb' 64 16).signExtend 32)
  | .addiu g d a k => some (g, d, (s.thr g).get a + k.signExtend 32)
  | .andi g d a k => some (g, d, (s.thr g).get a &&& k.zeroExtend 32)
  | .ori g d a k => some (g, d, (s.thr g).get a ||| k.zeroExtend 32)
  | .xori g d a k => some (g, d, (s.thr g).get a ^^^ k.zeroExtend 32)
  | .shli g d a k => some (g, d, (s.thr g).get a <<< k.val)
  | .shri g d a k => some (g, d, (s.thr g).get a >>> k.val)
  | .srai g d a k => some (g, d, ((s.thr g).get a).sshiftRight k.val)
  | .ceqi g d a k => some (g, d, if (s.thr g).get a = k.signExtend 32 then 1 else 0)
  | .cnei g d a k => some (g, d, if (s.thr g).get a = k.signExtend 32 then 0 else 1)
  | .clti g d a k => some (g, d, if ((s.thr g).get a).toInt < k.toInt then 1 else 0)
  | .cltui g d a k => some (g, d, if ((s.thr g).get a).toNat < (k.signExtend 32).toNat then 1 else 0)
  | .clei g d a k => some (g, d, if ((s.thr g).get a).toInt ≤ k.toInt then 1 else 0)
  | .cleui g d a k => some (g, d, if ((s.thr g).get a).toNat ≤ (k.signExtend 32).toNat then 1 else 0)
  | .li g d k => some (g, d, k.signExtend 32)
  | .lui g d k => some (g, d, k.zeroExtend 32 <<< 12)
  | _ => none

/-- Every word of `plainResult` completes: its register holds the value, the word retires, and nothing else changes. -/
def Sys2Proof.Machine.partPlainResults : Prop :=
  ∀ (s : State) (i : Instr) (g : ThreadNo) (d : Reg) (v : Word),
    plainResult s i = some (g, d, v) → s.runs g = true →
      exec i s = .next (s.setThr g ((s.thr g).set d v).advance)

/-- The frame of those words: other registers of the thread, its status and exception registers, other threads, control registers
and all of memory are as they were. -/
def Sys2Proof.Machine.partPlainFrame : Prop :=
  ∀ (s t : State) (i : Instr) (g : ThreadNo) (d : Reg) (v : Word),
    plainResult s i = some (g, d, v) → exec i s = .next t →
      onlyThread g s t ∧ otherRegs d (s.thr g) (t.thr g) ∧ keepsRest (s.thr g) (t.thr g)

/-- R77, R83, R84, R99, R100: every word of `plainResult` completes, its register holds the value given there and the word retires;
every other register of the thread, its status and exception registers, every other thread, every control register and all of memory
are as they were. -/
def Obligations.PlainWords : Prop := partPlainResults ∧ partPlainFrame

/-- The signed-checked words of R75 with their exact 32-bit results. -/
def Sys2Proof.Machine.checkedResult (s : State) : Instr → Option (ThreadNo × Reg × Int)
  | .add g d a b => some (g, d, ((s.thr g).get a).toInt + ((s.thr g).get b).toInt)
  | .sub g d a b => some (g, d, ((s.thr g).get a).toInt - ((s.thr g).get b).toInt)
  | .neg g d a => some (g, d, 0 - ((s.thr g).get a).toInt)
  | .mul g d a b => some (g, d, ((s.thr g).get a).toInt * ((s.thr g).get b).toInt)
  | .addi g d a k => some (g, d, ((s.thr g).get a).toInt + k.toInt)
  | _ => none

/-- A value lies in the signed range of `b` bits. -/
def Sys2Proof.Machine.fits (b : Nat) (x : Int) : Prop := -(2 ^ (b - 1) : Int) ≤ x ∧ x < (2 ^ (b - 1) : Int)

/-- The signed-checked words of R75 on pairs, with their exact 64-bit results and their registers. -/
def Sys2Proof.Machine.checkedPair (s : State) : Instr → Option (ThreadNo × Reg × Int × List Reg)
  | .addd g d a b => some (g, d, ((s.thr g).getPair a).toInt + ((s.thr g).getPair b).toInt, [d, a, b])
  | .subd g d a b => some (g, d, ((s.thr g).getPair a).toInt - ((s.thr g).getPair b).toInt, [d, a, b])
  | _ => none

/-- A pair register written: bits [31:0] to the even register, bits [63:32] to the next (R68). -/
def Sys2Proof.Machine.pairPut (th : Thread) (d : Reg) (v : BitVec 64) : Thread := (th.set d (v.extractLsb' 0 32)).set (d + 1) (v.extractLsb' 32 32)

/-- R75: a result in range is written; out of range OVE traps with cause 8, else SAT writes the nearest bound and sets QS, else the
low bits are written: 32 bits for ADD, SUB, ADDI, MUL and NEG, a pair of 64 for ADDD and SUBD. -/
def Obligations.SignedChecked : Prop :=
  (∀ (s : State) (i : Instr) (g : ThreadNo) (d : Reg) (x : Int),
    checkedResult s i = some (g, d, x) → s.runs g = true →
      let th := s.thr g
      let ove := th.st.toNat.testBit 5
      let sat := th.st.toNat.testBit 6
      (fits 32 x → exec i s = .next (s.setThr g (th.set d (BitVec.ofInt 32 x)).advance)) ∧
      (¬fits 32 x → ove = true → exec i s = .next (s.trap g 8 0 0)) ∧
      (¬fits 32 x → ove = false → sat = true →
        exec i s = .next (s.setThr g ({ th.set d (if x < 0 then 0x80000000 else 0x7FFFFFFF) with fx := th.fx ||| 0x10 }).advance)) ∧
      (¬fits 32 x → ove = false → sat = false → exec i s = .next (s.setThr g (th.set d (BitVec.ofInt 32 x)).advance))) ∧
  (∀ (s : State) (i : Instr) (g : ThreadNo) (d : Reg) (x : Int) (l : List Reg),
    checkedPair s i = some (g, d, x, l) → s.runs g = true → (∀ r ∈ l, r.val % 2 = 0) →
      let th := s.thr g
      let ove := th.st.toNat.testBit 5
      let sat := th.st.toNat.testBit 6
      (fits 64 x → exec i s = .next (s.setThr g (pairPut th d (BitVec.ofInt 64 x)).advance)) ∧
      (¬fits 64 x → ove = true → exec i s = .next (s.trap g 8 0 0)) ∧
      (¬fits 64 x → ove = false → sat = true → exec i s = .next (s.setThr g
        ({ pairPut th d (if x < 0 then 0x8000000000000000 else 0x7FFFFFFFFFFFFFFF) with fx := th.fx ||| 0x10 }).advance)) ∧
      (¬fits 64 x → ove = false → sat = false → exec i s = .next (s.setThr g (pairPut th d (BitVec.ofInt 64 x)).advance)))

/-- The 64-bit words with pair results (R68, R75, R100): the exact result and the registers that must be even. -/
def Sys2Proof.Machine.pairWord (s : State) : Instr → Option (ThreadNo × Reg × Int × List Reg)
  | .addd g d a b => some (g, d, ((s.thr g).getPair a).toInt + ((s.thr g).getPair b).toInt, [d, a, b])
  | .subd g d a b => some (g, d, ((s.thr g).getPair a).toInt - ((s.thr g).getPair b).toInt, [d, a, b])
  | .mulw g d a b => some (g, d, ((s.thr g).get a).toInt * ((s.thr g).get b).toInt, [d])
  | .mulwu g d a b => some (g, d, (((s.thr g).get a).toNat * ((s.thr g).get b).toNat : Nat), [d])
  | _ => none

/-- R68 and R75: with even registers and a result in 64 bits (signed; unsigned for MULWU) the pair holds it, low half in the even
register; an odd pair register raises illegal instruction with DETAIL 5. -/
def Obligations.PairResults : Prop :=
  ∀ (s : State) (i : Instr) (g : ThreadNo) (d : Reg) (x : Int) (l : List Reg),
    pairWord s i = some (g, d, x, l) → s.runs g = true →
      let th := s.thr g
      ((∀ r ∈ l, r.val % 2 = 0) → fits 65 x → (fits 64 x ∨ ∃ a b, i = .mulwu g d a b) →
        exec i s = .next (s.setThr g
          ((th.set d (BitVec.ofInt 32 x)).set (d + 1) ((BitVec.ofInt 64 x).extractLsb' 32 32)).advance)) ∧
      ((∃ r ∈ l, r.val % 2 = 1) → exec i s = .next (s.trap g 1 5 th.wordAddr))

/-- The Q1.31 words of R81 and R83: exact value, and the S bit. -/
def Sys2Proof.Machine.qResult (s : State) : Instr → Option (ThreadNo × Reg × Int × Bool)
  | .addq g d a b f => some (g, d, ((s.thr g).get a).toInt + ((s.thr g).get b).toInt, f)
  | .subq g d a b f => some (g, d, ((s.thr g).get a).toInt - ((s.thr g).get b).toInt, f)
  | .mulq g d a b f =>
    some (g, d, roundTo (((s.thr g).get a).toInt * ((s.thr g).get b).toInt) 31 (rmOf (s.thr g).fx), f)
  | .extq g d x f => some (g, d, roundTo (s.thr g).a[x].toInt 32 (rmOf (s.thr g).fx), f)
  | _ => none

/-- R80: with S or fx.SE a value outside the range becomes the nearest bound and sets QS; without, it wraps. -/
def Sys2Proof.Machine.partQFormat : Prop :=
  ∀ (s : State) (i : Instr) (g : ThreadNo) (d : Reg) (x : Int) (f : Bool),
    qResult s i = some (g, d, x, f) → s.runs g = true →
      let th := s.thr g
      let clamp := f || th.fx.toNat.testBit 2
      (fits 32 x → exec i s = .next (s.setThr g (th.set d (BitVec.ofInt 32 x)).advance)) ∧
      (¬fits 32 x → clamp = true →
        exec i s = .next (s.setThr g ({ th.set d (if x < 0 then 0x80000000 else 0x7FFFFFFF) with fx := th.fx ||| 0x10 }).advance)) ∧
      (¬fits 32 x → clamp = false → exec i s = .next (s.setThr g (th.set d (BitVec.ofInt 32 x)).advance))

/-- The paired Q1.15 words and the 16-bit and 64-bit extracts complete; a lane in range is exact. -/
def Sys2Proof.Machine.partPairedLanes : Prop :=
  ∀ (s : State) (g : ThreadNo) (d a b : Reg) (x : Acc) (f : Bool), s.runs g = true → d ≠ 0 →
    let th := s.thr g
    let lane := fun (r : Reg) (k : Nat) => ((th.get r).extractLsb' (16 * k) 16).toInt
    (completes (exec (.addp g d a b f) s) fun t => onlyThread g s t ∧ otherRegs d th (t.thr g) ∧
      ∀ k, k < 2 → fits 16 (lane a k + lane b k) →
        (((t.thr g).get d).extractLsb' (16 * k) 16).toInt = lane a k + lane b k) ∧
    (completes (exec (.subp g d a b f) s) fun t => onlyThread g s t ∧ otherRegs d th (t.thr g) ∧
      ∀ k, k < 2 → fits 16 (lane a k - lane b k) →
        (((t.thr g).get d).extractLsb' (16 * k) 16).toInt = lane a k - lane b k) ∧
    (completes (exec (.mulp g d a b f) s) fun t => onlyThread g s t ∧ otherRegs d th (t.thr g) ∧
      ∀ k, k < 2 → fits 16 (roundTo (lane a k * lane b k) 15 (rmOf th.fx)) →
        (((t.thr g).get d).extractLsb' (16 * k) 16).toInt = roundTo (lane a k * lane b k) 15 (rmOf th.fx)) ∧
    (completes (exec (.exth g d x f) s) fun t => onlyThread g s t ∧ otherRegs d th (t.thr g) ∧
      (fits 16 (roundTo th.a[x].toInt 48 (rmOf th.fx)) →
        ((t.thr g).get d).toInt = roundTo th.a[x].toInt 48 (rmOf th.fx))) ∧
    (d.val % 2 = 0 → completes (exec (.asat g d x f) s) fun t => onlyThread g s t ∧
      (fits 64 th.a[x].toInt → ((t.thr g).getPair d).toInt = th.a[x].toInt))

/-- R80, R81, R83: a Q1.31 word with S or fx.SE gives the nearest bound and sets QS where the exact value leaves the range, and wraps
without; the paired Q1.15 words and the extracts complete, and a lane in range is exact. -/
def Obligations.FixedPoint : Prop := partQFormat ∧ partPairedLanes

/-- R79: round to nearest leaves at most half a unit, and a tie goes to the even neighbour or away from zero; the other two modes
truncate and floor. -/
def Obligations.Rounding : Prop :=
  (∀ (x : Int) (m : RMode), roundTo x 0 m = x) ∧
  ∀ (x : Int) (n : Nat), 0 < n →
    let off := fun (m : RMode) => (x - roundTo x n m * 2 ^ n).natAbs
    (2 * off .rne ≤ 2 ^ n ∧ (2 * off .rne = 2 ^ n → roundTo x n .rne % 2 = 0)) ∧
    (2 * off .rna ≤ 2 ^ n ∧ (2 * off .rna = 2 ^ n → x.natAbs < (roundTo x n .rna * 2 ^ n).natAbs)) ∧
    roundTo x n .rtz = x.tdiv (2 ^ n) ∧ roundTo x n .floor = x / 2 ^ n

/-- The accumulating words of R82 with what they add. -/
def Sys2Proof.Machine.accResult (s : State) : Instr → Option (ThreadNo × Acc × Int)
  | .maci g x a b => some (g, x, ((s.thr g).get a).toInt * ((s.thr g).get b).toInt)
  | .msui g x a b => some (g, x, -(((s.thr g).get a).toInt * ((s.thr g).get b).toInt))
  | .macu g x a b => some (g, x, (((s.thr g).get a).toNat * ((s.thr g).get b).toNat : Nat))
  | .macq g x a b => some (g, x, 2 * (((s.thr g).get a).toInt * ((s.thr g).get b).toInt))
  | .msuq g x a b => some (g, x, -(2 * (((s.thr g).get a).toInt * ((s.thr g).get b).toInt)))
  | .macp g x a b =>
    let l := fun (r : Reg) (k : Nat) => (((s.thr g).get r).extractLsb' (16 * k) 16).toInt
    some (g, x, (l a 0 * l b 0 + l a 1 * l b 1) * 2 ^ 33)
  | _ => none

/-- R69 and R82: an accumulator holds the sum modulo 2^80, and AOF is set when the true sum leaves its range; ACLR clears, AMOV
loads a pair, ASH shifts left exactly or right with floor. -/
def Obligations.Accumulators : Prop :=
  (∀ (s : State) (i : Instr) (g : ThreadNo) (x : Acc) (d : Int),
    accResult s i = some (g, x, d) → s.runs g = true →
      let th := s.thr g
      let sum := th.a[x].toInt + d
      completes (exec i s) fun t => onlyThread g s t ∧ (t.thr g).a[x] = BitVec.ofInt 80 sum ∧
        (∀ y : Acc, y ≠ x → (t.thr g).a[y] = th.a[y]) ∧ (∀ r, (t.thr g).get r = th.get r) ∧
        (fits 80 sum → (t.thr g).fx = th.fx) ∧ (¬fits 80 sum → (t.thr g).fx = th.fx ||| 0x20)) ∧
  (∀ (s : State) (g : ThreadNo) (x : Acc) (a : Reg) (k : BitVec 15), s.runs g = true →
    let th := s.thr g
    exec (.aclr g x) s = .next (s.setThr g (th.setAcc x 0).advance) ∧
    (a.val % 2 = 0 →
      exec (.amov g x a) s = .next (s.setThr g (th.setAcc x ((th.getPair a).signExtend 80)).advance)) ∧
    (-32 ≤ k.toInt → k.toInt < 0 → exec (.ash g x k) s =
      .next (s.setThr g (th.setAcc x (BitVec.ofInt 80 (th.a[x].toInt / 2 ^ (-k.toInt).toNat))).advance)) ∧
    (0 ≤ k.toInt → k.toInt ≤ 31 → fits 80 (th.a[x].toInt * 2 ^ k.toInt.toNat) → exec (.ash g x k) s =
      .next (s.setThr g (th.setAcc x (BitVec.ofInt 80 (th.a[x].toInt * 2 ^ k.toInt.toNat))).advance)) ∧
    ((k.toInt < -32 ∨ 31 < k.toInt) → exec (.ash g x k) s = .next (s.trap g 1 6 th.wordAddr)))

/-- The value of a divide with a divisor that is not 0 (R76). -/
def Sys2Proof.Machine.quotient (s : State) : Instr → Option (ThreadNo × Reg × Reg × Int)
  | .div g d a b => some (g, d, b, ((s.thr g).get a).toInt.tdiv ((s.thr g).get b).toInt)
  | .divu g d a b => some (g, d, b, (((s.thr g).get a).toNat / ((s.thr g).get b).toNat : Nat))
  | .rem g d a b => some (g, d, b, ((s.thr g).get a).toInt.tmod ((s.thr g).get b).toInt)
  | _ => none

/-- The value of a divide by 0 with DZE clear, and whether it sets QS (R76). -/
def Sys2Proof.Machine.overZero (s : State) : Instr → Option (Word × Bool)
  | .div g _ a _ => some (if ((s.thr g).get a).toInt < 0 then 0x80000000 else 0x7FFFFFFF, true)
  | .divu _ _ _ _ => some (0xFFFFFFFF, true)
  | .rem g _ a _ => some ((s.thr g).get a, false)
  | _ => none

/-- R76 and R43: a divide holds its thread WAITING; its completion writes the quotient or remainder, truncated toward zero, and makes the
thread READY. With a divisor of 0 and DZE the completion takes cause 7 instead, without DZE it writes the values of R76; 0x80000000 / −1
is a signed overflow as in R75. The model's choices it rests on: log entries 7. -/
def Obligations.Divides : Prop :=
  ∀ (s : State) (i : Instr) (g : ThreadNo) (d b : Reg) (q : Int),
    quotient s i = some (g, d, b, q) → s.runs g = true → (s.thr g).haltReq = false → (s.thr g).stopReq = false →
      completes (exec i s) fun t => onlyThread g s t ∧ (t.thr g).state = .waiting ∧ (t.thr g).pc = (s.thr g).pc ∧
        ((s.thr g).get b ≠ 0 → (∃ r a, i = .divu g r a b) ∨ fits 32 q →
          completes (exec (.divideComplete g) t) fun u => (u.thr g).state = .ready ∧ (u.thr g).wait = .none ∧
            (d ≠ 0 → (u.thr g).get d = BitVec.ofInt 32 q)) ∧
        ((s.thr g).get b = 0 → (s.thr g).st.toNat.testBit 4 = true →
          exec (.divideComplete g) t = .next (t.trap g 7 0 0)) ∧
        (∀ z, overZero s i = some z → (s.thr g).get b = 0 → (s.thr g).st.toNat.testBit 4 = false →
          completes (exec (.divideComplete g) t) fun u => (u.thr g).state = .ready ∧ (d ≠ 0 → (u.thr g).get d = z.1) ∧
            (u.thr g).fx = if z.2 then (s.thr g).fx ||| 0x10 else (s.thr g).fx) ∧
        ((s.thr g).get b ≠ 0 → (∀ r a, i ≠ .divu g r a b) → ¬fits 32 q →
          ((s.thr g).st.toNat.testBit 5 = true → exec (.divideComplete g) t = .next (t.trap g 8 0 0)) ∧
          ((s.thr g).st.toNat.testBit 5 = false → completes (exec (.divideComplete g) t) fun u => (u.thr g).state = .ready ∧
            (d ≠ 0 → (u.thr g).get d = if (s.thr g).st.toNat.testBit 6 then 0x7FFFFFFF else 0x80000000) ∧
            (u.thr g).fx = if (s.thr g).st.toNat.testBit 6 then (s.thr g).fx ||| 0x10 else (s.thr g).fx))

/-! ### Words of memory in the statements -/

/-- The bytes of memory from an address on. -/
def Sys2Proof.Machine.bytesAt (s : State) (a n : Nat) : List Byte := (List.range n).map fun i => memByte s.mem (a + i)

/-- The little-endian word of memory at an address. -/
def Sys2Proof.Machine.wordAt (s : State) (a : Nat) : Nat := leBytes (bytesAt s a 4)

/-- No ECC word that bytes `a` to `a + n - 1` touch holds an error. -/
def Sys2Proof.Machine.cleanAt (s : State) (a n : Nat) : Prop := ∀ wb ∈ eccWords a n, s.synd wb = .clean

/-- Memory is as before but for the bytes `d` from `a` on. -/
def Sys2Proof.Machine.storesOnly (s t : State) (a : Nat) (d : List Byte) : Prop :=
  ∀ b, memByte t.mem b = if a ≤ b ∧ b < a + d.length then nth 0 d (b - a) else memByte s.mem b

/-- All of memory is as before. -/
def Sys2Proof.Machine.sameMemory (s t : State) : Prop := ∀ b, memByte t.mem b = memByte s.mem b

/-- Memory is as before but for `n` bytes from `a` on. -/
def Sys2Proof.Machine.sameOutside (s t : State) (a n : Nat) : Prop := ∀ b, b < a ∨ a + n ≤ b → memByte t.mem b = memByte s.mem b

/-- Nothing but the bytes of the areas listed changes in memory. -/
def Sys2Proof.Machine.onlyAreas (s t : State) (l : List (Nat × Nat)) : Prop :=
  ∀ a, (∀ r ∈ l, a < r.1 ∨ r.1 + r.2 ≤ a) → memByte t.mem a = memByte s.mem a

/-- Every register but those listed is as before. -/
def Sys2Proof.Machine.otherRegisters (s t : State) (l : List Nat) : Prop := ∀ a, a ∉ l → t.rd a = s.rd a

/-! ### Control flow (R84 to R88) -/

/-- The branches and jumps: the target of a word that jumps, none where it falls through, and the kind of its trace record. -/
def Sys2Proof.Machine.jumpTarget (s : State) : Instr → Option (ThreadNo × Option Word × Nat)
  | .bz g r off =>
    some (g, if (s.thr g).get r = 0 then some ((s.thr g).wordAddr + 4 * off.signExtend 32) else none, 0)
  | .bnz g r off =>
    some (g, if (s.thr g).get r = 0 then none else some ((s.thr g).wordAddr + 4 * off.signExtend 32), 0)
  | .j g off => some (g, some ((s.thr g).wordAddr + 4 * off.signExtend 32), 1)
  | .jr g r => if ((s.thr g).get r).toNat % 4 = 0 then some (g, some ((s.thr g).get r), 1) else none
  | _ => none

/-- R84 and R85: a taken branch or jump sets pc to its target, an untaken one moves to the next word; nothing else of the machine
changes but the trace. A register target that is not a multiple of 4 raises cause 3 with the target in eaddr, and no jump. -/
def Obligations.Jumps : Prop :=
  (∀ (s : State) (i : Instr) (g : ThreadNo) (t : Option Word) (k : Nat),
    jumpTarget s i = some (g, t, k) → s.runs g = true →
      exec i s = .next (match t with
        | some x => (s.setThr g { s.thr g with pc := x, issued := none }).traced g k 0 (s.thr g).wordAddr x
        | none => s.setThr g (s.thr g).advance)) ∧
  (∀ (s : State) (g : ThreadNo) (r : Reg), s.runs g = true → ((s.thr g).get r).toNat % 4 ≠ 0 →
    exec (.jr g r) s = .next (s.trap g 3 0 ((s.thr g).get r)) ∧ exec (.callr g r) s = .next (s.trap g 3 0 ((s.thr g).get r)))

/-- The target of a call. -/
def Sys2Proof.Machine.callTarget (s : State) : Instr → Option (ThreadNo × Word)
  | .call g off => some (g, (s.thr g).wordAddr + 4 * off.signExtend 32)
  | .callr g r => if ((s.thr g).get r).toNat % 4 = 0 then some (g, (s.thr g).get r) else none
  | _ => none

/-- R86: a call pushes lk onto the return stack, whose oldest of 8 entries is lost, puts the address after it into lk and jumps; with
HT and a full stack it raises cause 9. -/
def Sys2Proof.Machine.partCalls : Prop :=
  ∀ (s : State) (i : Instr) (g : ThreadNo) (x : Word), callTarget s i = some (g, x) → s.runs g = true →
    let th := s.thr g
    (th.hrs.length ≠ 8 → exec i s = .next ((s.setThr g
      { th with hrs := th.hrs ++ [th.lk], lk := th.wordAddr + 4, pc := x, issued := none }).traced g 2 0 th.wordAddr x)) ∧
    (th.hrs.length = 8 → th.st.toNat.testBit 7 = false → exec i s = .next ((s.setThr g
      { th with hrs := th.hrs.drop 1 ++ [th.lk], lk := th.wordAddr + 4, pc := x, issued := none }).traced g 2 0 th.wordAddr x)) ∧
    (th.hrs.length = 8 → th.st.toNat.testBit 7 = true → exec i s = .next (s.trap g 9 0 0))

/-- R87: RET jumps to lk and pops lk from the return stack; an empty stack leaves lk at 0xFFFFFFFC with HU set, or raises cause 10
under HT. -/
def Sys2Proof.Machine.partReturns : Prop :=
  ∀ (s : State) (g : ThreadNo), s.runs g = true →
    let th := s.thr g
    (th.hrs ≠ [] → exec (.ret g) s = .next ((s.setThr g
      { th with hrs := th.hrs.dropLast, lk := th.hrs.getLastD 0, pc := th.lk, issued := none }).traced g 3 0 th.wordAddr th.lk)) ∧
    (th.hrs = [] → th.st.toNat.testBit 7 = false → exec (.ret g) s = .next ((s.setThr g
      { th with lk := 0xFFFFFFFC, st := th.st ||| 0x100, pc := th.lk, issued := none }).traced g 3 0 th.wordAddr th.lk)) ∧
    (th.hrs = [] → th.st.toNat.testBit 7 = true → exec (.ret g) s = .next (s.trap g 10 0 0))

/-- R88: HSPILL stores the return stack to 40 bytes of the own lap and empties it, and writes no other byte; HFILL loads it back with
the depth limited to 8 and bits [1:0] cleared; each takes four turns more; a misaligned address raises cause 3, one outside the own lap cause 5 or 4. -/
def Sys2Proof.Machine.partReturnStackSpill : Prop :=
  ∀ (s : State) (g : ThreadNo) (r : Reg), s.runs g = true →
    let th := s.thr g
    let a := (th.get r).toNat
    let blk := lapBlk (g / 32) a
    (a % 8 = 0 → a + 40 ≤ 0x100000 → s.mayAccess g .write a 40 = true →
      completes (exec (.hspill g r) s) fun t => t.thr g = { th with hrs := [], owed := 4 }.advance ∧
        wordAt t blk = th.hrs.length % 2 ^ 32 ∧ wordAt t (blk + 4) = 0 ∧
        (∀ i, i < 8 → wordAt t (blk + 8 + 4 * i) = (nth 0 th.hrs i).toNat) ∧
        sameOutside s t blk 40) ∧
    (a % 8 = 0 → a + 40 ≤ 0x100000 → s.mayAccess g .read a 40 = true → cleanAt s blk 40 →
      completes (exec (.hfill g r) s) fun t => sameMemory s t ∧ t.thr g = { th with hrs := (t.thr g).hrs, owed := 4 }.advance ∧
        (t.thr g).hrs.length = min 8 (wordAt s blk % 16) ∧
        ∀ i, i < min 8 (wordAt s blk % 16) → nth 0 (t.thr g).hrs i = BitVec.ofNat 32 (wordAt s (blk + 8 + 4 * i)) &&& 0xFFFFFFFC) ∧
    (a % 8 ≠ 0 → exec (.hspill g r) s = .next (s.trap g 3 0 (th.get r)) ∧
      exec (.hfill g r) s = .next (s.trap g 3 0 (th.get r))) ∧
    (a % 8 = 0 → 0x100000 < a + 40 → exec (.hspill g r) s = .next (s.trap g 5 0 (th.get r)) ∧
      exec (.hfill g r) s = .next (s.trap g 4 0 (th.get r)))

/-- R86 to R88: a call pushes lk onto the return stack, RET pops it, HSPILL stores the stack and HFILL loads it; with HT a full or an
empty stack raises its cause. -/
def Obligations.CallsAndReturns : Prop := partCalls ∧ partReturns ∧ partReturnStackSpill

/-! ### System words (R46, R70 to R72, R102, R103, R128 to R130, R139) -/

/-- What MFS reads from each 32-bit special register (R70). -/
def Sys2Proof.Machine.specialValue (s : State) (g : ThreadNo) : Nat → Option Word
  | 0 => some (s.thr g).wordAddr
  | 1 => some (s.thr g).lk
  | 2 => some (s.thr g).st
  | 3 => some (s.thr g).fx
  | 4 => some (s.thr g).rc
  | 5 => some (s.thr g).epc
  | 6 => some (s.thr g).est
  | 7 => some (s.thr g).ecause
  | 8 => some (s.thr g).eaddr
  | 9 => some (if (s.thr g).st.toNat.testBit 2 then (s.whl (g / 32)).vbaseZ else (s.whl (g / 32)).vbaseS)
  | 10 => some (s.thr g).sentry
  | 11 => some (s.thr g).sstack
  | 12 => some (BitVec.ofNat 32 g)
  | 14 => some (BitVec.ofNat 32 (s.shadow / 2 ^ 24 % 2 ^ 16))
  | 15 => some (s.thr g).lse
  | 16 => some (BitVec.ofNat 32 (s.thr g).hrs.length)
  | _ => none

/-- The special registers of a supervisor (R70). -/
def Sys2Proof.Machine.supervisorOnly (n : Nat) : Prop := (5 ≤ n ∧ n ≤ 11) ∨ n = 15

/-- R70 and R103: MFS writes the special register's value, tb and TBR a pair; a supervisor's register at user level raises cause 2
with DETAIL 1, a number that names none cause 1 with DETAIL 6. -/
def Sys2Proof.Machine.partSpecialReads : Prop :=
  ∀ (s : State) (g : ThreadNo) (d : Reg) (n : Fin 32), s.runs g = true →
    let th := s.thr g
    let sup := th.st.toNat.testBit 1
    (∀ v, specialValue s g n = some v → (supervisorOnly n → sup = true) →
      exec (.mfs g d n) s = .next (s.setThr g (th.set d v).advance)) ∧
    (supervisorOnly n → sup = false → exec (.mfs g d n) s = .next (s.trap g 2 1 th.wordAddr)) ∧
    (16 < n.val → exec (.mfs g d n) s = .next (s.trap g 1 6 th.wordAddr)) ∧
    (n.val = 13 → d.val % 2 = 0 →
      exec (.mfs g d n) s = .next (s.setThr g (th.setPair d (BitVec.ofNat 64 (s.shadow / 2 ^ 40))).advance)) ∧
    (d.val % 2 = 0 → exec (.tbr g d) s =
      .next (s.setThr g (th.setPair d (BitVec.ofNat 64 (s.shadow / 2 ^ 40 % 2 ^ 48 * 2 ^ 16 + s.shadow / 2 ^ 24 % 2 ^ 16))).advance)) ∧
    (d.val % 2 = 1 → exec (.tbr g d) s = .next (s.trap g 1 5 th.wordAddr))

/-- The special registers that MTS writes for one thread, with the thread after the write (R70, R72). -/
def Sys2Proof.Machine.specialWritten (th : Thread) (v : Word) (sup : Bool) : Nat → Option Thread
  | 1 => some { th with lk := v }
  | 2 => some { th with st := if sup then (th.st &&& 0xFFFFFC04) ||| (v &&& 0x3FB) else (th.st &&& 0xFFFFFE0F) ||| (v &&& 0x1F0) }
  | 3 => some { th with fx := v }
  | 4 => some { th with rc := v }
  | 5 => some { th with epc := v }
  | 6 => some { th with est := v }
  | 7 => some { th with ecause := v }
  | 8 => some { th with eaddr := v }
  | 10 => some { th with sentry := v }
  | 11 => some { th with sstack := v }
  | 15 => some { th with lse := v }
  | _ => none

/-- The bits that an MTS of each special register may set (R70 to R73). -/
def Sys2Proof.Machine.specialBits : Nat → Word
  | 1 | 5 | 10 | 11 => 0xFFFFFFFC
  | 2 | 6 => 0x3FF
  | 3 => 0x37
  | 7 => 0xFF0000BF
  | _ => 0xFFFFFFFF

/-- R70 to R72 and R124: MTS writes the special register; W of st never changes, and user level changes DZE, OVE, SAT, HT and HU
only; a value with a reserved bit leaves the register as it was. Writing vbase sets the world's own vbase of the whorl. -/
def Sys2Proof.Machine.partSpecialWrites : Prop :=
  ∀ (s : State) (g : ThreadNo) (r : Reg) (n : Fin 32), s.runs g = true →
    let th := s.thr g
    let sup := th.st.toNat.testBit 1
    (∀ u, specialWritten th.advance (th.get r) sup n = some u → (supervisorOnly n → sup = true) →
      th.get r &&& ~~~specialBits n = 0 → exec (.mts g n r) s = .next (s.setThr g u)) ∧
    (specialWritten th (th.get r) sup n ≠ none → (supervisorOnly n → sup = true) → th.get r &&& ~~~specialBits n ≠ 0 →
      completes (exec (.mts g n r) s) fun t => t.thr g = th.advance) ∧
    (n.val = 9 → sup = true → (th.get r).toNat % 256 = 0 → completes (exec (.mts g n r) s) fun t => t.thr g = th.advance ∧
      t.vbase (g / 32) (th.st.toNat.testBit 2) = th.get r ∧
      t.vbase (g / 32) (!th.st.toNat.testBit 2) = s.vbase (g / 32) (!th.st.toNat.testBit 2)) ∧
    (supervisorOnly n → sup = false → exec (.mts g n r) s = .next (s.trap g 2 1 th.wordAddr)) ∧
    ((n.val ∈ [0, 12, 13, 14] ∨ 16 ≤ n.val) → exec (.mts g n r) s = .next (s.trap g 1 6 th.wordAddr))

/-- R70 to R73, R103, R124: MFS, MTS and TBR read and write every special register as the rules give its bits, its level and its
reserved fields; a number that names none raises cause 1. -/
def Obligations.SpecialRegisters : Prop := partSpecialReads ∧ partSpecialWrites

/-- The installer or maker grant ends when T2 of WH39 leaves READY and WAITING (R393). -/
def Sys2Proof.Machine.grantEnds (g : Nat) (t : State) : State := if g = 1250 then t.wr addrSecGrant 0 else t

/-- R45, R46, R50, R52, R139: HALT, FENCE, WFE, SEV and BRK. -/
def Obligations.SystemWords : Prop :=
  ∀ (s : State) (g : ThreadNo) (d r : Reg), s.runs g = true →
    let th := s.thr g
    let u := g.val / 32 * 32 + (th.get r).toNat % 32
    exec (.halt g) s = .next (grantEnds g (s.setThr g { th.advance with state := .halted })) ∧
    (th.sbuf = [] → exec (.fence g) s = .next (s.setThr g th.advance)) ∧
    (th.sbuf ≠ [] → completes (exec (.fence g) s) fun t => onlyThread g s t ∧ (t.thr g).state = .waiting ∧ (t.thr g).pc = th.pc) ∧
    (s.wfeHit g (th.get r) ≠ 0 → exec (.wfe g d r) s =
      .next (s.setThr g ({ th.set d (s.wfeHit g (th.get r)) with ev := th.ev &&& ~~~s.wfeHit g (th.get r) }).advance)) ∧
    (s.wfeHit g (th.get r) = 0 → completes (exec (.wfe g d r) s) fun t => onlyThread g s t ∧
      (t.thr g).state = .waiting ∧ (t.thr g).wait = .event (th.get r)) ∧
    (th.st.toNat.testBit 2 = false ∨ s.mapZ u = true → completes (exec (.sev g r) s) fun t =>
      (t.thr u).ev = (s.thr u).ev ||| 0x80000000 ∧ (∀ h, h < 1280 → h ≠ u → h ≠ g.val → t.thr h = s.thr h) ∧
      (t.thr g).pc = th.advance.pc) ∧
    (th.st.toNat.testBit 2 = true → s.mapZ u = false → exec (.sev g r) s = .next (s.trap g 2 4 th.wordAddr)) ∧
    (s.on (addrWhlTexc (g / 32) (g % 32)) fldWhlTexc_BRKSTOP = false → exec (.brk g) s = .next (s.trap g 12 0 0)) ∧
    (s.on (addrWhlTexc (g / 32) (g % 32)) fldWhlTexc_BRKSTOP = true →
      exec (.brk g) s = .next (grantEnds g (s.setThr g { th with state := .stopped, issued := none })))

/-- R129 and R130: SCALL at user level saves the return address and st, exchanges w29 and sstack, sets LV and IM and jumps to sentry;
at supervisor level it raises cause 11. -/
def Sys2Proof.Machine.partSystemCalls : Prop :=
  ∀ (s : State) (g : ThreadNo), s.runs g = true →
    let th := s.thr g
    (th.st.toNat.testBit 1 = false → completes (exec (.scall g) s) fun t => sameMemory s t ∧ otherThreads g s t ∧
      (t.thr g).epc = th.wordAddr + 4 ∧ (t.thr g).est = th.st ∧ (t.thr g).st = th.st ||| 3 ∧ (t.thr g).pc = th.sentry ∧
      (t.thr g).get 29 = th.sstack ∧ (t.thr g).sstack = th.get 29 ∧ (∀ r : Reg, r ≠ 29 → (t.thr g).get r = th.get r) ∧
      (t.thr g).ecause = th.ecause ∧ (t.thr g).eaddr = th.eaddr ∧ (t.thr g).lk = th.lk ∧ (t.thr g).hrs = th.hrs) ∧
    (th.st.toNat.testBit 1 = true → exec (.scall g) s = .next (s.trap g 11 0 0))

/-- R102, R128 and R129: ERET and SRET restore pc and st with W kept and FATAL clear, and exchange w29 and sstack when est is at user
level; at user level they raise cause 2 with DETAIL 1; with FATAL the thread goes FAULTED with its registers as they were. -/
def Sys2Proof.Machine.partExceptionReturn : Prop :=
  ∀ (s : State) (g : ThreadNo) (i : Instr), i = .eret g ∨ i = .sret g → s.runs g = true →
    let th := s.thr g
    (th.st.toNat.testBit 1 = true → th.st.toNat.testBit 9 = false → completes (exec i s) fun t => sameMemory s t ∧
      otherThreads g s t ∧ (t.thr g).pc = th.epc ∧
      (t.thr g).st = (th.est &&& 0xFFFFFDFB) ||| (th.st &&& 4) ∧
      (th.est.toNat.testBit 1 = true → (∀ r, (t.thr g).get r = th.get r) ∧ (t.thr g).sstack = th.sstack) ∧
      (th.est.toNat.testBit 1 = false → (t.thr g).get 29 = th.sstack ∧ (t.thr g).sstack = th.get 29 ∧
        ∀ r : Reg, r ≠ 29 → (t.thr g).get r = th.get r) ∧
      (t.thr g).rc = th.rc ∧ (t.thr g).lk = th.lk ∧ (t.thr g).epc = th.epc ∧ (t.thr g).est = th.est) ∧
    (th.st.toNat.testBit 1 = false → exec i s = .next (s.trap g 2 1 th.wordAddr)) ∧
    (th.st.toNat.testBit 1 = true → th.st.toNat.testBit 9 = true → completes (exec i s) fun t =>
      (t.thr g).state = .faulted ∧ (t.thr g).pc = th.pc ∧ (t.thr g).st = th.st ∧ ∀ r, (t.thr g).get r = th.get r)

/-- R102, R128 to R130: SCALL enters the supervisor at sentry; ERET and SRET return with pc and st as they were saved, or go FAULTED
under FATAL. -/
def Obligations.CallsToSupervisor : Prop := partSystemCalls ∧ partExceptionReturn

/-! ### Taking an exception (R122 to R127, R131) -/

/-- The saved return address of a cause (R122). -/
def Sys2Proof.Machine.returnAddress (th : Thread) (code : Nat) : Word := if code = 11 ∨ code = 12 then th.wordAddr + 4 else th.pc

/-- A cause waits for the entry turns of a thread. -/
def Sys2Proof.Machine.awaitsEntry (th : Thread) (p : Pend) : Thread :=
  { th with state := .ready, wait := .none, issued := none, entry := some p }

/-- R125: a synchronous cause under EX or IM sends the thread to FAULTED with its registers as they were and a record of kind 1 or 2 at
the end of its distaff's queue; otherwise the cause waits for its entry turns with the return address of R122. -/
def Sys2Proof.Machine.partCauseTaken : Prop :=
  ∀ (s : State) (g : ThreadNo) (code detail : Nat) (ea : Word),
    let th := s.thr g
    let t := s.trap g code detail ea
    (th.st.toNat.testBit 3 = true ∨ th.st.toNat.testBit 0 = true →
      (t.thr g).state = .faulted ∧ (t.thr g).pc = th.pc ∧ (t.thr g).st = th.st ∧ (t.thr g).epc = th.epc ∧
        (t.thr g).est = th.est ∧ (t.thr g).ecause = th.ecause ∧ (t.thr g).eaddr = th.eaddr ∧
        (∀ r, (t.thr g).get r = th.get r) ∧ sameMemory s t ∧
        (g.val % 32 ≠ 0 → (s.whl (g / 32)).notes.length < 160 →
          (t.whl (g / 32)).notes = (s.whl (g / 32)).notes ++
            [{ kind := if th.st.toNat.testBit 3 then 1 else 2, whorl := g / 32, thread := g % 32, cause := code,
               st := th.st.toNat % 1024, pc := th.wordAddr, eaddr := ea, tb := s.tb32 }])) ∧
    (th.st.toNat.testBit 3 = false → th.st.toNat.testBit 0 = false →
      t = s.setThr g (awaitsEntry th
        { code := code, detail := detail, async := false, epc := returnAddress th code, eaddr := ea }))

/-- Where the handler of a cause stands (R124, R125): vbase of the world, 0x100 for a cause from supervisor level, 4 a cause. -/
def Sys2Proof.Machine.handlerSlot (s : State) (g : Nat) (code : Nat) : Nat :=
  (s.vbase (g / 32) ((s.thr g).st.toNat.testBit 2)).toNat + 0x100 * (if (s.thr g).st.toNat.testBit 1 then 1 else 0) + 4 * code

/-- R125 to R127: after its two entry turns exception entry saves the return address, st, the cause and eaddr, exchanges w29 and sstack when it comes from user
level, sets EX, LV and IM and clears FATAL, and takes pc from the handler table in the own lap; a table or handler address that R127
calls invalid sends the thread to FAULTED with pc as it was. No byte of memory changes. -/
def Sys2Proof.Machine.partExceptionEntry : Prop :=
  ∀ (s : State) (g : ThreadNo) (p : Pend), (s.thr g).state = .ready → (s.thr g).entry = some p → 2 ≤ p.turns →
    let th := s.thr g
    let a := handlerSlot s g p.code
    let h := wordAt s (lapBlk (g / 32) a)
    let found := a < 0x100000 ∧ s.granted (g / 32) (th.st.toNat.testBit 2) true .read a = true ∧ cleanAt s (lapBlk (g / 32) a) 4
    completes (exec (.exceptionEntry g) s) fun t => sameMemory s t ∧
      (t.thr g).epc = p.epc ∧ (t.thr g).est = th.st ∧ (t.thr g).eaddr = p.eaddr ∧
      (t.thr g).ecause = BitVec.ofNat 32 (p.detail % 256 * 2 ^ 24 + (if p.async then 128 else 0) + p.code % 64) ∧
      (t.thr g).st = (th.st ||| 0xB) &&& 0xFFFFFDFF ∧ (t.thr g).lk = th.lk ∧ (t.thr g).hrs = th.hrs ∧
      (∀ r : Reg, r ≠ 29 → (t.thr g).get r = th.get r) ∧
      (th.st.toNat.testBit 1 = true → (t.thr g).get 29 = th.get 29 ∧ (t.thr g).sstack = th.sstack) ∧
      (th.st.toNat.testBit 1 = false → (t.thr g).get 29 = th.sstack ∧ (t.thr g).sstack = th.get 29) ∧
      (found → h % 4 = 0 → h < 0x20000 → th.haltReq = false → th.stopReq = false →
        (t.thr g).state = .ready ∧ (t.thr g).pc = BitVec.ofNat 32 h) ∧
      (0x100000 ≤ a ∨ (found ∧ (h % 4 ≠ 0 ∨ 0x20000 ≤ h)) → (t.thr g).state = .faulted ∧ (t.thr g).pc = th.pc)

/-- R131 and R132: a READY thread, or one that waits in WFE or a blocking channel word, with IM at 0, no repetition in progress and no
turn owed takes the lowest pending asynchronous cause: 13 for a late store error, 32 + i for a pending line i with IE. The turn of a
READY thread is the first entry turn; a waiting thread becomes READY and makes both later. -/
def Sys2Proof.Machine.partAsynchronousCause : Prop :=
  ∀ (s : State) (g : ThreadNo) (c : Nat),
    let th := s.thr g
    let late := s.on (addrWhlTexc (g / 32) (g % 32)) fldWhlTexc_LSEP
    let line := fun (i : Nat) => i < 32 ∧ (s.lines g &&& s.ieMask g).toNat.testBit i = true
    let entry := fun (turns : Nat) => ({ code := c, detail := 0, async := true, epc := th.pc,
                                         eaddr := if c = 13 then th.lse else 0, turns := turns } : Pend)
    th.st.toNat.testBit 0 = false → th.rep = none → th.entry = none → th.owed = 0 → th.issued = none →
    ((late = true ∧ c = 13) ∨ (late = false ∧ ∃ i, c = 32 + i ∧ line i ∧ ∀ j, j < i → ¬line j)) →
      (th.state = .ready → exec (.asyncCauseTaken g) s = .next ({ s with quietAt := s.cycle }.setThr g
        { awaitsEntry th (entry 1) with turns := th.turns + 1, lastTurn := some s.cycle })) ∧
      (th.state = .waiting → ((∃ m, th.wait = .event m) ∨ (∃ k, th.wait = .chanSend k) ∨ (∃ k r, th.wait = .chanRecv k r)) →
        exec (.asyncCauseTaken g) s = .next (s.setThr g (awaitsEntry th (entry 0))))

/-- R125 to R127, R131, R132: what exception entry saves and where it goes, an entry that goes FAULTED instead, and which asynchronous
cause a thread takes. -/
def Obligations.ExceptionEntries : Prop := partExceptionEntry ∧ partAsynchronousCause

/-- R117 and R123: a word that decodes to no instruction raises cause 1 with the DETAIL of the first check that it fails, and eaddr
holds its address. -/
def Sys2Proof.Machine.partIllegalWords : Prop :=
  ∀ (s : State) (g : ThreadNo) (w : Word) (e : Illegal), s.runs g = true →
    decodeWord g (fun j => s.on (addrCxpCfg j) fldCxpCfg_EN) w.toNat = .bad e →
      exec (.illegalInstruction g w) s = .next (s.trap g 1 (match e with
        | .major => 1 | .cxpOff => 2 | .function => 3 | .reserved => 4 | .oddPair => 5 | .value => 6 | .pairing => 7)
        (s.thr g).wordAddr)

/-- R117, R122, R123, R125: a synchronous cause waits for its entry, or sends the thread to FAULTED with a record; a word that decodes to
no instruction raises cause 1 with its DETAIL. -/
def Obligations.CausesTaken : Prop := partCauseTaken ∧ partIllegalWords


/-! ### Memory words (R44, R45, R92 to R95) -/

/-- The load words: width in bytes, and the value that the loaded number gives a 32-bit register (R92). -/
def Sys2Proof.Machine.loadWord (s : State) : Instr → Option (ThreadNo × Reg × Word × Nat × (Nat → Word))
  | .lb g d a k => some (g, d, (s.thr g).get a + k.signExtend 32, 1, fun v => (BitVec.ofNat 8 v).signExtend 32)
  | .lbu g d a k => some (g, d, (s.thr g).get a + k.signExtend 32, 1, fun v => BitVec.ofNat 32 v)
  | .lh g d a k => some (g, d, (s.thr g).get a + k.signExtend 32, 2, fun v => (BitVec.ofNat 16 v).signExtend 32)
  | .lhu g d a k => some (g, d, (s.thr g).get a + k.signExtend 32, 2, fun v => BitVec.ofNat 32 v)
  | .lw g d a k => some (g, d, (s.thr g).get a + k.signExtend 32, 4, fun v => BitVec.ofNat 32 v)
  | _ => none

/-- R92 and R93: a load of the own lap that the regions grant completes at once with the little-endian value, sign- or zero-extended,
and changes nothing else; a misaligned address raises cause 3, one that the regions refuse cause 4. LD writes a pair. -/
def Obligations.NearLoads : Prop :=
  ∀ (s : State) (g : ThreadNo), s.runs g = true →
    let th := s.thr g
    (∀ i d a n f, loadWord s i = some (g, d, a, n, f) →
      let blk := lapBlk (g / 32) a.toNat
      (a.toNat < 0x100000 → a.toNat % n = 0 → s.mayAccess g .read a.toNat n = true → cleanAt s blk n →
        exec i s = .next (s.setThr g (th.set d (f (leBytes (bytesAt s blk n)))).advance)) ∧
      (a.toNat < 0x100000 → a.toNat % n ≠ 0 → exec i s = .next (s.trap g 3 0 a)) ∧
      (a.toNat < 0x100000 → a.toNat % n = 0 → s.mayAccess g .read a.toNat n = false → exec i s = .next (s.trap g 4 0 a))) ∧
    (∀ (d r : Reg) (k : BitVec 15),
      let a := th.get r + k.signExtend 32
      let blk := lapBlk (g / 32) a.toNat
      (d.val % 2 = 0 → a.toNat < 0x100000 → a.toNat % 8 = 0 → s.mayAccess g .read a.toNat 8 = true → cleanAt s blk 8 →
        exec (.ld g d r k) s =
          .next (s.setThr g ((th.set d (BitVec.ofNat 32 (wordAt s blk))).set (d + 1) (BitVec.ofNat 32 (wordAt s (blk + 4)))).advance)) ∧
      (d.val % 2 = 1 → exec (.ld g d r k) s = .next (s.trap g 1 5 th.wordAddr)))

/-- The store words: address and the bytes stored (R92). -/
def Sys2Proof.Machine.storeWord (s : State) : Instr → Option (ThreadNo × Word × List Byte)
  | .sb g d a k => some (g, (s.thr g).get a + k.signExtend 32, bytesLE 1 ((s.thr g).get d).toNat)
  | .sh g d a k => some (g, (s.thr g).get a + k.signExtend 32, bytesLE 2 ((s.thr g).get d).toNat)
  | .sw g d a k => some (g, (s.thr g).get a + k.signExtend 32, bytesLE 4 ((s.thr g).get d).toNat)
  | .sd g d a k => if d.val % 2 = 0 then
      some (g, (s.thr g).get a + k.signExtend 32, bytesLE 4 ((s.thr g).get d).toNat ++ bytesLE 4 ((s.thr g).get (d + 1)).toNat)
    else none
  | _ => none

/-- R92 and R93: a store to the own lap that the regions grant writes the low bytes at its address and changes no other byte, no
register of any thread and no control register; misaligned raises cause 3, refused cause 5. -/
def Obligations.NearStores : Prop :=
  ∀ (s : State) (i : Instr) (g : ThreadNo) (a : Word) (d : List Byte), storeWord s i = some (g, a, d) → s.runs g = true →
    let th := s.thr g
    let blk := lapBlk (g / 32) a.toNat
    (a.toNat < 0x100000 → a.toNat % d.length = 0 → s.mayAccess g .write a.toNat d.length = true → cleanAt s blk d.length →
      completes (exec i s) fun t => storesOnly s t blk d ∧ t.threads = (s.setThr g th.advance).threads ∧ t.regs = s.regs ∧
        t.pending = s.pending) ∧
    (a.toNat < 0x100000 → a.toNat % d.length ≠ 0 → exec i s = .next (s.trap g 3 0 a)) ∧
    (a.toNat < 0x100000 → a.toNat % d.length = 0 → s.mayAccess g .write a.toNat d.length = false →
      exec i s = .next (s.trap g 5 0 a))

/-- The request that a whorl's thread issues next may be presented at once: no earlier one of the whorl waits for its bank (R149). -/
def Sys2Proof.Machine.firstAtBank (s : State) (g : ThreadNo) (blk : Nat) : Prop := s.presents (g / 32) (s.whl (g / 32)).issued blk = true

/-- R44, R45, R93 and R149: a load of creel or of another lap leaves its thread WAITING with pc as it was; once the older stores have
drained, and no earlier request of its whorl waits for the bank, it completes with the value, and the thread is READY at the next word.
Memory does not change. The model's choices it rests on: log entries 7, 70. -/
def Obligations.FarLoads : Prop :=
  ∀ (s : State) (i : Instr) (g : ThreadNo) (d : Reg) (a : Word) (n : Nat) (f : Nat → Word),
    loadWord s i = some (g, d, a, n, f) → s.runs g = true → (s.thr g).rep = none →
    (inCreel a.toNat = true ∨ inLap a.toNat = true) → a.toNat % n = 0 → s.mayAccess g .read a.toNat n = true →
      let th := s.thr g
      completes (exec i s) fun t => otherThreads g s t ∧ t.regs = s.regs ∧ sameMemory s t ∧ (t.thr g).state = .waiting ∧
        (t.thr g).pc = th.pc ∧
        (th.sbuf ≠ [] → exec (.farLoadComplete g) t = .next t) ∧
        (th.sbuf = [] → firstAtBank s g a.toNat → cleanAt s a.toNat n → th.haltReq = false → th.stopReq = false →
          completes (exec (.farLoadComplete g) t) fun u => sameMemory s u ∧ otherThreads g s u ∧
            (u.thr g).state = .ready ∧ (u.thr g).pc = th.pc + 4 ∧ otherRegs d th (u.thr g) ∧
            (d ≠ 0 → (u.thr g).get d = f (leBytes (bytesAt s a.toNat n))))

/-- R45, R93 and R149: a store to creel or to another lap enters the store buffer and retires while fewer than 4 stores wait, and holds
its thread WAITING when 4 wait; the drain of the oldest entry, when its bank takes it next, writes its bytes and no other, and takes it
from the buffer. -/
def Sys2Proof.Machine.partFarStores : Prop :=
  ∀ (s : State) (i : Instr) (g : ThreadNo) (a : Word) (d : List Byte), storeWord s i = some (g, a, d) → s.runs g = true →
    (s.thr g).rep = none → (inCreel a.toNat = true ∨ inLap a.toNat = true) → a.toNat % d.length = 0 →
    s.mayAccess g .write a.toNat d.length = true →
      let th := s.thr g
      let k := (s.whl (g / 32)).issued
      (th.sbuf.length < 4 → exec i s = .next ((s.modWhl (g / 32) fun w => { w with issued := k + 1 }).setThr g
        { th with sbuf := th.sbuf ++ [SbEntry.mem a a.toNat d], stamps := th.stamps ++ [k] }.advance)) ∧
      (4 ≤ th.sbuf.length → completes (exec i s) fun t => onlyThread g s t ∧ (t.thr g).state = .waiting ∧
        (t.thr g).wait = .storeSpace ∧ (t.thr g).pc = th.pc ∧ (t.thr g).sbuf = th.sbuf) ∧
      (th.sbuf = [] → th.stamps = [] → firstAtBank s g a.toNat → cleanAt s a.toNat d.length → completes (exec i s) fun t =>
        completes (exec (.storeDrain g) t) fun u => storesOnly s u a.toNat d ∧ u.thr g = th.advance ∧ otherThreads g s u)

/-- R45 and R94: the drain that empties the store buffer completes a FENCE, and a drain makes a thread that waits for an entry READY
to execute its word again; a store whose bank has an earlier request of the whorl to serve stays (R149). -/
def Sys2Proof.Machine.partStoreBufferWaits : Prop :=
  ∀ (s : State) (g : ThreadNo) (a : Word) (blk : Nat) (d : List Byte) (l : List SbEntry),
    let th := s.thr g
    let first := s.presents (g / 32) (th.stamps.headD 0) blk
    th.state = .waiting → th.sbuf = SbEntry.mem a blk d :: l → d ≠ [] → blk % d.length = 0 → d.length ∈ [1, 2, 4, 8] →
    cleanAt s blk d.length → th.haltReq = false → th.stopReq = false →
      (first = false → exec (.storeDrain g) s = .next s) ∧
      (first = true → completes (exec (.storeDrain g) s) fun t => storesOnly s t blk d ∧ (t.thr g).sbuf = l ∧
        (th.wait = .fence → l = [] → th.rep = none → (t.thr g).state = .ready ∧ (t.thr g).pc = th.pc + 4) ∧
        (th.wait = .fence → l ≠ [] → (t.thr g).state = .waiting) ∧
        (th.wait = .storeSpace → (t.thr g).state = .ready ∧ (t.thr g).pc = th.pc))

/-- R45, R93, R94: a store to creel or another lap enters the store buffer or waits for room; the drain of the oldest entry writes its
bytes; the drain that empties the buffer ends a FENCE. The model's choices it rests on: log entries 7, 70. -/
def Obligations.FarAccessStores : Prop := partFarStores ∧ partStoreBufferWaits

/-- The atomics: the word that each leaves (R95). -/
def Sys2Proof.Machine.atomicWord (s : State) : Instr → Option (ThreadNo × Reg × Word × (Word → Word))
  | .amadd g d a b => some (g, d, (s.thr g).get a, fun old => old + (s.thr g).get b)
  | .amswap g d a b => some (g, d, (s.thr g).get a, fun _ => (s.thr g).get b)
  | .amcas g d a b => some (g, d, (s.thr g).get a, fun old => if old = (s.thr g).get b then (s.thr g).get d else old)
  | _ => none

/-- R95: an atomic on a lap or creel word waits, and completes with the old value in rd and the new word in memory, no other byte of which
changes; a spool view, control space or a host window raises cause 5, a misaligned address cause 3. The model's choices it rests on: log
entries 7. -/
def Obligations.Atomics : Prop :=
  ∀ (s : State) (i : Instr) (g : ThreadNo) (d : Reg) (a : Word) (f : Word → Word),
    atomicWord s i = some (g, d, a, f) → s.runs g = true →
      let th := s.thr g
      let blk := if a.toNat < 0x100000 then lapBlk (g / 32) a.toNat else a.toNat
      let old := BitVec.ofNat 32 (wordAt s blk)
      (a.toNat < 0x100000 ∨ inCreel a.toNat = true ∨ inLap a.toNat = true → a.toNat % 4 = 0 →
        s.mayAccess g .atomic a.toNat 4 = true → th.sbuf = [] → firstAtBank s g blk → cleanAt s blk 4 → th.haltReq = false →
        th.stopReq = false →
        completes (exec i s) fun t => otherThreads g s t ∧ sameMemory s t ∧ (t.thr g).state = .waiting ∧
          completes (exec (.farLoadComplete g) t) fun u => otherThreads g s u ∧ wordAt u blk = (f old).toNat ∧
            sameOutside s u blk 4 ∧ (u.thr g).state = .ready ∧ otherRegs d th (u.thr g) ∧ (d ≠ 0 → (u.thr g).get d = old)) ∧
      (a.toNat % 4 ≠ 0 → exec i s = .next (s.trap g 3 0 a)) ∧
      (a.toNat % 4 = 0 → inCtl a.toNat = true ∨ 0x80000000 ≤ a.toNat ∨ (0x08000000 ≤ a.toNat ∧ a.toNat < 0x08020000) →
        exec i s = .next (s.trap g 5 0 a))

/-! ### Pairs and the repeat prefix (R89, R90, R104 to R108) -/

/-- R106 to R108: both halves of a legal pair that touch no memory and raise no cause read the registers as the pair finds them, and the
word retires once, with the registers that both halves write. A pair that breaks the rules raises cause 1. -/
def Obligations.Pairs : Prop :=
  ∀ (s : State) (g : ThreadNo) (a b : ShortOp), s.runs g = true →
    let th := s.thr g
    (∀ t u, pairCheck a b = none → a.isMem = false → b.isMem = false → shortOp a th = .done t → shortOp b th = .done u →
      completes (exec (.pair g a b) s) fun v => onlyThread g s v ∧ (v.thr g).pc = th.advance.pc ∧
        (∀ r, b.writes = some r → (v.thr g).get (sreg r) = u.get (sreg r)) ∧
        (∀ r, a.writes = some r → (v.thr g).get (sreg r) = t.get (sreg r)) ∧
        (∀ r : Reg, (∀ q, a.writes = some q ∨ b.writes = some q → sreg q ≠ r) → (v.thr g).get r = th.get r)) ∧
    (∀ e, pairCheck a b = some e → exec (.pair g a b) s = .next (s.trap g 1 e.detail th.wordAddr)) ∧
    (a = ⟨1, 2, 4, 0⟩ → b = ⟨1, 3, 5, 0⟩ →
      exec (.pair g a b) s = .next (s.setThr g ((th.set 2 (th.get 4)).set 3 (th.get 5)).advance))

/-- R89 and R90: REP loads rc with its count and repeats the next word, skips that word at count 0, continues with rc when it is not 0; a
count above 64 (4,096 for the interruptible form), a REP inside a repetition, or a word that it may not repeat, raises cause 18. The
model's choices it rests on: log entries 18. -/
def Obligations.Repeats : Prop :=
  ∀ (s : State) (g : ThreadNo) (f : Bool) (r : Option Reg) (k : Fin 4096), s.runs g = true →
    let th := s.thr g
    let cnt := if th.rc ≠ 0 then th.rc.toNat else match r with
      | some x => (th.get x).toNat
      | none => k.val + 1
    let limit := if f then 4096 else 64
    (th.rep = none → 0 < cnt → cnt ≤ limit → s.repBad g = false →
      exec (.rep g f r k) s = .next (s.setThr g { th with rc := BitVec.ofNat 32 cnt, rep := some f, repNew := true, issued := none })) ∧
    (th.rep = none → cnt = 0 → exec (.rep g f r k) s = .next (s.setThr g { th with pc := th.pc + 8, issued := none })) ∧
    (th.rep = none → limit < cnt → exec (.rep g f r k) s = .next (s.trap g 18 0 0)) ∧
    (th.rep = none → 0 < cnt → s.repBad g = true → exec (.rep g f r k) s = .next (s.trap g 18 0 0)) ∧
    (th.rep ≠ none → exec (.rep g f r k) s = .next (s.trap g 18 0 0))

/-! ### Channels (R54 to R57, R64, R65) -/

/-- R55 and R56: the configured sender of an enabled channel appends its word while the FIFO holds fewer than 4, and waits when it is
full; CHTS answers 1 or 0; after a flush the words up to END are dropped (R65); any other thread, and a fifth word of a frame, raises cause 15 with the channel in eaddr. -/
def Sys2Proof.Machine.partChannelSends : Prop :=
  ∀ (s : State) (g : ThreadNo) (d r q : Reg) (fin : Bool), s.runs g = true →
    let th := s.thr g
    let n := g.val / 32
    let c := (th.get r).toNat % 128
    let x := s.chan n c
    let send := if fin then Instr.chse g r q else Instr.chs g r q
    let sender := c < 64 ∧ s.fld (addrWhlChcfg n c) fldWhlChcfg_EN = 1 ∧ s.fld (addrWhlChcfg n c) fldWhlChcfg_SND = g.val % 32
    (sender → x.open_ < 4 → x.discard = false → x.q.length + x.flight.length < 4 →
      (completes (exec send s) fun t => (t.chan n c).q = x.q ++ [(th.get q, fin)] ∧ (t.chan n c).open_ = (if fin then 0 else x.open_ + 1) ∧
        t.thr g = th.advance ∧ otherThreads g s t ∧ sameMemory s t) ∧
      (completes (exec (.chts g d r q fin) s) fun t => (t.chan n c).q = x.q ++ [(th.get q, fin)] ∧ t.thr g = (th.set d 1).advance)) ∧
    (sender → x.open_ < 4 → x.discard = false → 4 ≤ x.q.length + x.flight.length →
      (completes (exec send s) fun t => onlyThread g s t ∧ (t.thr g).state = .waiting ∧ t.chans = s.chans) ∧
      exec (.chts g d r q fin) s = .next (s.setThr g (th.set d 0).advance)) ∧
    (c < 64 → ¬sender ∨ (x.discard = false ∧ 4 ≤ x.open_) → exec send s = .next ((s.setFld (addrWhlChsts n c) fldWhlChsts_ERR 1).trap g 15 0 (BitVec.ofNat 32 c))) ∧
    (sender → x.discard = true → completes (exec send s) fun t => (t.chan n c).q = x.q ∧ (t.chan n c).discard = !fin ∧
      t.thr g = th.advance) ∧
    (80 ≤ c → exec send s = .next (s.trap g 15 0 (BitVec.ofNat 32 c)))

/-- R55 and R56: the configured receiver takes the oldest word with VALID and its END; an empty channel holds CHR WAITING and gives CHTR 0
with VALID 0; CHST reads VALID, END, ERR, the number of words and whether a frame is open. -/
def Sys2Proof.Machine.partChannelReceives : Prop :=
  ∀ (s : State) (g : ThreadNo) (d r : Reg), s.runs g = true →
    let th := s.thr g
    let n := g.val / 32
    let c := (th.get r).toNat % 128
    let x := s.chan n c
    let named := c < 64 ∧ s.fld (addrWhlChcfg n c) fldWhlChcfg_RCV = g.val % 32
    let receiver := named ∧ s.fld (addrWhlChcfg n c) fldWhlChcfg_EN = 1
    let head := nth (0, false) x.q 0
    (∀ i, i = .chr g d r ∨ i = .chtr g d r → receiver → x.rflush = false → x.q ≠ [] →
      completes (exec i s) fun t => (t.chan n c).q = x.q.drop 1 ∧ (t.chan n c).lvalid = true ∧ (t.chan n c).lend = head.2 ∧
        t.thr g = (th.set d head.1).advance ∧ otherThreads g s t ∧ sameMemory s t) ∧
    (receiver → x.rflush = false → x.q = [] →
      (completes (exec (.chr g d r) s) fun t => onlyThread g s t ∧ (t.thr g).state = .waiting ∧ t.chans = s.chans) ∧
      (completes (exec (.chtr g d r) s) fun t => (t.chan n c).lvalid = false ∧ t.thr g = (th.set d 0).advance)) ∧
    (∀ i, i = .chr g d r ∨ i = .chtr g d r → c < 64 → ¬receiver →
      exec i s = .next ((s.setFld (addrWhlChsts n c) fldWhlChsts_ERR 1).trap g 15 0 (BitVec.ofNat 32 c))) ∧
    (c < 64 → exec (.chst g d r) s = .next (s.setThr g (th.set d (BitVec.ofNat 32 (
      (if named ∧ x.lvalid then 1 else 0) + (if named ∧ x.lend then 2 else 0) + 4 * s.fld (addrWhlChsts n c) fldWhlChsts_ERR +
      8 * (x.q.length + x.flight.length) + (if 0 < x.open_ then 128 else 0)))).advance))

/-- R55, R56: CHS, CHSE and CHTS append a word in the channel's sender, CHR, CHTR and CHST take or read one in its receiver; a full or an
empty channel holds the blocking forms, and any other thread takes cause 15. The model's choices it rests on: log entries 15. -/
def Obligations.Channels : Prop := partChannelSends ∧ partChannelReceives

/-- R55, R57 and R64: a channel word whose condition is met makes its thread READY to execute it again; a word in flight on a cross
channel reaches the receiver's FIFO; an aged frame sets HF and HALF_FRAME and queues a record of kind 7. The model's choices it rests on:
log entries 2, 15. -/
def Obligations.ChannelEvents : Prop :=
  (∀ (s : State) (g : ThreadNo) (c : Nat) (r : Reg), (s.thr g).state = .waiting → c < 64 →
    let th := s.thr g
    let x := s.chan (g / 32) c
    let awake := { th with state := TState.ready, wait := Wait.none }
    (th.wait = .chanSend c → x.q.length + x.flight.length < 4 → exec (.channelUnblock g) s = .next (s.setThr g awake)) ∧
    (th.wait = .chanSend c → x.discard = false → 4 ≤ x.q.length + x.flight.length → exec (.channelUnblock g) s = .next s) ∧
    (th.wait = .chanRecv c r → x.q ≠ [] → exec (.channelUnblock g) s = .next (s.setThr g awake)) ∧
    (th.wait = .chanRecv c r → x.rflush = false → x.q = [] → exec (.channelUnblock g) s = .next s)) ∧
  (∀ (s : State) (n : WhorlNo) (x : Fin 16) (w : Word × Bool) (l : List (Word × Bool)), (s.xend n x).flight = w :: l →
    completes (exec (.xchanArrive n x) s) fun t => (t.xend n x).flight = l ∧ (t.xend n x).q = (s.xend n x).q ++ [w] ∧
      t.threads = s.threads) ∧
  (∀ (s : State) (n : WhorlNo) (c : Fin 80), s.frameAging n c = true → (s.whl n).notes = [] →
    completes (exec (.frameAgeExpire n c) s) fun t => t.on (addrWhlStatus n) fldWhlStatus_HALF_FRAME = true ∧
      t.on (chStsAddr n c) (chHF c) = true ∧ t.chans = s.chans ∧ t.xchans = s.xchans ∧
      (t.thr (32 * n)).ev = (s.thr (32 * n)).ev ||| 0x20000000 ∧ ∃ r, (t.whl n).notes = [r] ∧ r.kind = 7 ∧ r.pc.toNat = c)

/-! ### Unit instructions, pins and coprocessors (R110 to R113, R357, R367, R374) -/

/-- The unit instructions that hold their thread until the unit answers, with what they hand to the unit (R110, R115). -/
def Sys2Proof.Machine.unitWord (s : State) : Instr → Option (ThreadNo × UnitOp × Reg × Word × Word)
  | .bpop g d a => if ((s.thr g).get a).toNat.testBit 16 then none else some (g, .bpop, d, (s.thr g).get a, 0)
  | .bpopRelease g d a => if ((s.thr g).get a).toNat.testBit 16 then some (g, .bpop, d, (s.thr g).get a, 0) else none
  | .balloc g d a => some (g, .balloc, d, (s.thr g).get a, 0)
  | .bfree g a => some (g, .bfree, 0, (s.thr g).get a, 0)
  | .bcrd g d a b => some (g, .bcrd, d, (s.thr g).get a, (s.thr g).get b)
  | .drgo g d a b => if s.drgoDenied g ((s.thr g).get a) then none else some (g, .drgo, d, (s.thr g).get a, (s.thr g).get b)
  | .plygoPass g d a b => plyWord g d a b 0
  | .plygoPost g d a b => plyWord g d a b 1
  | .plygoArm g d a b => plyWord g d a b 2
  | .plygoAbort g d a b => plyWord g d a b 3
  | .sknOpen g d a b => sknWord g d a b 0
  | .sknEnter g d a b => sknWord g d a b 1
  | .sknSnap g d a b => sknWord g d a b 2
  | .sknDrain g d a b => sknWord g d a b 3
  | .sknClose g d a b => sknWord g d a b 4
  | _ => none
where
  plyWord (g : ThreadNo) (d a b : Reg) (op : Nat) : Option (ThreadNo × UnitOp × Reg × Word × Word) :=
    if ((s.thr g).get b).toNat % 8 = op ∧ s.plygoDenied g ((s.thr g).get a) ((s.thr g).get b) = false then
      some (g, .plygo, d, (s.thr g).get a, (s.thr g).get b) else none
  sknWord (g : ThreadNo) (d a b : Reg) (op : Nat) : Option (ThreadNo × UnitOp × Reg × Word × Word) :=
    if ((s.thr g).get b).toNat % 16 = op ∧ s.sknDenied g ((s.thr g).get a) ((s.thr g).get b) = false then
      some (g, .skn, d, (s.thr g).get a, (s.thr g).get b) else none

/-- R110, R111 and R115: a unit instruction holds its thread WAITING; DRGO, PLYGO and SKN wait for the store buffer, then their unit's
answer is written to rd and the thread is READY at the next word. The model's choices it rests on: log entries 7, 19. -/
def Obligations.UnitWords : Prop :=
  ∀ (s : State) (i : Instr) (g : ThreadNo) (o : UnitOp) (d : Reg) (a b : Word),
    unitWord s i = some (g, o, d, a, b) → s.runs g = true → (s.thr g).rep = none → (s.thr g).haltReq = false →
    (s.thr g).stopReq = false →
      let th := s.thr g
      completes (exec i s) fun t => t = s.setThr g { th with state := .waiting, wait := .unit o d a b, issued := none } ∧
        (o = .drgo ∨ o = .plygo ∨ o = .skn → th.sbuf ≠ [] → exec (.farUnitComplete g) t = .next t) ∧
        (o = .drgo ∨ o = .plygo ∨ o = .skn → th.sbuf = [] → completes (exec (.farUnitComplete g) t) fun u =>
          (u.thr g).state = .ready ∧ (u.thr g).pc = th.pc + 4 ∧
          (u.thr g).get d = if d = 0 then 0 else match o with
            | .drgo => (t.drgo g a b).2
            | .plygo => (t.plygo g a b).2
            | _ => (t.sknOp a b).2)

/-- R357, R367, R374, R113 and R424: TRF fires its producer, PINW drives its pin, PINR reads it, PINT queues an edge, CXP presents its
request and waits; each is refused with cause 2 DETAIL 3 where the thread does not own what it names. -/
def Sys2Proof.Machine.partPinAndPortWords : Prop :=
  ∀ (s : State) (g : ThreadNo) (d r q : Reg) (f : Fin 1024) (j : Fin 4), s.runs g = true →
    let th := s.thr g
    let pin := (th.get r).toNat % 128
    let prod := (th.get r).toNat % 64
    (s.rowZ prod = th.st.toNat.testBit 2 → completes (exec (.trf g r) s) fun t => t.thr g = th.advance ∧ sameMemory s t ∧
      (t.rd (addrTrdPlat (prod / 32))).toNat.testBit (prod % 32) = true) ∧
    (s.rowZ prod ≠ th.st.toNat.testBit 2 → exec (.trf g r) s = .next (s.trap g 2 3 th.wordAddr)) ∧
    (s.pinThreadOk g pin = true →
      (completes (exec (.pinw g r q) s) fun t => t.thr g = th.advance ∧ sameMemory s t ∧
        (t.rd (addrPinOut (pin / 32))).toNat.testBit (pin % 32) = (th.get q).toNat.testBit 0) ∧
      (completes (exec (.pinr g d r) s) fun t => t.thr g = (th.set d (if (s.pinSample pin).2 then 1 else 0)).advance ∧ sameMemory s t) ∧
      (pin < 16 → q.val % 2 = 0 → (s.pin pin).edges.length < 4 → completes (exec (.pint g r q) s) fun t =>
        t.thr g = th.advance ∧ sameMemory s t) ∧
      (pin < 16 → q.val % 2 = 0 → 4 ≤ (s.pin pin).edges.length → completes (exec (.pint g r q) s) fun t =>
        onlyThread g s t ∧ (t.thr g).state = .waiting)) ∧
    (s.pinThreadOk g pin = false → exec (.pinw g r q) s = .next (s.trap g 2 3 th.wordAddr) ∧
      exec (.pinr g d r) s = .next (s.trap g 2 3 th.wordAddr)) ∧
    (s.fld (addrCxpCfg j) fldCxpCfg_EN = 1 → th.st.toNat.testBit 2 = false → completes (exec (.cxp g j d r q f) s) fun t =>
      (t.thr g).state = .waiting ∧ (t.thr g).wait = .cxp j d ∧ sameMemory s t ∧
      t.cxpOut = s.cxpOut ++ [{ whorl := g / 32, maj := j, fn := f, a := th.get r, b := th.get q, thr := g % 32, z := false,
                                lv := th.st.toNat.testBit 1 }])

/-- R424 and R113: the port's response is written to rd and the thread is READY at the next word; without a response in time it takes
cause 17. -/
def Sys2Proof.Machine.partPortAnswers : Prop :=
  ∀ (s : State) (g : ThreadNo) (j : Nat) (d : Reg) (v : Word), (s.thr g).wait = .cxp j d → (s.thr g).haltReq = false →
    (s.thr g).stopReq = false → (s.thr g).rep = none →
      (completes (exec (.cxpResponse g v) s) fun t => onlyThread g s t ∧ (t.thr g).state = .ready ∧ (t.thr g).pc = (s.thr g).pc + 4 ∧
        otherRegs d (s.thr g) (t.thr g) ∧ (d ≠ 0 → (t.thr g).get d = v)) ∧
      exec (.cxpTimeout g) s = .next (s.trap g 17 0 0)

/-- R357, R367, R374, R113, R424: TRF, PINW, PINR, PINT and CXP do what they say in the thread that owns what they name; the port's
response ends a CXP. The model's choices it rests on: log entries 16, 56. -/
def Obligations.PinsAndPorts : Prop := partPinAndPortWords ∧ partPortAnswers


/-! ### Register writes (R16 to R19, R440, R467 to R469)

A family's rows name the writer, the address and the value of each command; its effects say what a write that is granted, that the
access codes admit and that sets no reserved bit does. -/

/-- A write to a register takes effect: the writer's regions grant it (R152, R154), it is no privilege violation (R16 to R18), it sets
no reserved bit and is no reserved encoding (R19), and the unit refuses it for no reason of its own, as it may a scrub, a doorbell, a
release and a start (R161, R175, R260). `home` is the key of the register, which stands at `a`. -/
def Sys2Proof.Machine.takesEffect (s : State) (who : Writer) (row : RegRow) (ix : List Nat) (home a : Nat) (v : Word) : Prop :=
  let rq := s.reqBy who
  s.ctlGranted rq true a = true ∧ s.writeDenied rq row ix home v = false ∧ setsReserved row.flds v = false ∧
    s.encBad rq row.name ix (s.heldWord row.name ix home) v = false ∧ s.writeRefused rq row.name ix v = none

/-- The address holds a register, and the write to it takes effect. -/
def Sys2Proof.Machine.admitted (s : State) (who : Writer) (a : Nat) (v : Word) : Prop :=
  ∃ row ix, locate a = some (row, ix) ∧ takesEffect s who row ix a a v

/-- R440: an OFF unit whose EN is written 1 is STARTING, an ON unit whose EN is written 0 is STOPPING. -/
def Sys2Proof.Machine.enableActs (s t : State) (a : Nat) (v : Word) : Prop :=
  (s.unitState a = 0 → s.fld a enEN = 0 → v.toNat.testBit 0 = true → t.unitState a = 1) ∧
    (s.unitState a = 2 → s.fld a enEN = 1 → v.toNat.testBit 0 = false → t.unitState a = 3)

/-- The first `n` counters of a family read 0. -/
def Sys2Proof.Machine.countersClear (t : State) (a : Nat → Nat) (n : Nat) : Prop := ∀ i, i < n → t.rd (a i) = 0

/-- Registers that hold what is written to them and do nothing else. -/
def Sys2Proof.Machine.plainRegisters : List RegName :=
  [.whlTpc, .memRgnbase, .memRgnlim, .memRgnattr, .bobStage, .bobPart, .lgrAdjset, .lnkCfg, .rteCfg, .reelPer, .drfListlo, .plyRba, .sknSchlo,
   .tnsTxp, .sngSeed, .trdPcfg, .hapIaddr, .cxpCfg, .dbgTsel]

/-- R18, R19, R118, R469: a running thread's write that is a privilege violation gives it cause 2 with DETAIL 2; one that only its regions
refuse gives cause 5; neither writes anything. A word that no register holds takes only 0; any other value sets RSVD_WR of the unit and
nothing else, with the unit event of LNK_STATUS where that bit comes to be set (R226). A register without an effect of its own holds the
value written; WHL_TPC keeps its own under a reserved bit. The model's choices it rests on: log entries 21, 22, 24. -/
def Obligations.RegisterWriteChecks : Prop :=
  (∀ (s : State) (g : ThreadNo) (addr v : Word) (h : ThreadNo),
    let a := addr.toNat / 4 * 4
    let c := Instr.registerWrite (.thread g) addr v
    let tpc := addrWhlTpc (h / 32) (h % 32)
    (s.ctlDenied (s.reqOf g) a v = true → s.runs g = true → exec c s = .next (s.trap g 2 2 (BitVec.ofNat 32 a))) ∧
    (s.ctlDenied (s.reqOf g) a v = false → s.ctlGranted (s.reqOf g) true a = false → s.runs g = true →
      exec c s = .next (s.trap g 5 0 (BitVec.ofNat 32 a))) ∧
    (a = tpc → s.ctlGranted (s.reqOf g) true a = true → (s.thr g).isSup = true → (s.thr g).isZ = false → v.toNat % 4 ≠ 0 →
      exec c s = .next (s.setFld (addrWhlStatus (h / 32)) fldWhlStatus_RSVD_WR 1))) ∧
  (∀ (s : State) (who : Writer) (addr v : Word),
    let a := addr.toNat / 4 * 4
    let c := Instr.registerWrite who addr v
    let b := rsvdFlag a
    locate a = none → s.ctlGranted (s.reqBy who) true a = true →
      (v = 0 → exec c s = .next s) ∧
      (v ≠ 0 → a / 2 ^ 24 ≠ 0x42 ∨ s.on b.1 b.2 = true → exec c s = .next (s.setFld b.1 b.2 1)) ∧
      (v ≠ 0 → a / 2 ^ 24 = 0x42 → s.on b.1 b.2 = false →
        exec c s = .next ((s.setFld b.1 b.2 1).raise (4 * min (a % 2 ^ 24 / 0x10000) 143 + 2)))) ∧
  (∀ (s : State) (who : Writer) (addr v : Word) (row : RegRow) (ix : List Nat),
    let a := addr.toNat / 4 * 4
    locate a = some (row, ix) → row.name ∈ plainRegisters → takesEffect s who row ix a a v →
      exec (.registerWrite who addr v) s = .next (s.wr a v))

/-- The registers that a producer's event may change: its latch, and the groups it joins (R353, R357). -/
def Sys2Proof.Machine.producerRegs : List Nat := (List.range 15).map addrTrdPlat ++ (List.range 32).map addrTrdGctl

/-- The registers that an error found in memory may change besides (R158 to R160, R188). -/
def Sys2Proof.Machine.errorRegs : List Nat := [addrMemEccst, addrMemCelog, addrMemUelog, addrMemUemst, addrLgrGstat] ++ producerRegs

/-- What an entry of the audit log changes: the head of the log, the OTP counter, the flag of an exhausted counter (R402). -/
def Sys2Proof.Machine.auditRegs : List Nat :=
  addrSecStatus :: addrSecAudctr :: (List.range 2).map addrSecAudseq ++ (List.range 12).map addrSecAudhead ++ errorRegs

/-- Where the next entry of the audit log goes (R402). -/
def Sys2Proof.Machine.auditArea (s : State) : Nat × Nat := (lapBlk 39 (s.fld addrSecAudbase fldSecAudbase_BASE * 65536 + s.audNext % 512 * 128), 128)

/-- What interrupt vectors that fire may change (R420, R421). -/
def Sys2Proof.Machine.vectorRegs : List Nat :=
  addrHapGstat :: (List.range 8).map addrHapStatus ++ (List.range 256).map addrHapIctl ++
    (List.range 8).flatMap (fun c => (List.range 8).map (addrHapCnt c)) ++ producerRegs

/-- The counters of a set of the ledger (R183). -/
def Sys2Proof.Machine.setArea (s : State) (set : Nat) : List (Nat × Nat) :=
  match s.lgrSet set with
  | some b => [(b, 16)]
  | none => []

/-- The register writes of whorls (R40, R46, R49, R51, R54, R57, R65, R135). -/
def Sys2Proof.Machine.whorlRow : Instr → Option (Writer × Nat × Word)
  | .slotWrite who n e v => some (who, addrWhlSlot n e, v)
  | .slotHold who n hold => some (who, addrWhlSlotctl n, if hold then 1 else 0)
  | .threadStart who g nodon => some (who, addrWhlTctl (g / 32) (g % 32), if nodon then 5 else 1)
  | .threadHalt who g nodon => some (who, addrWhlTctl (g / 32) (g % 32), if nodon then 6 else 2)
  | .threadClrf who g nodon => some (who, addrWhlTctl (g / 32) (g % 32), if nodon then 12 else 8)
  | .evpendClear who g v => some (who, addrWhlEvpend (g / 32) (g % 32), v)
  | .deadlineArm who g v => some (who, addrWhlDlhi (g / 32) (g % 32), v)
  | .channelConfig who n c v => some (who, addrWhlChcfg n c, v)
  | .xchanConfig who n x v => some (who, addrWhlXcfg n x, v)
  | .channelFlush who n c => some (who, if c.val < 64 then addrWhlChctl n c else addrWhlXctl n (c.val - 64), 1)
  | .notePop who n esc => some (who, if esc then addrWhlEscctl else addrWhlNotectl n, 1)
  | _ => none

/-- What they do. -/
def Sys2Proof.Machine.whorlEffect (s t : State) : Instr → Prop
  | .slotWrite _ n e v => t.rd (addrWhlSlot n e) = v ∧ t.on (addrWhlSlotst n) fldWhlSlotst_PEND = true ∧
      ∀ k : Fin 64, t.rd (addrWhlSlota n k) = s.rd (addrWhlSlota n k)
  | .slotHold _ n hold => t.on (addrWhlSlotctl n) fldWhlSlotctl_HOLD = hold
  | .threadStart _ g _ =>
    ((s.thr g).state = .halted → s.mapOk (g / 32) = true → (t.thr g).state = .ready ∧ (t.thr g).pc = s.rd (addrWhlTpc (g / 32) (g % 32)) ∧
      (t.thr g).lk = 0xFFFFFFFC ∧ (t.thr g).st = (if s.mapZ g then 0x17 else 0x13) ∧ (t.thr g).fx = 4 ∧ (t.thr g).rc = 0 ∧
      (t.thr g).ecause = 0 ∧ (t.thr g).hrs = [] ∧ otherThreads g s t) ∧
    ((s.thr g).state ≠ .halted ∨ s.mapOk (g / 32) = false → t.threads = s.threads)
  | .threadHalt _ g _ =>
    (((s.thr g).state = .ready ∧ (s.thr g).entry = none) ∨ ((s.thr g).state = .waiting ∧ ∃ m, (s.thr g).wait = .event m) →
      (t.thr g).state = .halted ∧ (t.thr g).pc = (s.thr g).pc) ∧
    ((s.thr g).state = .halted → t.threads = s.threads)
  | .threadClrf _ g _ => ((s.thr g).state = .faulted → t.thr g = { s.thr g with state := .halted }) ∧
      ((s.thr g).state ≠ .faulted → t.threads = s.threads)
  | .evpendClear _ g v => 
      t.thr g = { s.thr g with ev := (s.thr g).ev &&& ~~~(v &&& ~~~s.marked (addrWhlEvpend (g / 32) (g % 32))) } ∧ otherThreads g s t
  | .deadlineArm _ g v => t.rd (addrWhlDlhi (g / 32) (g % 32)) = v ∧ t.thr g = { s.thr g with dlArmed := true }
  | .channelConfig _ n c v => t.rd (addrWhlChcfg n c) = v ∧
      (s.on (addrWhlChcfg n c) fldWhlChcfg_EN = true → v.toNat.testBit 0 = false →
        t.chan n c = {} ∧ t.on (addrWhlChsts n c) fldWhlChsts_ERR = true) ∧
      (s.on (addrWhlChcfg n c) fldWhlChcfg_EN = false ∨ v.toNat.testBit 0 = true → t.chans = s.chans)
  | .xchanConfig _ n x v => t.rd (addrWhlXcfg n x) = v ∧
      (s.on (addrWhlXcfg n x) fldWhlXcfg_EN = false ∨ v.toNat.testBit 0 = true → t.xchans = s.xchans)
  | .channelFlush _ n c => t.on (chStsAddr n c) (chERR c) = true ∧
      (c.val < 64 → (s.chan n c).open_ = 0 → t.chans = s.chans) ∧ (c.val < 64 → 0 < (s.chan n c).open_ → (t.chan n c).discard = true)
  | .notePop _ n esc => if esc then t.escq = s.escq.drop 1 else (t.whl n).notes = (s.whl n).notes.drop 1
  | _ => True

/-- The registers that they may change. -/
def Sys2Proof.Machine.whorlRegs (s : State) : Instr → List Nat
  | .slotWrite _ n e _ => [addrWhlSlot n e, addrWhlSlotst n]
  | .slotHold _ n _ => [addrWhlSlotctl n]
  | .threadStart _ g _ => addrWhlTctl (g / 32) (g % 32) :: (if s.mapOk (g / 32) then [] else auditRegs)
  | .threadHalt _ g _ => [addrWhlTctl (g / 32) (g % 32), addrSecGrant]
  | .threadClrf _ g _ => [addrWhlTctl (g / 32) (g % 32)]
  | .deadlineArm _ g _ => [addrWhlDlhi (g / 32) (g % 32)]
  | .channelConfig _ n c _ => [addrWhlChcfg n c, addrWhlChsts n c, addrSecGrant]
  | .xchanConfig _ n x _ => [addrWhlXcfg n x, addrWhlXsts n x, addrWhlXsts (s.xpeer n x).1 (s.xpeer n x).2, addrSecGrant]
  | .channelFlush _ n c => [chStsAddr n c, addrSecGrant]
  | _ => []

/-- They store to no memory; a START that the world map forbids is told in the audit log (R25). -/
def Sys2Proof.Machine.whorlAreas (s : State) : Instr → List (Nat × Nat)
  | .threadStart _ g _ => if s.mapOk (g / 32) then [] else [auditArea s]
  | _ => []

/-- A thread blocked in a channel operation. -/
def Sys2Proof.Machine.blockedThread (s : State) (h : Nat) : Prop := ∃ c, (s.thr h).wait = .chanSend c ∨ ∃ r, (s.thr h).wait = .chanRecv c r

/-- The threads that they may change: the one named, or those that a channel which is disabled or flushed lets go (R54, R65). -/
def Sys2Proof.Machine.whorlThread (s : State) (h : Nat) : Instr → Prop
  | .threadStart _ g _ => h = g.val
  | .threadHalt _ g _ => h = g.val
  | .threadClrf _ g _ => h = g.val
  | .evpendClear _ g _ => h = g.val
  | .deadlineArm _ g _ => h = g.val
  | .channelConfig _ _ _ _ => blockedThread s h
  | .xchanConfig _ _ _ _ => blockedThread s h
  | .channelFlush _ _ _ => blockedThread s h
  | _ => False

/-- The writes of a whorl's control registers complete with the effects of `whorlEffect`, drawn from R25, R40, R46, R49, R51, R54, R57, R65
and R135, and nothing else changes: no byte of memory, no other register, no other thread. The model's choices it rests on: log entries
93, 94, 113. -/
def Obligations.WhorlWrites : Prop :=
  ∀ (s : State) (c : Instr) (who : Writer) (a : Nat) (v : Word), whorlRow c = some (who, a, v) → admitted s who a v →
    completes (exec c s) fun t => whorlEffect s t c ∧ onlyAreas s t (whorlAreas s c) ∧ t.pending = s.pending ∧
      otherRegisters s t (whorlRegs s c) ∧ ∀ h, h < 1280 → ¬ whorlThread s h c → t.thr h = s.thr h

/-- The register writes of the memory unit, of bobbins and of the ledger (R161 to R167, R169, R175, R184, R185, R187, R188). -/
def Sys2Proof.Machine.storeRow : Instr → Option (Writer × Nat × Word)
  | .scrub who v => some (who, addrMemScrub, v)
  | .rawRead who v => some (who, addrMemRawctl, v)
  | .rawWrite who v => some (who, addrMemRawctl, v)
  | .eccCountClear who v => some (who, addrMemEccctl, v)
  | .remapLock who v => some (who, addrMemRemapctl, v)
  | .remapWrite who row v => some (who, remapAddr row, v)
  | .bobSetWrite who k => some (who, addrBobSetcmd, BitVec.ofNat 32 (0x10000 + k))
  | .bobSetRead who k => some (who, addrBobSetcmd, BitVec.ofNat 32 (0x20000 + k))
  | .bobSetClear who k => some (who, addrBobSetcmd, BitVec.ofNat 32 (0x30000 + k))
  | .bobbinEnable who k v => some (who, addrBobBctl k, v)
  | .doorbell who k n => some (who, addrBobDb k, BitVec.ofNat 32 n)
  | .release who k n => some (who, addrBobDb k, BitVec.ofNat 32 (2 ^ 31 + n))
  | .retire who v => some (who, addrBobRetidx, v)
  | .grantAdjust who v => some (who, addrLgrAdjamt, v)
  | .ledgerOverride who v => some (who, addrLgrOvrcmd, v)
  | .guaranteeBreak who v => some (who, addrLgrGstat, v)
  | _ => none

/-- What they do. -/
def Sys2Proof.Machine.storeEffect (s t : State) : Instr → Prop
  | .scrub _ v => (∀ wb ∈ scrubWords v.toNat, s.synd wb ≠ .bad) → ∀ wb ∈ scrubWords v.toNat, t.synd wb = .clean
  | .rawRead _ v => v = 1 → sameMemory s t ∧
      t.rd addrMemRawlo = BitVec.ofNat 32 (leBytes (bytesAt s s.rawAddr (eccW s.rawAddr)))
  | .rawWrite _ v => v = 2 → storesOnly s t s.rawAddr (bytesLE (eccW s.rawAddr)
      ((s.rd addrMemRawlo).toNat + if eccW s.rawAddr = 8 then (s.rd addrMemRawhi).toNat * 2 ^ 32 else 0))
  | .eccCountClear _ v => v = 1 → t.fld addrMemEccst fldMemEccst_CECNT = 0 ∧ t.fld addrMemEccst fldMemEccst_UECNT = 0
  | .remapLock _ v => v.toNat.testBit 0 = true → t.on addrMemRemapctl fldMemRemapctl_LOCK = true
  | .remapWrite _ row v =>
    (s.on addrMemRemapctl fldMemRemapctl_LOCK = true → t.on addrMemRemapctl fldMemRemapctl_REFUSED = true ∧
      t.rd (remapAddr row) = s.rd (remapAddr row)) ∧
    (s.on addrMemRemapctl fldMemRemapctl_LOCK = false → (s.rd (remapAddr row)).toNat.testBit 30 = false →
      t.rd (remapAddr row) = v &&& 0xBFFFFFFF)
  | .bobSetWrite _ k =>
    let w := fun i => (s.rd (addrBobStage i)).toNat
    (s.unitState (addrBobBctl k) = 0 ∧ s.stageOk w = true → t.bobValid k = true) ∧
      (s.unitState (addrBobBctl k) ≠ 0 ∨ s.stageOk w = false → t = s.setFld addrBobSetst fldBobSetst_ERR 1)
  | .bobSetRead _ k => sameMemory s t ∧ ∀ i, i < 8 → t.rd (addrBobStage i) = BitVec.ofNat 32 (s.bd k i)
  | .bobSetClear _ k => (s.unitState (addrBobBctl k) = 0 → t.bobValid k = false) ∧
      (s.unitState (addrBobBctl k) ≠ 0 → t = s.setFld addrBobSetst fldBobSetst_ERR 1)
  | .bobbinEnable _ k v => enableActs s t (addrBobBctl k) v
  | .doorbell _ k n => cleanAt s (bdAddr k 4) 4 → t.prod k = (s.prod k + n) % 2 ^ 32
  | .release _ k n => cleanAt s (bdAddr k 5) 4 → s.slipWait = [] → s.bobType k ≠ 1 → t.cons k = (s.cons k + n) % 2 ^ 32
  | .retire _ v =>
    let k := s.fld addrBobRetire fldBobRetire_BOB
    if s.sends.any (fun r => r.bob = k && r.idx = v.toNat) then
      t.sends = s.sends.filter (fun r => !(r.bob = k && r.idx = v.toNat)) else t.on addrLgrStatus fldLgrStatus_LATEACK = true
  | .grantAdjust _ v =>
    let set := s.fld addrLgrAdjset fldLgrAdjset_SET
    let sum := fun (c : Ctr) => (s.ctr set c : Int) + v.toInt
    let fits := fun (c : Ctr) => 0 ≤ sum c ∧ sum c < 2 ^ 32
    (∀ b, s.lgrSet set = some b → cleanAt s b 16) →
      (sum .free < 0 → t = s.setFld addrLgrStatus fldLgrStatus_ADJREF 1) ∧
      ((s.lgrSet set).isSome = true → fits .free → (t.ctr set .free : Int) = sum .free ∧ (fits .grant → (t.ctr set .grant : Int) = sum .grant) ∧
        t.ctr set .held = s.ctr set .held ∧ t.ctr set .flight = s.ctr set .flight)
  | .ledgerOverride _ v => v.toNat.testBit 0 = true → t.on addrLgrStatus fldLgrStatus_OVR = true ∧
      t.on addrLgrGstat fldLgrGstat_OVR = true ∧ t.on addrLgrGstat fldLgrGstat_GUAR = false
  | .guaranteeBreak _ v => v.toNat.testBit 3 = true ∨ v.toNat.testBit 4 = true → t.on addrLgrGstat fldLgrGstat_GUAR = false
  | _ => True

/-- The words of the rows that a remap register names before and after a write (R143, R144). -/
def Sys2Proof.Machine.remapWords (s : State) (v : Word) : RemapRow → List Nat
  | .creel b k => creelRow b (s.fld (addrMemCremap b k) fldMemCremap_ROW) ++ creelRow b (getF v fldMemCremap_ROW)
  | .lap n b k => lapRow n b (s.fld (addrMemLremap n b k) fldMemLremap_ROW) ++ lapRow n b (getF v fldMemLremap_ROW)

/-- The counts of the owners of a bobbin's old and new ring (R181). -/
def Sys2Proof.Machine.ownerUse (s : State) (k : Nat) : List Nat :=
  [s.bdf k 0 bdOWNER, natField (s.rd (addrBobStage 0)).toNat bdOWNER].map fun g => addrWhlTuse (g / 32) (g % 32)

/-- The registers and the areas of memory that they may change; a release that makes waiting slips go on, and the disable of a TX
bobbin that holds slips, are not told here. -/
def Sys2Proof.Machine.storeFrame (s : State) : Instr → Option (List Nat × List (Nat × Nat))
  | .scrub _ v => some (addrMemScrub :: errorRegs, (scrubWords v.toNat).map fun a => (a, eccW a))
  | .rawRead _ v => if v = 1 then some ([addrMemRawctl, addrMemRawlo, addrMemRawhi, addrMemRawchk], []) else none
  | .rawWrite _ v => if v = 2 then some ([addrMemRawctl], [(s.rawAddr, eccW s.rawAddr)]) else none
  | .eccCountClear _ _ => some ([addrMemEccctl, addrMemEccst], [])
  | .remapLock _ _ => some ([addrMemRemapctl], [])
  | .remapWrite _ row v => some ([remapAddr row, addrMemRemapctl], (remapWords s v row).flatMap fun a => [(a, 8), (a + rowAway, 8)])
  | .bobSetWrite _ k => some (addrBobSetcmd :: addrBobSetst :: ownerUse s k ++ errorRegs, [(bdAddr k 0, 32)])
  | .bobSetRead _ _ => some (addrBobSetcmd :: (List.range 8).map addrBobStage ++ errorRegs, [])
  | .bobSetClear _ k => some (addrBobSetcmd :: addrBobSetst :: ownerUse s k, [(bdAddr k 0, 32)])
  | .bobbinEnable _ k _ => if (s.txOf k).isEmpty then some (addrBobBctl k :: errorRegs, [(bdAddr k 0, 32)]) else none
  | .doorbell _ k _ => some (addrBobBctl k :: errorRegs ++ vectorRegs, [(bdAddr k 0, 32)])
  | .release _ k _ => if s.slipWait = [] ∧ s.bobType k ≠ 1 then some (addrBobBctl k :: errorRegs, [(bdAddr k 0, 32)]) else none
  | .retire _ _ => some (addrLgrStatus :: errorRegs, s.sends.flatMap fun r => setArea s r.pool)
  | .grantAdjust _ _ => some (addrLgrStatus :: errorRegs, setArea s (s.fld addrLgrAdjset fldLgrAdjset_SET))
  | .ledgerOverride _ _ => some (addrLgrStatus :: errorRegs, setArea s (s.fld addrLgrOvrset fldLgrOvrset_SET))
  | .guaranteeBreak _ _ => some ([addrLgrGstat], [])
  | _ => none

/-- The writes of the memory, bobbin and ledger registers complete with the effects of `storeEffect`, drawn from R161 to R167, R169, R175
and R184 to R188; no thread changes, and no register or byte but those of `storeFrame`. The model's choices it rests on: log entries 23,
25, 26. -/
def Obligations.StoreWrites : Prop :=
  ∀ (s : State) (c : Instr) (who : Writer) (a : Nat) (v : Word), storeRow c = some (who, a, v) → admitted s who a v →
    completes (exec c s) fun t => storeEffect s t c ∧ t.threads = s.threads ∧ t.pending = s.pending ∧
      ∀ f, storeFrame s c = some f → otherRegisters s t f.1 ∧ onlyAreas s t f.2

/-- The register writes of links, forwarding and the reel (R223, R226, R227, R230, R243, R254, R255). -/
def Sys2Proof.Machine.wireRow : Instr → Option (Writer × Nat × Word)
  | .controlSend who p v => some (who, addrLnkCtxcmd p, v)
  | .controlPop who p v => some (who, addrLnkCrxctl p, v)
  | .linkCounterClear who p v => some (who, addrLnkCntclr p, v)
  | .linkEnable who p v => some (who, addrLnkCtl p, v)
  | .routeCommit who d v => some (who, addrRtePathi d, v)
  | .ctxHold who c => some (who, addrRteCtxcmd, BitVec.ofNat 32 (2 ^ 30 + c))
  | .ctxResend who c => some (who, addrRteCtxcmd, BitVec.ofNat 32 (2 * 2 ^ 30 + c))
  | .ctxAbort who c => some (who, addrRteCtxcmd, BitVec.ofNat 32 (3 * 2 ^ 30 + c))
  | .routeCounterClear who v => some (who, addrRteCntclr, v)
  | .reelSwapRequest who p v => some (who, addrReelPctl p, v)
  | .reelArm who v => some (who, addrReelCfgcmd, v)
  | _ => none

/-- What they do. -/
def Sys2Proof.Machine.wireEffect (s t : State) : Instr → Prop
  | .controlSend _ p v => v.toNat.testBit 0 = true →
      (s.on (addrLnkCtxcmd p) fldLnkCtxcmd_BUSY = false → s.ctxWritten p (s.on (addrLnkCtxhdr p) fldLnkCtxhdr_FULL) = true →
        t.on (addrLnkCtxcmd p) fldLnkCtxcmd_BUSY = true ∧ (t.port p).fw.isSome = true) ∧
      (s.on (addrLnkCtxcmd p) fldLnkCtxcmd_BUSY = true → t.on (addrLnkStatus p) fldLnkStatus_CTLOV = true ∧ t.ports = s.ports)
  | .controlPop _ p v => v.toNat.testBit 0 = true → (t.port p).crx = (s.port p).crx.drop 1
  | .linkCounterClear _ p v => v.toNat.testBit 0 = true → countersClear t (addrLnkCnt p) 9
  | .linkEnable _ p v => enableActs s t (addrLnkCtl p) v
  | .routeCommit _ d v => t.rd (addrRtePathi d) = v ∧ t.rd (addrRteCandlo d) = (s.ptePend d).1 ∧
      t.rd (addrRteCandhi d) = (s.ptePend d).2.1 ∧ t.rd (addrRtePatlo d) = (s.ptePend d).2.2 ∧
      t.fld (addrRteStep d) fldRteStep_STEP ≤ v.toNat / 2 ^ 20 % 16
  | .ctxHold _ c => ∀ x, s.ctx c = some x → x.expired = true → t = s.setCtx c { x with expired := false }
  | .ctxResend _ c => ∀ x, s.ctx c = some x → x.expired = true → t.ctxs = terase s.ctxs c
  | .ctxAbort _ c => ∀ x, s.ctx c = some x → x.expired = true → t.ctxs = terase s.ctxs c
  | .routeCounterClear _ v => v.toNat.testBit 0 = true → countersClear t addrRteCnt 13
  | .reelSwapRequest _ p v => (v.toNat.testBit 0 = true → t.on (addrReelPctl p) fldReelPctl_SWAP = true) ∧
      t.on (addrReelPctl p) fldReelPctl_RUSE = v.toNat.testBit 1 ∧ t.on (addrReelPctl p) fldReelPctl_ESQHOLD = v.toNat.testBit 2
  | .reelArm _ v => v.toNat.testBit 0 = true → t.on addrReelCfgst fldReelCfgst_ARMED = true
  | _ => True

/-- The registers that they may change. -/
def Sys2Proof.Machine.wireRegs (s : State) : Instr → List Nat
  | .controlSend _ p _ => [addrLnkCtxcmd p, addrLnkStatus p]
  | .linkCounterClear _ p _ => (List.range 9).map (addrLnkCnt p)
  | .linkEnable _ p _ => addrLnkCtl p :: addrLnkState p :: addrTnsSt p :: producerRegs
  | .routeCommit _ d _ => [addrRtePathi d, addrRteCandlo d, addrRteCandhi d, addrRtePatlo d, addrRteStep d]
  | .ctxResend _ _ => errorRegs
  | .ctxAbort _ _ => addrRteCnt 8 :: errorRegs
  | .routeCounterClear _ _ => (List.range 13).map addrRteCnt
  | .reelSwapRequest _ p _ => [addrReelPctl p, addrReelPst p]
  | .reelArm _ _ => [addrReelCfgst]
  | _ => []

/-- The records of the reorder unit that an operation on a context changes: the context, its source, the reorder quota's set (R240). -/
def Sys2Proof.Machine.wireAreas (s : State) : Instr → List (Nat × Nat)
  | .ctxHold _ c => ((s.rteAt (ctxOff c)).map fun a => (a, 32)).toList
  | .ctxResend _ c => ctxAreas c
  | .ctxAbort _ c => ctxAreas c
  | _ => []
where
  ctxAreas (c : Nat) : List (Nat × Nat) :=
    ((s.rteAt (ctxOff c)).map fun a => (a, 32)).toList ++
      ((s.ctx c).bind fun x => (s.rteAt (srcOff x.src)).map fun a => (a, 32)).toList ++ setArea s s.rq

/-- The writes of link, route and reel registers complete with the effects of `wireEffect`, drawn from R223, R226, R227, R230, R243, R254
and R255; nothing but the registers of `wireRegs` and the areas of `wireAreas` changes. The model's choices it rests on: log entries 27, 32, 33. -/
def Obligations.WireWrites : Prop :=
  ∀ (s : State) (c : Instr) (who : Writer) (a : Nat) (v : Word), wireRow c = some (who, a, v) → admitted s who a v →
    completes (exec c s) fun t => wireEffect s t c ∧ t.threads = s.threads ∧ onlyAreas s t (wireAreas s c) ∧ t.pending = s.pending ∧
      otherRegisters s t (wireRegs s c)

/-- The register writes of draft engines, ply units, the skein unit, fabric time, the tensioner and Snag (R259, R260, R278 to R280, R300,
R303, R304, R307, R308, R330, R337, R339, R343, R345, R346). -/
def Sys2Proof.Machine.engineRow : Instr → Option (Writer × Nat × Word)
  | .draftGoWrite who e v => some (who, addrDrfGo e, v)
  | .draftEnable who e v => some (who, addrDrfCtl e, v)
  | .draftPause who e => some (who, addrDrfCmd e, 1)
  | .draftResume who e => some (who, addrDrfCmd e, 2)
  | .draftAbort who e => some (who, addrDrfCmd e, 4)
  | .draftClrf who e => some (who, addrDrfCmd e, 8)
  | .draftCounterClear who e v => some (who, addrDrfCntclr e, v)
  | .groupDisarm who g v => some (who, addrPlyCgctl g, v)
  | .plyClrf who u => some (who, addrPlyCmd u, 1)
  | .plyAbort who u => some (who, addrPlyCmd u, 2)
  | .plyEnable who u v => some (who, addrPlyCtl u, v)
  | .plyCounterClear who u v => some (who, addrPlyCntclr u, v)
  | .tbRateWrite who v => some (who, addrSknInc1, v)
  | .tbSlew who v => some (who, addrSknSlewn, v)
  | .tbStep who v => some (who, addrSknTbctl, v)
  | .tbSnap who v => some (who, addrSknTbctl, v)
  | .skeinEnable who v => some (who, addrSknCtl, v)
  | .tnsSwapRequest who p v => some (who, addrTnsCtl p, v)
  | .tnsRevertCmd who p v => some (who, addrTnsCtl p, v)
  | .tnsCounterClear who p v => some (who, addrTnsClr p, v)
  | .ageingMeasure who v => some (who, addrTnsAgectl, v)
  | .snagEnable who v => some (who, addrSngCtl, v)
  | .snagAudack who v => some (who, addrSngAudack, v)
  | _ => none

/-- What they do. -/
def Sys2Proof.Machine.engineEffect (s t : State) (rq : Req) : Instr → Prop
  | .draftGoWrite _ e v => v.toNat.testBit 0 = true →
      (s.goList e rq = none → t.on (addrDrfStatus e) fldDrfStatus_GOREF = true ∧ t.drafts = s.drafts) ∧
      (∀ l, s.goList e rq = some l → l.addr % 64 = 0 → s.unitState (addrDrfCtl e) = 2 → (s.drf e).queue.length < 8 →
        (s.drfRun e ≠ 0 → (t.drf e).queue = (s.drf e).queue ++ [l]) ∧
        (s.drfRun e = 0 → (s.drf e).cur = none → (s.drf e).queue = [] → (t.drf e).cur = some l ∧ t.drfRun e = 1))
  | .draftEnable _ e v => enableActs s t (addrDrfCtl e) v
  | .draftPause _ e => s.drfRun e ≤ 2 → t.drfRun e = 3 ∧ t.drafts = s.drafts
  | .draftResume _ e => s.drfRun e = 3 → (s.drf e).begun = true → t.drfRun e = 1 ∧ t.drafts = s.drafts
  | .draftAbort _ e => t.drfRun e = 0 ∧ (t.drf e).queue = [] ∧ (t.drf e).cur = none
  | .draftClrf _ e => s.drfRun e = 4 → (s.drf e).queue = [] → t.drfRun e = 0 ∧ (t.drf e).cur = none
  | .draftCounterClear _ e v => v.toNat.testBit 0 = true → countersClear t (addrDrfCnt e) 6
  | .groupDisarm _ g v => v.toNat.testBit 30 = true → isOn (s.marked (addrPlyCgctl g)) fldPlyCgctl_ARMED = false → t.on (addrPlyCgctl g) fldPlyCgctl_ARMED = false ∧
      t.on (addrPlyCgctl g) fldPlyCgctl_DEFER = false
  | .plyClrf _ u => (s.ply u).passes.length ≤ 1 → (t.ply u).passes = [] ∧ t.plyRun u = 0
  | .plyAbort _ u => (t.ply u).passes = [] ∧ (t.ply u).inq = [] ∧ t.plyRun u = 0
  | .plyEnable _ u v => enableActs s t (addrPlyCtl u) v
  | .plyCounterClear _ u v => v.toNat.testBit 0 = true → countersClear t (addrPlyCnt u) 5
  | .tbRateWrite _ v => t.incNew = some (v.toNat % 2 ^ 12 * 2 ^ 32 + (s.rd addrSknInc0).toNat) ∧ t.tb = s.tb ∧ t.inc = s.inc
  | .tbSlew _ v => v ≠ 0 → t.slew = (s.rd addrSknSlew).toInt ∧ t.rd addrSknSlewn = v ∧ t.tb = s.tb
  | .tbStep _ v => v.toNat.testBit 1 = true → t.stepNew.isSome = true ∧ t.tb = s.tb ∧
      (s.rd (addrSknStep 1) = 0 → s.rd (addrSknStep 2) = 0 →
        t.stepNew = some ((s.rd (addrSknStep 0)).toNat * 2 ^ 40))
  | .tbSnap _ v => v.toNat.testBit 0 = true → t.rd (addrSknTbs 0) = BitVec.ofNat 32 (s.shadow / 2 ^ 40) ∧
      t.rd (addrSknTbs 1) = BitVec.ofNat 32 (s.shadow / 2 ^ 72) ∧ t.rd (addrSknTbs 2) = BitVec.ofNat 32 (s.shadow / 2 ^ 24 % 2 ^ 16)
  | .skeinEnable _ v => enableActs s t addrSknCtl v
  | .tnsSwapRequest _ p v => v.toNat.testBit 0 = true → t.on (addrTnsSt p) fldTnsSt_SWPEND = true
  | .tnsRevertCmd _ p v => v.toNat.testBit 1 = true → (t.port p).revReq = true
  | .tnsCounterClear _ p v => v.toNat.testBit 0 = true → t.rd (addrTnsEbits p) = 0
  | .ageingMeasure _ v => isOn v fldTnsAgectl_GO = true → t.on addrTnsAgectl fldTnsAgectl_BUSY = true
  | .snagEnable _ v => enableActs s t addrSngCtl v ∧
      (s.unitState addrSngCtl = 0 → s.fld addrSngCtl enEN = 0 → v.toNat.testBit 0 = true → t.uev = s.uev ++ [0x0A00])
  | .snagAudack _ _ => s.unitState addrSngCtl = 1 → s.fld addrSngCtl enDSQ = 0 → t.unitState addrSngCtl = 2
  | _ => True

/-- The registers that they may change. -/
def Sys2Proof.Machine.engineRegs (s : State) : Instr → List Nat
  | .draftGoWrite _ e _ => listRegs e
  | .draftEnable _ e _ => addrDrfCtl e :: listRegs e
  | .draftPause _ e => [addrDrfStatus e]
  | .draftResume _ e => listRegs e
  | .draftAbort _ e => [addrDrfStatus e]
  | .draftClrf _ e => listRegs e
  | .draftCounterClear _ e _ => (List.range 6).map (addrDrfCnt e)
  | .groupDisarm _ g _ => [addrPlyCgctl g]
  | .plyClrf _ u => passRegs u
  | .plyAbort _ u => passRegs u
  | .plyEnable _ u _ => [addrPlyCtl u]
  | .plyCounterClear _ u _ => (List.range 5).map (addrPlyCnt u)
  | .tbRateWrite _ _ => [addrSknInc1]
  | .tbSlew _ _ => [addrSknSlewn]
  | .tbStep _ _ => [addrSknTbs 0, addrSknTbs 1, addrSknTbs 2]
  | .tbSnap _ _ => [addrSknTbs 0, addrSknTbs 1, addrSknTbs 2]
  | .skeinEnable _ _ => [addrSknCtl]
  | .tnsSwapRequest _ p _ => [addrTnsCtl p, addrTnsSt p]
  | .tnsRevertCmd _ p _ => [addrTnsCtl p, addrTnsSt p]
  | .tnsCounterClear _ p _ => [addrTnsEbits p]
  | .ageingMeasure _ _ => [addrTnsAgectl]
  | .snagEnable _ _ => [addrSngCtl]
  | .snagAudack _ _ => addrSngCtl :: addrSngAudack :: addrSngSt :: (List.range 144).flatMap fun p => (List.range 4).map (addrSngEcnt p)
  | _ => []
where
  listRegs (e : Fin 8) : List Nat := addrDrfStatus e :: (List.range 2).map (addrDrfCur e) ++ (List.range 2).map (addrDrfDone e)
  passRegs (u : Fin 16) : List Nat :=
    addrPlyStatus u :: ((s.ply u).passes.map fun p => addrPlyRbst p.rbuf) ++ (List.range 64).map (addrPlyFence u)

/-- The frame is told of every write but the discard of a pass after which the queued one starts, or a group that waited flips: the
start and the flip are told of the commands that make them (`PliesAndEnables`). -/
def Sys2Proof.Machine.engineTold (s : State) : Instr → Prop
  | .plyClrf _ u => (s.ply u).passes.length ≤ 1 ∧ ∀ g, g < 32 → s.armed g = false
  | .plyAbort _ _ => ∀ g, g < 32 → s.armed g = false
  | _ => True

/-- The writes of the engines' registers complete with the effects of `engineEffect`, drawn from R259, R260, R278 to R280, R300, R303,
R304, R307, R308, R330, R337, R339, R343, R345 and R346; nothing but the registers of `engineRegs` changes. The model's choices it rests
on: log entries 31, 44, 110. -/
def Obligations.EngineWrites : Prop :=
  ∀ (s : State) (c : Instr) (who : Writer) (a : Nat) (v : Word), engineRow c = some (who, a, v) → admitted s who a v →
    completes (exec c s) fun t => engineEffect s t (s.reqBy who) c ∧ t.pending = s.pending ∧
      (engineTold s c → t.threads = s.threads ∧ sameMemory s t ∧ otherRegisters s t (engineRegs s c))

/-- The register writes of the treadle network and of pins (R356, R357, R359, R361, R369, R373, R374). -/
def Sys2Proof.Machine.networkRow : Instr → Option (Writer × Nat × Word)
  | .swfire who w v => some (who, addrTrdSwfire w, v)
  | .consumerAck who c v => some (who, addrTrdCack c, v)
  | .consumerConfig who c v => some (who, addrTrdCcfg c, v)
  | .groupControl who g v => some (who, addrTrdGctl g, v)
  | .matrixWrite who c w v => some (who, addrTrdMat c w, v)
  | .pinOutWrite who w v => some (who, addrPinOut w, v)
  | .pinSet who w v => some (who, addrPinSet w, v)
  | .pinClr who w v => some (who, addrPinClr w, v)
  | .pinTgl who w v => some (who, addrPinTgl w, v)
  | .pinConfig who i v => some (who, addrPinCfg i, v)
  | .pinFlush who i v => some (who, addrPinTctl i, v)
  | _ => none

/-- What they do; `m` is the part of a word of pins that the writer reaches (R367). -/
def Sys2Proof.Machine.networkEffect (s t : State) (rq : Req) : Instr → Prop
  | .swfire _ w v => ∀ b, b < 32 → v.toNat.testBit b = true → s.rowZ (32 * w + b) = rq.z →
      (t.rd (addrTrdPlat w)).toNat.testBit b = true
  | .consumerAck _ c v => v.toNat.testBit 0 = true → (t.tcon c).ackDue = false
  | .consumerConfig _ c v => t.rd (addrTrdCcfg c) = v ∧
      (v.toNat.testBit 0 = false → t.on (addrTrdCst c) fldTrdCst_PEND = false ∧ t.fld (addrTrdCst c) fldTrdCst_CNT = 0)
  | .groupControl _ g v => t.rd (addrTrdGctl g) = v
  | .matrixWrite _ c w v => (rq.z = false → t.rd (addrTrdMat c w) = v) ∧
      (rq.z = true → t.rd (addrTrdMat c w) &&& ~~~s.rd (addrTrdPworld w) = s.rd (addrTrdMat c w) &&& ~~~s.rd (addrTrdPworld w))
  | .pinOutWrite _ w v => t.rd (addrPinOut w) = (s.rd (addrPinOut w) &&& ~~~s.pinMask rq w) ||| (v &&& s.pinMask rq w)
  | .pinSet _ w v => t.rd (addrPinOut w) = s.rd (addrPinOut w) ||| (v &&& s.pinMask rq w)
  | .pinClr _ w v => t.rd (addrPinOut w) = s.rd (addrPinOut w) &&& ~~~(v &&& s.pinMask rq w)
  | .pinTgl _ w v => t.rd (addrPinOut w) = s.rd (addrPinOut w) ^^^ (v &&& s.pinMask rq w)
  | .pinConfig _ i v => t.rd (addrPinCfg i) = v
  | .pinOwner _ i v => t.rd (pinOwnKey i) = v ∧
      (i.val < 16 → s.rd (pinOwnKey i) ≠ v → (t.pin i).edges = [] ∧ t.on (addrPinTqst i) fldPinTqst_CVALID = false)
  | .pinFlush _ i v => isOn v fldPinTctl_FLUSH = true → (t.pin i).edges = [] ∧ t.fld (addrPinTqst i) fldPinTqst_QCNT = 0
  | _ => True

/-- The registers that they may change. -/
def Sys2Proof.Machine.networkRegs : Instr → List Nat
  | .swfire _ _ _ => producerRegs
  | .consumerConfig _ c _ => [addrTrdCcfg c, addrTrdCst c]
  | .groupControl _ g _ => [addrTrdGctl g]
  | .matrixWrite _ c w _ => [addrTrdMat c w]
  | .pinOutWrite _ w _ => addrPinOut w :: addrPinStatus :: producerRegs
  | .pinSet _ w _ => addrPinOut w :: addrPinStatus :: producerRegs
  | .pinClr _ w _ => addrPinOut w :: addrPinStatus :: producerRegs
  | .pinTgl _ w _ => addrPinOut w :: addrPinStatus :: producerRegs
  | .pinConfig _ i _ => addrPinCfg i :: addrPinStatus :: producerRegs
  | .pinOwner _ i _ => pinOwnKey i :: addrPinStatus :: (if i.val < 16 then [addrPinTqst i] else []) ++ producerRegs
  | .pinFlush _ i _ => [addrPinTctl i, addrPinTqst i]
  | _ => []

/-- The threads that they may change: those that wait for an entry of a pin's queue which is emptied (R374). -/
def Sys2Proof.Machine.networkThread (s : State) (h : Nat) : Instr → Prop
  | .pinOwner _ i _ => i.val < 16 ∧ (s.thr h).wait = .pinQueue i
  | .pinFlush _ i _ => (s.thr h).wait = .pinQueue i
  | _ => False

/-- The writes of the treadle network's and the pins' registers complete with the effects of `networkEffect`, drawn from R356, R357, R359,
R361, R369, R373 and R374; nothing but the registers of `networkRegs` changes. The model's choices it rests on: log entries 21, 28 to 30. -/
def Obligations.NetworkWrites : Prop :=
  let done := fun (s : State) (c : Instr) (who : Writer) =>
    completes (exec c s) fun t => networkEffect s t (s.reqBy who) c ∧ sameMemory s t ∧ t.pending = s.pending ∧
      otherRegisters s t (networkRegs c) ∧ ∀ h, ¬ networkThread s h c → t.thr h = s.thr h
  (∀ (s : State) (c : Instr) (who : Writer) (a : Nat) (v : Word), networkRow c = some (who, a, v) → admitted s who a v → done s c who) ∧
  (∀ (s : State) (who : Writer) (i : Fin 96) (v : Word) (row : RegRow) (ix : List Nat), locate (addrPinOwn 0) = some (row, ix) →
    takesEffect s who row [i.val] (pinOwnKey i) (addrPinOwn i) v → done s (.pinOwner who i v) who)

/-- The register writes of the mill, of host attach, of reset, power and clocks (R382, R390, R393, R420 to R422, R429, R434, R443, R444,
R447). -/
def Sys2Proof.Machine.systemRow : Instr → Option (Writer × Nat × Word)
  | .secSubmit who n v => some (who, addrSecOpdb n, v)
  | .grantClear who v => some (who, addrSecCmddone, v)
  | .mailboxGo who v => some (who, addrSecMbxctl, v)
  | .mailboxPost who v => some (who, addrSecMbxrsp, v)
  | .interruptRearm who w v => some (who, addrHapIarm w, v)
  | .interruptSoftwareFire who w v => some (who, addrHapIfire w, v)
  | .hapEnable who c v => some (who, addrHapCtl c, v)
  | .hapCounterClear who c v => some (who, addrHapCntclr c, v)
  | .resetCommand who v => some (who, addrRstCmd, v)
  | .powerRun who => some (who, addrPwrCtl, 0)
  | .powerDoze who => some (who, addrPwrCtl, 1)
  | .powerDeepSleep who => some (who, addrPwrCtl, 2)
  | .wclkDivider who v => some (who, addrClkWdiv, v)
  | _ => none

/-- What they do. -/
def Sys2Proof.Machine.systemEffect (s t : State) : Instr → Prop
  | .secSubmit _ n v =>
    let q := tget (fun _ => []) s.secq n
    (q.length < 8 → tget (fun _ => []) t.secq n = q ++ [v.toNat / 64 * 64 % 2 ^ 32] ∧
      t.fld (addrSecOpst n) fldSecOpst_QCNT = q.length + 1) ∧
    (8 ≤ q.length → t.on (addrSecOpst n) fldSecOpst_FULL = true ∧ t.secq = s.secq)
  | .grantClear _ v => v.toNat.testBit 0 = true → t.rd addrSecGrant = 0
  | .mailboxGo _ v => v.toNat.testBit 0 = true → s.on addrSecMbxctl fldSecMbxctl_GO = false →
      t.on addrSecMbxctl fldSecMbxctl_GO = true ∧ t.uev = s.uev ++ [0x0C40]
  | .mailboxPost _ v => v.toNat.testBit 0 = true → t.on addrSecMbxctl fldSecMbxctl_RDY = true ∧
      (isOn (tget (fun _ => 0) s.swNow addrSecMbxctl) fldSecMbxctl_GO = false → t.on addrSecMbxctl fldSecMbxctl_GO = false)
  | .interruptRearm _ w v => ∀ b, b < 32 → v.toNat.testBit b = true →
      s.on (addrHapIctl (32 * w + b)) fldHapIctl_PEND = false → t.on (addrHapIctl (32 * w + b)) fldHapIctl_ARMED = true
  | .interruptSoftwareFire _ w v => ∀ b, b < 32 → v.toNat.testBit b = true →
      s.fld (addrHapIctl (32 * w + b)) fldHapIctl_CLASS = 2 → s.on (addrHapIctl (32 * w + b)) fldHapIctl_ARMED = false →
      t.on (addrHapIctl (32 * w + b)) fldHapIctl_PEND = true
  | .hapEnable _ c v => enableActs s t (addrHapCtl c) v
  | .hapCounterClear _ c v => v.toNat.testBit 0 = true → countersClear t (addrHapCnt c) 8
  | .resetCommand _ v => v.toNat.testBit 0 = true → t = { s with rstCmd := true }
  | .powerRun _ => if s.fld addrPwrStatus fldPwrStatus_STATE = 2 then t.toRun = true else t.toRun = s.toRun
  | .powerDoze _ => t.fld addrPwrStatus fldPwrStatus_STATE = 2 ∧ t.wdiv = 8 ∧ t.threads = s.threads
  | .powerDeepSleep _ => (s.allOff = true → t.asleep = true ∧ t.threads = []) ∧
      (s.allOff = false → t = s.setFld addrPwrStatus fldPwrStatus_REFUSED 1)
  | .wclkDivider _ v => t.on addrClkStatus fldClkStatus_DIVPEND = true ∧ t.rd addrClkWdiv = v ∧ t.wdiv = s.wdiv
  | _ => True

/-- The registers that they may change. -/
def Sys2Proof.Machine.systemRegs : Instr → List Nat
  | .secSubmit _ n _ => [addrSecOpst n, addrSecOpdb n]
  | .grantClear _ _ => [addrSecGrant]
  | .mailboxGo _ _ => [addrSecMbxctl]
  | .mailboxPost _ _ => [addrSecMbxctl]
  | .interruptRearm _ _ _ => vectorRegs
  | .interruptSoftwareFire _ _ _ => vectorRegs
  | .hapEnable _ c _ => [addrHapCtl c]
  | .hapCounterClear _ c _ => (List.range 8).map (addrHapCnt c)
  | .powerRun _ => [addrPwrCtl]
  | .powerDoze _ => [addrPwrCtl, addrPwrStatus]
  | .powerDeepSleep _ => addrPwrCtl :: addrPwrStatus :: addrPinStatus :: addrSecGrant :: addrDbgTrcctl :: auditRegs
  | .wclkDivider _ _ => [addrClkWdiv, addrClkStatus]
  | _ => []

/-- The writes of the mill's, the host attach port's, the reset, power and clock registers complete with the effects of `systemEffect`,
drawn from R382, R390, R393, R420 to R422, R429, R434, R443, R444 and R447; nothing but the registers of `systemRegs` changes. The model's
choices it rests on: log entries 31, 58. -/
def Obligations.SystemWrites : Prop :=
  ∀ (s : State) (c : Instr) (who : Writer) (a : Nat) (v : Word), systemRow c = some (who, a, v) → admitted s who a v →
    completes (exec c s) fun t => systemEffect s t c ∧ t.pending = s.pending ∧ otherRegisters s t (systemRegs c) ∧
      (c ≠ .powerDeepSleep who ∨ s.dbg = none → sameMemory s t) ∧ onlyAreas s t [auditArea s] ∧
      (c ≠ .powerDeepSleep who → t.threads = s.threads)

/-! ### Turns, slot tables and whorl events (R33 to R64, R477) -/

/-- A thread can take a turn: READY, not held by a stop, and its last turn at least four cycles ago (R34, R36). -/
def Sys2Proof.Machine.canTurn (s : State) (g : Nat) : Prop :=
  (s.thr g).state = .ready ∧ ((s.thr g).stopReq = false ∨ (s.thr g).entry.isSome = true) ∧
    ∀ c, (s.thr g).lastTurn = some c → c + 4 ≤ s.cycle

/-- What a turn of thread `g` leaves: one of the turns that a word of several still takes (R114); or an entry turn (R126); or the first
entry turn of a pending asynchronous cause (R131); or its word fetched, or the cause of a fetch that its regions refuse. -/
def Sys2Proof.Machine.turnDone (s t : State) (g : Nat) : Prop :=
  let th := s.thr g
  let a := th.wordAddr.toNat
  let b := { th with turns := th.turns + 1, lastTurn := some s.cycle }
  let fetches := th.owed = 0 ∧ th.entry = none ∧ s.asyncDue g = none
  otherThreads g s t ∧ sameMemory s t ∧ t.pending = s.pending ∧
  (th.owed ≠ 0 → t.thr g = { b with owed := th.owed - 1 }) ∧
  (∀ p, th.owed = 0 → th.entry = some p → t.thr g = { b with entry := some { p with turns := p.turns + 1 } }) ∧
  (∀ c, th.owed = 0 → th.entry = none → s.asyncDue g = some c → t.thr g =
    { b with state := .ready, wait := .none, issued := none,
             entry := some { code := c, detail := 0, async := true, epc := th.pc, eaddr := if c = 13 then th.lse else 0, turns := 1 } }) ∧
  (fetches → a < 0x20000 → s.granted (g / 32) th.isZ th.isSup .fetch a = true → cleanAt s (spoolBlk (g / 32) a) 4 →
    t.thr g = { b with issued := some (BitVec.ofNat 32 (leBytes (bytesAt s (spoolBlk (g / 32) a) 4))) }) ∧
  (fetches → 0x20000 ≤ a ∨ s.granted (g / 32) th.isZ th.isSup .fetch a = false → th.st.toNat.testBit 0 = false →
    th.st.toNat.testBit 3 = false →
      (t.thr g).entry = some { code := 6, detail := 0, async := false, epc := th.pc, eaddr := th.wordAddr })

/-- The thread meets R37's conditions for a donated slot. -/
def Sys2Proof.Machine.canTakeDonated (s : State) (n g : Nat) : Prop :=
  canTurn s g ∧ s.on (addrWhlTctl n (g % 32)) fldWhlTctl_NODON = false ∧
    ∀ i, i < 3 → entryNames (s.entryAt n (s.cycle % 64 + 1 + i)) (g % 32) = false

/-- R36, R37: the thread that the entry names takes the turn; else the first thread after the one that last took a donated slot, in
cyclic order, that may take it. R39: at position 60 a pending shadow table passes its check when it names T0 and no thread twice within
four entries, and the swap at cycle 0 makes it the active table; a table that fails is rejected with a record and the active table
stays. That the swap heeds no HOLD is the model's choice (log entry 92). -/
def Sys2Proof.Machine.partTurnsAndTables : Prop :=
  (∀ (s : State) (n : WhorlNo),
    let e := s.rd (addrWhlSlota n (s.cycle % 64))
    let own := 32 * n.val + getF e fldWhlSlot_THREAD
    let names := isOn e fldWhlSlot_USE = true
    let free := s.on (addrWhlStatus n) fldWhlStatus_GATED = false ∧ (s.whl n).lastTurn ≠ some s.cycle
    let rot := (s.whl n).rot
    (¬free → exec (.slotTurn n) s = .next s) ∧
    (free → names → canTurn s own →
      completes (exec (.slotTurn n) s) fun t => turnDone s t own ∧ (t.whl n).rot = rot) ∧
    (∀ i, i < 32 → free → ¬(names ∧ canTurn s own) → canTakeDonated s n (32 * n.val + (rot + 1 + i) % 32) →
      (∀ j, j < i → ¬canTakeDonated s n (32 * n.val + (rot + 1 + j) % 32)) →
        completes (exec (.slotTurn n) s) fun t =>
          turnDone s t (32 * n.val + (rot + 1 + i) % 32) ∧ (t.whl n).rot = (rot + 1 + i) % 32)) ∧
  (∀ (s : State) (n : WhorlNo),
    let st := addrWhlSlotst n
    let due := s.cycle % 64 = 60 ∧ s.on st fldWhlSlotst_PEND = true ∧ s.on (addrWhlSlotctl n) fldWhlSlotctl_HOLD = false
    let w := fun (e : Nat) => s.rd (addrWhlSlot n (e % 64))
    let good := (∃ e, e < 64 ∧ entryNames (w e) 0 = true) ∧
      ∀ e, e < 64 → ∀ d, d < 3 → isOn (w e) fldWhlSlot_USE = true →
        entryNames (w (e + 63 - d)) (getF (w e) fldWhlSlot_THREAD) = false
    (¬due → exec (.shadowCheck n) s = .next s) ∧
    (due → good → completes (exec (.shadowCheck n) s) fun t =>
      (t.whl n).passed = some ((List.range 64).map w) ∧ t.on st fldWhlSlotst_PEND = false ∧ sameMemory s t ∧
        t.threads = s.threads) ∧
    (due → ¬good → completes (exec (.shadowCheck n) s) fun t =>
      t.on st fldWhlSlotst_REJ = true ∧ t.on st fldWhlSlotst_PEND = false ∧ (t.whl n).passed = (s.whl n).passed ∧
        (∀ e : Fin 64, t.rd (addrWhlSlota n e) = s.rd (addrWhlSlota n e)) ∧ sameMemory s t)) ∧
  (∀ (s : State) (n : WhorlNo),
    ((s.whl n).passed = none ∨ s.cycle % 64 ≠ 0 → exec (.shadowSwap n) s = .next s) ∧
    (∀ l, (s.whl n).passed = some l → s.cycle % 64 = 0 → completes (exec (.shadowSwap n) s) fun t =>
      (t.whl n).passed = none ∧ (∀ e : Fin 64, t.rd (addrWhlSlota n e) = l[e.val]?.getD 0) ∧ t.threads = s.threads ∧
        sameMemory s t))

/-- A record of a kind stands in a notification queue. -/
def Sys2Proof.Machine.noted (q : List Note) (kind whorl : Nat) : Prop := ∃ r ∈ q, r.kind = kind ∧ r.whorl = whorl

/-- R50, R51, R58 to R62, R64, R477: deadlines, waking, unit events, gating, STALL and the quiet watch. -/
def Sys2Proof.Machine.partWhorlEvents : Prop :=
  (∀ (s : State) (g : ThreadNo),
    let v := (s.rd (addrWhlDlhi (g / 32) (g % 32))).toNat * 2 ^ 32 + (s.rd (addrWhlDllo (g / 32) (g % 32))).toNat
    let due := (s.thr g).dlArmed = true ∧ v ≤ s.tb64
    (due → completes (exec (.deadlineFire g) s) fun t =>
      t.thr g = { s.thr g with dlArmed := false, ev := (s.thr g).ev ||| 1 } ∧ otherThreads g s t ∧ t.regs = s.regs ∧ t.mem = s.mem ∧
        t.quietAt = s.cycle) ∧
    (¬due → exec (.deadlineFire g) s = .next s)) ∧
  (∀ (s : State) (g : ThreadNo) (m : Word), (s.thr g).wait = .event m → (s.thr g).state = .waiting →
    completes (exec (.eventWake g) s) fun t =>
      t = if s.lines g &&& (if g.val % 32 = 0 then m ||| 0x70000000 else m) = 0 then s
        else s.setThr g { s.thr g with state := .ready, wait := .none }) ∧
  (∀ (s : State) (k : Fin 65536), k.val ∈ s.uev → completes (exec (.unitEventPending k) s) fun t =>
    t.uev = s.uev.erase k.val ∧ sameMemory s t ∧ (k.val = 0x0600 → t.threads = s.threads) ∧
      ∀ n, k.val ≠ 0x0600 → s.eventWhorl k = some n → ∀ h, h < 32 → ∀ i, i < 27 → s.fld (addrWhlEvsrc n h (i + 1)) fldWhlEvsrc_CLASS = 7 →
        s.fld (addrWhlEvsrc n h (i + 1)) fldWhlEvsrc_INDEX = k.val → (t.thr (32 * n + h)).ev.toNat.testBit (i + 1) = true) ∧
  (∀ (s : State) (n : WhorlNo),
    let a := addrWhlStatus n
    let ready := ∃ h, h < 32 ∧ (s.thr (32 * n.val + h)).state = .ready
    (ready → exec (.whorlGate n) s = .next s) ∧ (¬ready → exec (.whorlGate n) s = .next (s.setFld a fldWhlStatus_GATED 1)) ∧
    (s.on a fldWhlStatus_GATED = true → ready → exec (.whorlWake n) s = .next (s.setFld a fldWhlStatus_GATED 0)) ∧
    (s.on a fldWhlStatus_GATED = false ∨ ¬ready → exec (.whorlWake n) s = .next s) ∧
    (s.stalled n = false → exec (.stall n) s = .next s) ∧
    (s.stalled n = true → (s.whl n).notes.length < 160 → completes (exec (.stall n) s) fun t =>
      t.on a fldWhlStatus_STALL = true ∧ (t.whl n).stallArm = false ∧ (t.thr (32 * n.val)).ev.toNat.testBit 30 = true ∧
        noted (t.whl n).notes 5 n ∧ otherThreads (32 * n.val) s t ∧ sameMemory s t ∧
        ((s.thr (32 * n.val)).state = .waiting → (t.thr (32 * n.val)).state ≠ .waiting))) ∧
  (∀ s : State,
    let due := s.on addrWhlQwatch fldWhlQwatch_EN = true ∧ s.quietAt + 2 ^ 20 ≤ s.cycle
    (¬due → exec .quietWatch s = .next s) ∧
    (due → s.escq.length < 128 → completes (exec .quietWatch s) fun t =>
      t.on addrWhlQwatch fldWhlQwatch_ALERT = true ∧ noted t.escq 9 39 ∧ t.threads = s.threads ∧ sameMemory s t ∧ t.quietAt = s.cycle ∧
        (t.rd (addrTrdPlat 14)).toNat.testBit 4 = true))

/-- R36, R37, R39: who takes a turn, and the swap of a shadow table. R50, R51, R58 to R62, R64, R477: deadlines, waking, unit events,
gating, STALL and the quiet watch. The model's choices it rests on: log entries 2, 7, 92, 99. -/
def Obligations.WhorlTime : Prop := partTurnsAndTables ∧ partWhorlEvents


/-! ### Bobbins: the unit's answers, doorbells, the ledger's check (R174 to R186) -/

/-- A thread waits for a unit's answer with no halt or stop request, outside a repetition. -/
def Sys2Proof.Machine.awaitsUnit (s : State) (g : Nat) (o : UnitOp) (d : Reg) (a b : Word) : Prop :=
  (s.thr g).state = .waiting ∧ (s.thr g).wait = .unit o d a b ∧ (s.thr g).haltReq = false ∧ (s.thr g).stopReq = false ∧
    (s.thr g).rep = none

/-- The waiting word completes: the thread is READY at the next word, and `d` holds `v`. -/
def Sys2Proof.Machine.answered (s t : State) (g : Nat) (d : Reg) (v : Word) : Prop :=
  (t.thr g).state = .ready ∧ (t.thr g).pc = (s.thr g).pc + 4 ∧ (t.thr g).get d = (if d = 0 then 0 else v) ∧
    otherRegs d (s.thr g) (t.thr g) ∧ otherThreads g s t

/-- The DETAIL of bobbin fault that R182 gives an instruction on bobbin `k` of some types, none where all checks pass. -/
def Sys2Proof.Machine.bobbinCheck (s : State) (g k : Nat) (rsvd : Bool) (types : List Nat) : Option Nat :=
  if rsvd then some 5 else if s.bobValid k = false then some 1 else if s.bobType k ∉ types then some 3
  else if s.bobThreadOk k g = false then some 2 else none

/-- R176, R180 to R182, R185: BPOP tells the index of the oldest entry and releases one; BALLOC sets up a free bobbin or refuses with a
reason; BFREE begins the stop of a dynamic bobbin; BCRD moves credits of a pool between FREE and HELD. A failed check is bobbin fault; that its
fault address is 0 for BALLOC and the pool for BCRD is the model's choice (log entry 100). -/
def Sys2Proof.Machine.partBobbinAnswers : Prop :=
  (∀ (s : State) (g : ThreadNo) (d : Reg) (a : Word), awaitsUnit s g .bpop d a 0 →
    let k := a.toNat % 65536
    let bad := bobbinCheck s g k (2 ^ 17 ≤ a.toNat) [1, 2, 3, 4]
    let rel := a.toNat.testBit 16
    let clean := cleanAt s (bdAddr k 0) 32
    (∀ x, bad = some x → clean → exec (.farUnitComplete g) s = .next (s.trap g 16 x (BitVec.ofNat 32 k))) ∧
    (bad = none → rel = false → completes (exec (.farUnitComplete g) s) fun t => sameMemory s t ∧
      answered s t g d (if s.prod k = s.cons k then 0 else BitVec.ofNat 32 (2 ^ 31 + s.cons k % s.bobN k))) ∧
    (bad = none → rel = true → s.prod k = s.cons k → clean → exec (.farUnitComplete g) s = .next (s.trap g 16 4 (BitVec.ofNat 32 k))) ∧
    (bad = none → rel = true → s.prod k ≠ s.cons k → cleanAt s (bdAddr k 4) 8 → s.bobType k ≠ 1 → s.slipWait = [] →
      completes (exec (.farUnitComplete g) s) fun t =>
        t.cons k = (s.cons k + 1) % 2 ^ 32 ∧ t.prod k = s.prod k ∧ sameOutside s t (bdAddr k 5) 4 ∧
        answered s t g d (if s.prod k = (s.cons k + 1) % 2 ^ 32 then 0 else BitVec.ofNat 32 (2 ^ 31 + (s.cons k + 1) % 2 ^ 32 % s.bobN k)))) ∧
  (∀ (s : State) (g : ThreadNo) (d : Reg) (a : Word), awaitsUnit s g .balloc d a 0 →
    let ty := a.toNat / 16 % 8
    let use := addrWhlTuse (g / 32) (g % 32)
    let full := s.fld (addrWhlTshare (g / 32) (g % 32)) fldWhlTshare_BOBCEIL ≤ s.fld use fldWhlTuse_BOBS
    (128 ≤ a.toNat ∨ 12 < a.toNat % 16 ∨ ty < 2 ∨ 4 < ty → exec (.farUnitComplete g) s = .next (s.trap g 16 5 0)) ∧
    (a.toNat < 128 → a.toNat % 16 ≤ 12 → 2 ≤ ty → ty ≤ 4 →
      (full → completes (exec (.farUnitComplete g) s) fun t => sameMemory s t ∧ t.bobV = s.bobV ∧ answered s t g d 0x80000001) ∧
      (¬full → d ≠ 0 → completes (exec (.farUnitComplete g) s) fun t =>
        let v := ((t.thr g).get d).toNat
        answered s t g d (BitVec.ofNat 32 v) ∧
          if v < 2 ^ 31 then s.bobValid v = false ∧ t.bobValid v = true ∧ t.unitState (addrBobBctl v) = 2 ∧
            t.fld use fldWhlTuse_BOBS = (s.fld use fldWhlTuse_BOBS + 1) % 2 ^ fldWhlTuse_BOBS.width
          else 0x80000001 < v ∧ v ≤ 0x80000004 ∧ sameMemory s t ∧ t.bobV = s.bobV))) ∧
  (∀ (s : State) (g : ThreadNo) (d : Reg) (a : Word), awaitsUnit s g .bfree d a 0 →
    let k := a.toNat % 65536
    let dyn := (tget (fun _ => none) s.bobDyn k).isSome
    let bad := if 65536 ≤ a.toNat then some 5 else if s.bobValid k = false then some 1
      else if s.bdf k 0 bdOWNER ≠ g.val then some 2 else if dyn = false then some 3 else none
    (∀ x, bad = some x → cleanAt s (bdAddr k 0) 32 → exec (.farUnitComplete g) s = .next (s.trap g 16 x (BitVec.ofNat 32 k))) ∧
    (bad = none → s.bobType k ≠ 0 → cleanAt s (bdAddr k 7) 4 → completes (exec (.farUnitComplete g) s) fun t => answered s t g d 0 ∧
      (s.unitState (addrBobBctl k) = 2 → t.unitState (addrBobBctl k) = 3) ∧ sameOutside s t (bdAddr k 7) 4)) ∧
  (∀ (s : State) (g : ThreadNo) (d : Reg) (a b : Word), awaitsUnit s g .bcrd d a b →
    let p := a.toNat % 4096
    let f := s.ctr p .free
    let h := s.ctr p .held
    (4096 ≤ a.toNat → exec (.farUnitComplete g) s = .next (s.trap g 16 5 (BitVec.ofNat 32 (a.toNat % 65536)))) ∧
    (a.toNat < 4096 → s.poolZ p ≠ (s.thr g).isZ → exec (.farUnitComplete g) s = .next (s.trap g 16 2 (BitVec.ofNat 32 a.toNat))) ∧
    (a.toNat < 4096 → s.poolZ p = (s.thr g).isZ →
      ((0 ≤ b.toInt ∧ f < b.toInt.natAbs) ∨ (b.toInt < 0 ∧ h < b.toInt.natAbs) →
        exec (.farUnitComplete g) s = .next (s.trap g 16 6 (BitVec.ofNat 32 a.toNat))) ∧
      (∀ x, s.lgrSet p = some x → cleanAt s x 16 → f + h < 2 ^ 32 →
        (0 ≤ b.toInt → b.toInt.natAbs ≤ f → completes (exec (.farUnitComplete g) s) fun t =>
          answered s t g d (BitVec.ofNat 32 (f - b.toInt.natAbs)) ∧ t.ctr p .free + b.toInt.natAbs = f ∧
            t.ctr p .held = h + b.toInt.natAbs ∧ t.ctr p .flight = s.ctr p .flight ∧ sameOutside s t x 16) ∧
        (b.toInt < 0 → b.toInt.natAbs ≤ h → completes (exec (.farUnitComplete g) s) fun t =>
          answered s t g d (BitVec.ofNat 32 (f + b.toInt.natAbs)) ∧ t.ctr p .held + b.toInt.natAbs = h ∧
            t.ctr p .free = f + b.toInt.natAbs ∧ t.ctr p .flight = s.ctr p .flight ∧ sameOutside s t x 16))))

/-- R111, R174, R186: BDB checks at issue and buffers a doorbell, which on arrival moves PROD of an ON TX or CHN bobbin with room, or is a
late store error; the ledger's check reports the first set that breaks GRANT = FREE + HELD + FLIGHT. -/
def Sys2Proof.Machine.partDoorbellsAndLedger : Prop :=
  (∀ (s : State) (g : ThreadNo) (r q : Reg), s.runs g = true →
    let th := s.thr g
    let k := (th.get r).toNat % 65536
    let n := (th.get q).toNat
    let bad := bobbinCheck s g k (65536 ≤ (th.get r).toNat) [0, 4]
    (∀ x, bad = some x → exec (.bdb g r q) s = .next (s.trap g 16 x (BitVec.ofNat 32 k))) ∧
    (bad = none → n = 0 ∨ s.bobN k < n → exec (.bdb g r q) s = .next (s.trap g 16 4 (BitVec.ofNat 32 k))) ∧
    (bad = none → 0 < n → n ≤ s.bobN k → th.sbuf.length < 4 → completes (exec (.bdb g r q) s) fun t =>
      t.thr g = { th.advance with sbuf := th.sbuf ++ [.doorbell k n], stamps := th.stamps ++ [(s.whl (g / 32)).issued] } ∧
        otherThreads g s t ∧ sameMemory s t ∧ t.regs = s.regs)) ∧
  (∀ (s : State) (g : ThreadNo) (k n : Nat) (l : List SbEntry), (s.thr g).sbuf = .doorbell k n :: l →
    let taken := s.bobOn k = true ∧ (s.bobType k = 0 ∨ s.bobType k = 4) ∧ s.bobFill k + n ≤ s.bobN k
    (taken → cleanAt s (bdAddr k 4) 4 → completes (exec (.doorbellArrive g) s) fun t =>
      t.prod k = (s.prod k + n) % 2 ^ 32 ∧ (t.thr g).sbuf = l ∧ sameOutside s t (bdAddr k 4) 4 ∧ otherThreads g s t) ∧
    (¬taken → (s.thr g).state ≠ .halted → (s.thr g).state ≠ .faulted → completes (exec (.doorbellArrive g) s) fun t =>
      t.fld (addrWhlTexc (g / 32) (g % 32)) fldWhlTexc_LSEP = 1 ∧ (t.thr g).sbuf = l ∧ otherThreads g s t)) ∧
  (∀ s : State, (∀ k, k < 5504 → s.setOk k = true ∧ ∀ x, s.lgrSet k = some x → cleanAt s x 16) → exec .ledgerCheck s = .next s) ∧
  (∀ (s : State) (k : Nat), k < 5504 → s.lgrSet 0 ≠ none → s.setOk k = false → s.setSound k = true → (∀ j, j < k → s.setOk j = true) →
    completes (exec .ledgerCheck s) fun t => t.on addrLgrStatus fldLgrStatus_VIOL = true ∧
      (s.on addrLgrStatus fldLgrStatus_VIOL = false → t.fld addrLgrVidx fldLgrVidx_SET = k) ∧
      (t.rd (addrTrdPlat 14)).toNat.testBit 0 = true ∧ t.threads = s.threads ∧ sameMemory s t)

/-- R176, R180 to R182, R185: what BPOP, BALLOC, BFREE and BCRD do and answer. R111, R174, R186: doorbells, and the ledger's check. The
model's choices it rests on: log entries 19, 26, 100, 103. -/
def Obligations.BobbinsAndLedger : Prop := partBobbinAnswers ∧ partDoorbellsAndLedger


/-! ### Messages at the source (R170 to R173, R184, R210, R211, R233, R248) -/

/-- An ON TX bobbin with a creel ring has an entry to fetch, and its engine may read the descriptor and the entry, which hold no error. -/
def Sys2Proof.Machine.slipThere (s : State) (k : Nat) : Prop :=
  s.bobOn k = true ∧ s.bobMay (s.bdf k 1 bdHOME) k = true ∧ cleanAt s (bdAddr k 0) 32 ∧ s.bobType k = 0 ∧ s.bdf k 0 bdLOC = 0 ∧ s.txAvail k ≠ 0 ∧
    s.grantedAll (64 + s.bdf k 1 bdHOME) (s.bobZ k) false .read (s.entryAddr k (s.txNextIdx k)) 64 = true ∧
    cleanAt s (s.entryAddr k (s.txNextIdx k)) 64

/-- The counters of a set after `n` units moved from FREE to HELD. -/
def Sys2Proof.Machine.tookCredits (s t : State) (set n : Nat) : Prop :=
  t.ctr set .free + n = s.ctr set .free ∧ t.ctr set .held = s.ctr set .held + n ∧ t.ctr set .flight = s.ctr set .flight

/-- A message of a TX bobbin may start (R248): the bobbin is ON, the block is not in DOZE, no skein drain runs, records and window have
room, and the device has its identifier. -/
def Sys2Proof.Machine.mayBegin (s : State) (k : Nat) (m : TxMsg) : Prop :=
  s.bobOn k = true ∧ s.bobMay (s.bdf k 1 bdHOME) k = true ∧ s.bobType k = 0 ∧ s.fld addrPwrStatus fldPwrStatus_STATE ≠ 2 ∧ s.skns = [] ∧ s.txReady k = some m ∧
    m.resend = false ∧ s.sends.length < 65536 ∧ s.unreported (slDST m.words) < 128 ∧ s.idSet = true ∧ slDST m.words ≠ s.devId

/-- R173, R184: a slip without a fault takes its pool credits and waits in order of the ring; without credits it is not taken; a faulty
one is marked for a KIND 5 slip. R233, R248: a message starts on the port of the route's step, with its record, its MSGID and its cells,
or sets NOROUTE. R210, R211: a framed cell takes TXNEXT's number and a replay entry in creel; a bad one leaves poisoned and takes neither.
The model's choices it rests on: log entries 12, 63, 64, 101, 104, 105. -/
def Obligations.MessagesSent : Prop :=
  (∀ (s : State) (k : Fin 65536) (h : Option (List Byte)),
    cleanAt s (bdAddr k 0) 32 → s.bobServes k = false ∨ s.unitState (addrBobBctl k) < 2 ∨ s.bobType k ≠ 0 ∨ s.txAvail k = 0 →
      exec (.txSlipFetch k h) s = .next s) ∧
  (∀ (s : State) (k : Fin 65536) (h : Option (List Byte)), slipThere s k →
    let i := s.txNextIdx k
    let w := slipWords (bytesAt s (s.entryAddr k i) 64)
    let c := slCells w
    let pool := s.poolOf k
    let l := s.txOf k
    (slOP w ≠ 0 → slINL w = false → s.slipFault k w = none → s.ctr pool .free < c → exec (.txSlipFetch k h) s = .next s) ∧
    (slOP w ≠ 0 → slINL w = false → s.slipFault k w = none → c ≤ s.ctr pool .free → s.ctr pool .held + c < 2 ^ 32 →
      (∀ m ∈ l.head?, m.stage = .held ∨ m.stage = .running) → (∀ x ∈ s.lgrSet pool, cleanAt s x 16) →
        completes (exec (.txSlipFetch k h) s) fun t => tookCredits s t pool c ∧ t.threads = s.threads ∧
          t.txOf k = l ++ [{ idx := i, words := w, inl := [], ents := 1, cells := c, left := c, stage := .held }]) ∧
    (∀ f, s.slipFault k w = some f → (∃ m ∈ l.head?, m.stage = .held ∨ m.stage = .running) →
      (slINL w = true → 2 ≤ s.txAvail k) → completes (exec (.txSlipFetch k h) s) fun t => t.threads = s.threads ∧
        t.txOf k = l ++ [{ idx := i, words := w, inl := [], ents := if slINL w then 2 else 1, cells := 0, left := 0,
                           stage := .fault f }])) ∧
  (∀ (s : State) (k : Fin 65536) (h : Option (List Byte)) (m : TxMsg), mayBegin s k m →
    let d := slDST m.words
    let x := tget (fun _ => 0) s.msgids d
    let st := s.fld (addrRteStep d) fldRteStep_STEP
    let q := s.stepPort d st
    let begun := fun (t : State) => t.txOf k = startMsg m (s.txOf k) ∧ tget (fun _ => 0) t.msgids d = (x + 1) % 2 ^ 48 ∧
      t.sends = s.sends ++ [{ slot := s.freeRec, bob := k, idx := m.idx, words := m.words, inl := m.inl, cells := m.cells, flight := 0, dst := d,
                              msgid := x % 65536, pool := s.poolOf k }] ∧
      (t.port q).q.map (·.cell) = (s.port q).q.map (·.cell) ++
        s.messageCells m.words s.devId x (padTo (slLEN m.words + 1) 0 m.inl) ∧ t.threads = s.threads
    (s.on (addrRtePathi d) fldRtePathi_V = false →
      completes (exec (.txMessageStart k h) s) fun t => t = s.setFld addrRteStatus fldRteStatus_NOROUTE 1) ∧
    (s.on (addrRtePathi d) fldRtePathi_V = true → st ≤ s.fld (addrRtePathi d) fldRtePathi_PLEN → s.usable q = true →
      (s.role q ≠ 2 ∨ s.isPartner q d = true) → slINL m.words = true →
        completes (exec (.txMessageStart k h) s) begun ∧ completes (exec (.norouteRetry k h) s) begun)) ∧
  (∀ (s : State) (p : PortNo) (pos : Nat) (c : QCell) (r : List (Nat × QCell)),
    (s.port p).framing = (pos, c) :: r → c.bob = none →
      let n := s.txNext p
      let scnt := (s.fld (addrLnkScnttx p) fldLnkScnttx_SCNT + 2 ^ 32 - 1) % 2 ^ 32
      let ep := s.fld (addrLnkState p) fldLnkState_EPTX
      let kept := withSeq c.cell n 0
      let i := (s.port p).rplNext
      let part := fun (j : Nat) => ((cellBytes kept).drop (96 * j)).take 96
      let sent := fun (t : State) => (t.port p).framing = r ∧ (t.port p).out = (s.port p).out ++
        [{ pos := pos, scnt := scnt, epoch := ep, cell := withSeq c.cell n (s.eseq p), poison := c.bad,
           wire := s.wireBytes p ep pos scnt (withSeq c.cell n (s.eseq p)) c.bad }] ∧ t.threads = s.threads
      (c.bad = false → completes (exec (.cellFramed p) s) fun t => sent t ∧ t.txNext p = (n + 1) % 2 ^ 20 ∧
        (t.port p).replay = (s.port p).replay ++ [{ lseq := n, at_ := i, units := cUnits c.cell }] ∧
        (c.skn = none → c.cell.pay.length = (if cShort c.cell then 64 else 256) →
          (∀ j, j < cUnits c.cell → s.grantedAll (64 + p) false true .write (rplUnit p (i + j)) (part j).length = true) →
            ∀ j, j < cUnits c.cell → bytesAt t (rplUnit p (i + j)) (part j).length = part j)) ∧
      (c.bad = true → completes (exec (.cellFramed p) s) fun t => sent t ∧ t.txNext p = n ∧ (t.port p).replay = (s.port p).replay))

/-! ### Lanes: codewords, cells, timers, slots (R190 to R223, R249 to R256, R459) -/

/-- Port `p` of `t` is as in `s` but for what a lost lock clears. -/
def Sys2Proof.Machine.locksLost (s t : State) (p : Nat) : Prop :=
  t.lnkOn p fldLnkState_CWLOCK = false ∧ t.lnkOn p fldLnkState_SFLOCK = false ∧ (t.port p).cntOk = false ∧
    t.lstate p = (if s.lstate p = 3 then 4 else s.lstate p) ∧ t.threads = s.threads ∧ t.mem = s.mem

/-- Snag makes no injection. -/
def Sys2Proof.Machine.noSnag (s : State) (p : Nat) : Prop := s.unitState addrSngCtl ≠ 2 ∧ (s.port p).squelch = false

/-- A cell whose tag is right in the epoch in use reaches the port's rules; the lane itself has brought none (log 10). -/
def Sys2Proof.Machine.verified (s : State) (p : Nat) (c : Cell) : Prop :=
  (s.port p).rxq = [] ∧ s.lstate p ≠ 0 ∧ s.lnkOn p fldLnkState_SFLOCK = true ∧ (s.port p).fresh = false ∧ (s.port p).squelch = false ∧
    (s.fld (addrLnkState p) fldLnkState_EPRX ≠ 0 ∨ epoch0Ok c = true)

/-- R192 to R195: a codeword that decodes counts and moves the locks; the second that does not in a row, or a second superframe start
missed, clears them. R191, R207: a lost lock loses the slot count, a SYNC restores it and takes TRAIN to SECURE; the answer to a request
goes before the other control cells. The model's choices it rests on: log entries 59. -/
def Obligations.LaneReceive : Prop :=
  (∀ (s : State) (p : PortNo) (l : List (BitVec 10)), noSnag s p →
    let raw := padTo 272 0 (l.map (·.toNat))
    let t0 := s.port p
    let sf := s.lnkOn p fldLnkState_SFLOCK
    (∀ d, decodeEither raw = some d →
      let n := d.2.1
      let start := d.2.2
      completes (exec (.codewordReceived p l) s) fun t => t.threads = s.threads ∧ t.mem = s.mem ∧ (t.port p).uncRun = 0 ∧
        t.fld (addrLnkCnt p 0) fldLnkCnt_COUNT = min (s.fld (addrLnkCnt p 0) fldLnkCnt_COUNT + 1) (2 ^ fldLnkCnt_COUNT.width - 1) ∧
        t.fld (addrLnkCnt p 1) fldLnkCnt_COUNT = min (s.fld (addrLnkCnt p 1) fldLnkCnt_COUNT + n) (2 ^ fldLnkCnt_COUNT.width - 1) ∧
        (sf = false → start = true → t0.sinceSf = some 192 → t.lnkOn p fldLnkState_SFLOCK = true ∧ (t.port p).fresh = true) ∧
        (sf = false → start = false ∨ t0.sinceSf ≠ some 192 → t.lnkOn p fldLnkState_SFLOCK = false ∧ t.lnkOn p fldLnkState_CWLOCK = true) ∧
        (sf = true → t0.cwIdx = 0 → start = false → 1 ≤ t0.missed → locksLost s t p) ∧
        (sf = true → t0.cwIdx ≠ 0 ∨ start = true ∨ t0.missed = 0 → t.lnkOn p fldLnkState_SFLOCK = true ∧
          (t.port p).cwIdx = (t0.cwIdx + 1) % 192)) ∧
    (decodeEither raw = none → completes (exec (.codewordReceived p l) s) fun t => t.threads = s.threads ∧
      t.fld (addrLnkCnt p 2) fldLnkCnt_COUNT = min (s.fld (addrLnkCnt p 2) fldLnkCnt_COUNT + 1) (2 ^ fldLnkCnt_COUNT.width - 1) ∧
      t.on (addrLnkStatus p) fldLnkStatus_UNC = true ∧ (1 ≤ t0.uncRun → locksLost s t p) ∧
      (t0.uncRun = 0 → t0.cwIdx ≠ 0 → t.lnkOn p fldLnkState_SFLOCK = sf ∧ (t.port p).uncRun = 1))) ∧
  (∀ (s : State) (p : PortNo), completes (exec (.lossOfSignal p) s) fun t => locksLost s t p) ∧
  (∀ (s : State) (p : PortNo), completes (exec (.laneStopsDead p) s) fun t => locksLost s t p) ∧
  (∀ (s : State) (p : PortNo), completes (exec (.squelchEnd p) s) fun t => (t.port p) = { s.port p with squelch := false } ∧
    t.regs = s.regs ∧ t.threads = s.threads ∧ t.mem = s.mem) ∧
  (∀ (s : State) (p : PortNo), let due := s.lnkOn p fldLnkState_SFLOCK = true ∧ (s.port p).cntOk = false ∧ s.lstate p ≠ 0
    (due → completes (exec (.syncRequest p) s) fun t => t.regs = s.regs ∧ t.mem = s.mem ∧ t.threads = s.threads ∧
      t.port p = { s.port p with ctlq := (s.port p).ctlq ++ [{ sub := 3, body := [1] }] }) ∧
    (¬due → exec (.syncRequest p) s = .next s)) ∧
  (∀ (s : State) (p : PortNo) (c : Cell), verified s p c → ctlWellFormed c = true → cCT c = 5 → cSUB c = 3 → s.lstate p < 3 →
    let scnt := pWord c 32
    let fits := pByte c 36 = s.fld (addrLnkState p) fldLnkState_EPRX ∧ scnt % 215 = ((s.port p).slotNo + 214) % 215 ∧
      ∀ h, (s.port p).hiScnt = some h → h < scnt
    completes (exec (.syncReceived p c .current) s) fun t => t.lstate p = 2 ∧ t.threads = s.threads ∧ t.mem = s.mem ∧
      ((s.port p).cntOk = false → (fits → (t.port p).cntOk = true ∧ (t.rd (addrLnkScntrx p)).toNat = scnt % 2 ^ 32) ∧
        (¬fits → (t.port p).cntOk = false)) ∧
      (t.port p).ctlq = (if pByte c 37 = 1 then [{ sub := 3, body := [0] }] else []) ++ (s.port p).ctlq)

/-- The cell is next in sequence, in a buffer that its class has been granted. -/
def Sys2Proof.Machine.inSequence (s : State) (p : Nat) (c : Cell) : Prop :=
  cLSEQ c = s.eseq p ∧ nth 0 (s.port p).rxHeld (cTC c) < nth 0 (s.port p).granted (cTC c)

/-- A data cell that is verified on a port that takes sequenced cells, with Snag idle and no cell waiting or held back. -/
def Sys2Proof.Machine.plainCell (s : State) (p : Nat) (c : Cell) : Prop :=
  verified s p c ∧ s.carries p = true ∧ s.unitState addrSngCtl ≠ 2 ∧ (s.port p).snHold = [] ∧ (s.port p).snDelays = false ∧
    (s.port p).rxWait = [] ∧ s.fld (addrLnkState p) fldLnkState_EPRX ≠ 0 ∧ s.skns = []

/-- What a received cell does, by its kind and the port's state as each clause names them (drawn from R209, R210, R212, R214, R215, R219,
R228, R233, R237, R241 and R381). The model's choices it rests on: log entries 10, 66, 103, 104. -/
def Obligations.CellsReceived : Prop :=
  (∀ (s : State) (p : PortNo) (c : Cell), plainCell s p c →
    let same := fun (t : State) => t.eseq p = s.eseq p ∧ t.threads = s.threads ∧ t.mem = s.mem
    let nak := fun (t : State) (r : Nat) => t.lnkOn p fldLnkState_GAP = true ∧
      (s.lnkOn p fldLnkState_GAP = false → (t.port p).ctlq = (s.port p).ctlq ++
        [{ sub := 2, body := bytesLE 4 (s.eseq p) ++ bytesLE 1 r }])
    (completes (exec (.cellReceived p c .poisoned) s) fun t => same t ∧ t.ports = s.ports) ∧
    ((s.port p).tagFails.length < 16 → completes (exec (.cellReceived p c (.bad false)) s) fun t =>
      same t ∧ nak t 2 ∧ t.on (addrLnkStatus p) fldLnkStatus_TAGF = true) ∧
    (cLSEQ c ≠ s.eseq p → 2 ^ 19 ≤ seqDiff (cLSEQ c) (s.eseq p) → completes (exec (.cellReceived p c .current) s) fun t =>
      same t ∧ (t.port p).ctlq = (s.port p).ctlq) ∧
    (cLSEQ c ≠ s.eseq p → seqDiff (cLSEQ c) (s.eseq p) < 2 ^ 19 → completes (exec (.cellReceived p c .current) s) fun t =>
      same t ∧ nak t 3) ∧
    (inSequence s p c → completes (exec (.cellReceived p c .current) s) fun t =>
      t.eseq p = (s.eseq p + 1) % 2 ^ 20 ∧ t.lnkOn p fldLnkState_GAP = false ∧ t.threads = s.threads) ∧
    (inSequence s p c → s.idSet = true → cDST c = s.devId → cCT c = 3 → s.ctxs = [] →
      cMSGID c = (s.src (cSRC c)).next % 2 ^ 16 → (s.src (cSRC c)).done = [] → 1 ≤ s.ctr s.rq .free →
      (∀ a, s.rteAt (srcOff (cSRC c)) = some a → cleanAt s a 32) → (∀ a, s.lgrSet s.rq = some a → cleanAt s a 16) →
      ∀ u, s.findUnit 2 = some u → completes (exec (.cellReceived p c .current) s) fun t => (t.port p).rxHeld = (s.port p).rxHeld ∧
          t.ctxs = [(0, { src := cSRC c, xmsg := (s.src (cSRC c)).next, port := p, cells := [c], units := [u], last := true, why := 1, expired := false })]) ∧
    (inSequence s p c → s.idSet = true → cDST c ≠ s.devId → cCT c = 3 → (s.port p).paths = [] →
      s.on (addrRtePathi (cDST c)) fldRtePathi_V = true →
      s.fld (addrRteStep (cDST c)) fldRteStep_STEP ≤ s.fld (addrRtePathi (cDST c)) fldRtePathi_PLEN →
        let q := s.stepPort (cDST c) (s.fld (addrRteStep (cDST c)) fldRteStep_STEP)
        q ≠ p → s.usable q = true → s.permits q (cDST c) (some p) = true → s.takesCredit q c = true →
          completes (exec (.cellReceived p c .current) s) fun t => (t.port p).rxHeld = (s.port p).rxHeld ∧
            (t.port q).q.map (·.cell) = (s.port q).q.map (·.cell) ++ [c])) ∧
  (∀ (s : State) (p : PortNo) (c : Cell) (ok : Bool), verified s p c → ctlWellFormed c = true → cCT c = 5 → fwSub (cSUB c) = true →
    s.lstate p < 3 → s.resec p = false →
      let o := exec (.controlCellReceived p c .current ok) s
      let room := (s.port p).crx.length < 16
      let whole := cLastFrag c = true ∧ (s.port p).dseqs.contains (cDSEQ c) = false
      let refused := completes o fun t => t.lstate p = 0 ∧ t.on (addrLnkStatus p) fldLnkStatus_IDCONF = true ∧
        t.lnkOn p fldLnkState_PVALID = false ∧ t.threads = s.threads
      (cSUB c ∉ [4, 5, 9] → ok = true → room → completes o fun t =>
        (t.port p).crx = (s.port p).crx ++ [c] ∧ t.uev = s.uev ++ [4 * p.val] ∧ t.threads = s.threads ∧ t.mem = s.mem) ∧
      (¬room → completes o fun t => (t.port p).crx = (s.port p).crx ∧ t.on (addrLnkStatus p) fldLnkStatus_CTLOV = true ∧
        t.lstate p = s.lstate p) ∧
      (cSUB c = 4 → room → whole →
        (ok = true ∧ s.helloOk p c = true → completes o fun t =>
          t.lnkOn p fldLnkState_PVALID = true ∧ t.fld (addrLnkState p) fldLnkState_PARTNER = pWord c 32 % 4096) ∧
        (ok = false ∨ s.helloOk p c = false → refused)) ∧
      (cSUB c = 6 ∨ cSUB c = 7 ∨ cSUB c = 8 → s.lstate p = 2 → room → whole → ok = false → refused) ∧
      (cSUB c = 5 → s.lstate p = 2 → room → whole → hdrF c 6 0 = 0 →
        let m := c.pay.drop 32
        let good := s.identOk ((m.drop 4).take (leBytes (m.take 4))) (s.fld (addrLnkState p) fldLnkState_PARTNER)
        (good = false → refused) ∧ (good = true → completes o fun t => t.lstate p = 2 ∧ t.threads = s.threads ∧ t.mem = s.mem)) ∧
      (cSUB c = 9 → s.lstate p = 2 → room → whole →
        ((s.port p).grantSent.isSome = true → completes o fun t => t.lstate p = 3 ∧ t.txNext p = 0 ∧ t.eseq p = 0) ∧
        ((s.port p).grantSent = none → completes o fun t => t.lstate p = 2 ∧
          (t.port p).grantRecv = some ((List.range 7).map fun tc => pWord c (32 + 4 * tc))))) ∧
  (∀ (s : State) (p : PortNo) (c : Cell), verified s p c → s.lstate p = 3 → cLACK c = s.txAck p →
    let credits := fun (tc : Nat) => (pWord c (4 * tc) % 2 ^ 24 + 2 ^ 24 - s.fld (addrLnkCrrx p tc) fldLnkCrrx_CCNT) % 2 ^ 24
    let clean := ∀ tc, tc < 7 → ∀ x, s.lgrSet (portSet p tc) = some x → cleanAt s x 16
    let n := pWord c 32 % 2 ^ 20
    (cCT c = 7 → s.fld (addrLnkState p) fldLnkState_EPRX ≠ 0 → clean → s.lgrSet 0 ≠ none →
      ((∀ tc, tc < 7 → credits tc ≤ s.ctr (portSet p tc) .flight ∧ s.ctr (portSet p tc) .free + credits tc < 2 ^ 32) →
        completes (exec (.creditBlock p c .current) s) fun t => t.threads = s.threads ∧ ∀ tc, tc < 7 →
          t.fld (addrLnkCrrx p tc) fldLnkCrrx_CCNT = pWord c (4 * tc) % 2 ^ 24 ∧
          t.ctr (portSet p tc) .free = s.ctr (portSet p tc) .free + credits tc ∧
          t.ctr (portSet p tc) .flight + credits tc = s.ctr (portSet p tc) .flight)) ∧
    (cCT c = 7 → s.fld (addrLnkState p) fldLnkState_EPRX ≠ 0 → (∃ tc, tc < 7 ∧ s.ctr (portSet p tc) .flight < credits tc) →
      completes (exec (.creditBlock p c .current) s) fun t =>
        t.lstate p = 0 ∧ t.on (addrLnkStatus p) fldLnkStatus_CRDERR = true) ∧
    (cCT c = 5 → cSUB c = 2 → ctlWellFormed c = true → (∀ tc, tc < 7 → credits tc = 0) → (s.port p).gbAt = none →
      (s.port p).resend = none → seqDiff n (s.txAck p) ≤ seqDiff (s.txNext p) (s.txAck p) →
        completes (exec (.nakReceived p c .current) s) fun t => t.txAck p = n ∧ t.txNext p = s.txNext p ∧ t.threads = s.threads ∧
          (t.port p).resend = (if n = s.txNext p then none else some n) ∧
          (t.port p).replay = (s.port p).replay.filter fun r => seqDiff n (s.txAck p) ≤ seqDiff r.lseq (s.txAck p))) ∧
  (∀ (s : State) (p : PortNo),
    let adv := fun (tc : Nat) => (nth 0 (s.port p).ccnt tc + 2 ^ 24 - s.fld (addrLnkCrtx p tc) fldLnkCrtx_CCNT) % 2 ^ 24
    let due := 3 ≤ s.lstate p ∧ ((∃ tc, tc < 7 ∧ 8 ≤ adv tc) ∨ (32 ≤ (s.port p).sinceBlk ∧ ∃ tc, tc < 7 ∧ 1 ≤ adv tc)) ∧
      ∀ x ∈ (s.port p).ctlq, x.sub ≠ 256
    (due → completes (exec (.creditReturnSend p) s) fun t => t.regs = s.regs ∧ t.mem = s.mem ∧
      t.port p = { s.port p with ctlq := (s.port p).ctlq ++ [{ sub := 256, body := [] }] }) ∧
    (¬due → exec (.creditReturnSend p) s = .next s)) ∧
  (∀ (s : State) (p : PortNo) (q : Nat) (c : Cell), (s.port p).rxWait = [(c, some q)] →
    (∀ x ∈ s.ports, ∀ y ∈ x.2.q, y.held = none) → s.idSet = true → cDST c ≠ s.devId →
    s.takesCredit q c = true → completes (exec (.transitRelease p) s) fun t => (t.port p).rxWait = [] ∧ t.threads = s.threads ∧
      (t.port q).q.map (·.cell) = (s.port q).q.map (·.cell) ++ [c]) ∧
  (∀ (s : State) (p : PortNo) (c : Cell) (r : List Cell), (s.port p).snHold = [] → (s.port p).snDelay = c :: r → s.idSet = false →
    (s.port p).rxWait = [] → completes (exec (.snagReorderRelease p) s) fun t => (t.port p).snDelay = r ∧ t.threads = s.threads ∧
      t.fld (addrRteCnt 3) fldRteCnt_COUNT = min (s.fld (addrRteCnt 3) fldRteCnt_COUNT + 1) (2 ^ fldRteCnt_COUNT.width - 1))

/-- What a port that reaches DOWN holds (R222). -/
def Sys2Proof.Machine.portDown (t : State) (p : Nat) : Prop :=
  t.lstate p = 0 ∧ (t.port p).q = [] ∧ (t.port p).replay = [] ∧ (t.port p).keys = [] ∧ (t.port p).paths = [] ∧
    t.fld (addrLnkState p) fldLnkState_EPTX = 0 ∧ t.fld (addrLnkState p) fldLnkState_EPRX = 0 ∧ t.lnkOn p fldLnkState_PVALID = false ∧
    t.on (addrLnkStatus p) fldLnkStatus_DOWNEV = true

/-- The timers of a link, what an egress slot carries and the reel's boundary, as each clause names them (drawn from R208, R212, R213,
R216, R220 to R223 and R249 to R256). The model's choices it rests on: log entries 60, 61, 69, 91. -/
def Obligations.LinkTimersAndSlots : Prop :=
  (∀ (s : State) (p : PortNo),
    let due := s.txAck p ≠ s.txNext p ∧ s.carries p = true
    let n := (s.port p).expiries + 1
    let last := s.fld (addrLnkCfg p) fldLnkCfg_RMAX ≤ n
    (¬due → exec (.replayTimeout p) s = .next s) ∧
    (due → ¬last → completes (exec (.replayTimeout p) s) fun t => (t.port p).resend = some (s.txAck p) ∧ (t.port p).expiries = n ∧
      t.on (addrReelPst p) fldReelPst_GOBACK = true ∧ t.threads = s.threads ∧ t.mem = s.mem) ∧
    (due → last → completes (exec (.replayTimeout p) s) fun t => t.lstate p = (if s.lstate p = 5 then 5 else 4) ∧
      (t.port p).expiries = 0 ∧ t.on (addrLnkStatus p) fldLnkStatus_RMAXX = true ∧ t.threads = s.threads ∧ t.mem = s.mem)) ∧
  (∀ (s : State) (p : PortNo), let due := s.lnkOn p fldLnkState_GAP = true ∧ s.carries p = true
    (¬due → exec (.nakRepeat p) s = .next s) ∧
    (due → completes (exec (.nakRepeat p) s) fun t => t.regs = s.regs ∧ t.mem = s.mem ∧ t.port p =
      { s.port p with ctlq := (s.port p).ctlq ++ [{ sub := 2, body := bytesLE 4 (s.eseq p) ++ bytesLE 1 5 }] })) ∧
  (∀ (s : State) (p : PortNo), let n := (s.rd (addrLnkScnttx p)).toNat
    (0xFFF00000 ≤ n → s.lnkOn p fldLnkState_KEYEXH = false → completes (exec (.keyExhaust p) s) fun t =>
      t.lnkOn p fldLnkState_KEYEXH = true ∧ t.uev = s.uev ++ [4 * p.val + 3] ∧ t.ports = s.ports) ∧
    (n < 0xFFF00000 → exec (.keyExhaust p) s = .next s) ∧
    (0xFFFF0000 ≤ n → s.lstate p ≠ 0 → completes (exec (.keyEraseRetrain p) s) fun t => t.lstate p = 4 ∧ (t.port p).keys = [] ∧
      t.lnkOn p fldLnkState_RESEC = true ∧ t.threads = s.threads ∧ t.mem = s.mem) ∧
    (n < 0xFFFF0000 → exec (.keyEraseRetrain p) s = .next s)) ∧
  (∀ (s : State) (p : PortNo), let l := s.lstate p
    let due := l = 4 ∨ l = 5 ∨ (l = 2 ∧ s.lnkOn p fldLnkState_RESEC = true)
    (due → completes (exec (.retrainTimeout p) s) fun t => portDown t p ∧ t.threads = s.threads) ∧
    (¬due → exec (.retrainTimeout p) s = .next s) ∧
    (l = 5 → (s.port p).dr2Sent = true → (s.port p).dr2Recv = true →
      completes (exec (.drainDone p) s) fun t => portDown t p ∧ t.threads = s.threads) ∧
    (l ≠ 5 ∨ (s.port p).dr2Sent = false ∨ (s.port p).dr2Recv = false → exec (.drainDone p) s = .next s)) ∧
  (∀ (s : State) (p : PortNo), let c := addrLnkCtl p
    let l := s.lstate p
    let t0 := s.port p
    (l = 0 → s.unitState c = 2 → s.on c fldLnkCtl_AUTO = true → s.on c fldLnkCtl_EN = true → t0.holdTil ≤ s.tb64 →
      completes (exec (.egressSlot p) s) fun t => t.lstate p = 1 ∧ t.threads = s.threads ∧ t.mem = s.mem) ∧
    (l = 0 → s.on c fldLnkCtl_AUTO = false ∨ s.tb64 < t0.holdTil → exec (.egressSlot p) s = .next s) ∧
    (l = 1 ∨ l = 2 → s.on c fldLnkCtl_PRBS = false → s.on c fldLnkCtl_RXRDY = true → t0.fw = none → t0.ctlq = [] →
      t0.txPend = none → t0.framing = [] → completes (exec (.egressSlot p) s) fun t =>
        (t.port p).out.map (fun x => (cCT x.cell, cSUB x.cell, x.pos)) = [(5, 1, 0), (5, 1, 1), (5, 1, 2)] ∧
        (t.port p).txSlot = (t0.txSlot + 1) % 215 ∧ (t.rd (addrLnkScnttx p)) = s.rd (addrLnkScnttx p) + 1 ∧ t.threads = s.threads) ∧
    (∀ x, t0.q = [x] → l = 3 → s.draining p = false → s.on c fldLnkCtl_PRBS = false → t0.ctlq = [] → t0.resend = none →
      t0.framing = [] → t0.replay = [] → t0.txPend = none → s.lnkOn p fldLnkState_KEYEXH = false →
      s.on (addrReelPctl p) fldReelPctl_RUSE = false → x.assigned = true → cShort x.cell = false →
      s.on (addrReelEseqa p t0.esqPtr) fldReelEseqa_USE = true →
      s.fld (addrReelEseqa p t0.esqPtr) fldReelEseqa_TC = cTC x.cell → completes (exec (.egressSlot p) s) fun t =>
        (t.port p).framing = [(0, x)] ∧ (t.port p).q = [] ∧ (t.port p).esqPtr = (t0.esqPtr + 1) % 64 ∧ t.threads = s.threads)) ∧
  (∀ (s : State) (p : PortNo), (s.port p).reelNo = some s.reelDue → exec (.reelBoundary p) s = .next s) ∧
  (∀ (s : State) (p : PortNo), (s.port p).reelNo ≠ some s.reelDue →
    let w := addrReelPctl p
    isOn (tget (fun _ => 0) s.swNow w) fldReelPctl_SWAP = false → completes (exec (.reelBoundary p) s) fun t =>
      t.fld (addrReelPst p) fldReelPst_SLOT = 0 ∧ (∀ i, i < 4 → t.rd (addrReelTsnap p i) = BitVec.ofNat 32 (nth 0 (s.port p).telem i)) ∧
      (t.port p).telem = [0, 0, 0, 0] ∧ t.threads = s.threads ∧ t.mem = s.mem ∧
      (if s.on w fldReelPctl_SWAP = true ∧ (s.port p).swapAt + 128 ≤ s.cycle then t.on w fldReelPctl_SWAP = false ∧
        t.rd (addrReelAbase p) = s.rd (addrReelSbase p) ∧ t.rd (addrReelSbase p) = s.rd (addrReelAbase p)
       else t.rd w = s.rd w ∧ t.rd (addrReelAbase p) = s.rd (addrReelAbase p) ∧ t.rd (addrReelSbase p) = s.rd (addrReelSbase p)))

/-! ### Messages at the destination (R178, R239 to R248) -/

/-- The creel units of a context hold the payloads of its cells, without errors, where its port may read them (R239). -/
def Sys2Proof.Machine.unitsHold (s : State) (x : RCtx) : Prop :=
  x.units.length = x.cells.length ∧ ∀ y ∈ x.cells.zip x.units, bytesAt s y.2 y.1.pay.length = y.1.pay ∧
    cleanAt s y.2 y.1.pay.length ∧ s.grantedAll (64 + x.port) false true .read y.2 y.1.pay.length = true

/-- What closing context `c` with an arrival slip in bobbin `k` writes besides the window. -/
def Sys2Proof.Machine.landAreas (s : State) (c : Nat) (x : RCtx) (k : Nat) : List (Nat × Nat) :=
  let q := quotaSet (s.fld (addrBobLwq (s.bdf k 1 bdLWIN)) fldBobLwq_QUOTA)
  [(s.entryAddr k (s.prod k), 64), (bdAddr k 0, 32)] ++ setArea s q ++ setArea s s.rq ++
    [srcOff x.src, ctxOff c].filterMap fun o => (s.rteAt o).map fun a => (a, 32)

/-- A complete message `x` for an ON RX bobbin `k` that lands at `off` bytes into its creel window, with room, quota and regions for it,
and apart from what else the landing writes. -/
def Sys2Proof.Machine.landsAt (s : State) (c : Nat) (x : RCtx) (cell : Cell) (k off : Nat) : Prop :=
  let m := readMessage x.cells
  let w := s.bdf k 1 bdLWIN
  let n := m.len + 1
  let u := (n + 255) / 256
  let wa := s.winBase w + off
  let q := quotaSet (s.fld (addrBobLwq w) fldBobLwq_QUOTA)
  x.cells.head? = some cell ∧ unitsHold s x ∧ cDBOB cell = k ∧ cE cell = false ∧ m.put = false ∧ m.body.length = n ∧
    s.bobServes k = true ∧ s.bobOn k = true ∧ s.bobType k = 1 ∧
    s.on (addrBobLwhi w) fldBobLwhi_LOC = false ∧ u ≤ s.winUnits w ∧ (tget (fun _ => {}) s.lwins w).recs = [] ∧
    off = 256 * (tget (fun _ => {}) s.lwins w).free ∧ off + n ≤ 256 * s.winUnits w ∧ u ≤ s.ctr q .free ∧ s.setSound q = true ∧
    inCreel wa = true ∧ inCreel (wa + n - 1) = true ∧
    s.grantedAll (64 + s.bdf k 1 bdHOME) (s.bobZ k) false .write wa n = true ∧ cleanAt s wa n ∧
    (∀ y ∈ landAreas s c x k, wa + n ≤ y.1 ∨ y.1 + y.2 ≤ wa) ∧ ∀ y ∈ setArea s q, y.1 + y.2 ≤ bdAddr k 0 ∨ bdAddr k 0 + 32 ≤ y.1

/-- What landing leaves: the bytes in the window, the context free, the MSGID closed with status 1 for the acknowledgement. -/
def Sys2Proof.Machine.landedAt (s t : State) (c : Nat) (x : RCtx) (off : Nat) (cell : Cell) : Prop :=
  let m := readMessage x.cells
  bytesAt t (s.winBase (s.bdf (cDBOB cell) 1 bdLWIN) + off) (m.len + 1) = m.body ∧ t.ctx c = none ∧
    (t.src x.src).report = (s.src x.src).report ++ [(x.xmsg, 1)] ∧ t.threads = s.threads

/-- What a message whose bobbin is no ON RX bobbin leaves: status 4 (R242). -/
def Sys2Proof.Machine.messageRefused (s t : State) (c : Nat) (x : RCtx) : Prop :=
  t.ctx c = none ∧ (t.src x.src).report = (s.src x.src).report ++ [(x.xmsg, 4)] ∧ t.threads = s.threads

/-- R178, R242: a complete message lands in its window and is closed with status 1, or 4 where its bobbin cannot take it; an ordered one
waits for lower MSGIDs. R243: an expired context tells its stall bobbin once. R245 to R247: closed MSGIDs are acknowledged, and the source
closes the records that an acknowledgement names. The model's choices it rests on: log entries 65, 103, 104, 105. -/
def Obligations.MessagesLanded : Prop :=
  (∀ (s : State) (c : Fin 16384) (x : RCtx) (cell : Cell) (off : Nat), s.ctx c = some x → x.cells.head? = some cell →
    let k := cDBOB cell
    let nx := (s.src x.src).next
    let free := s.ordered x = false ∨ x.xmsg = nx
    let bad := s.bobOn k = false ∨ s.bobType k ≠ 1
    (x.last = true → x.why = 1 → ¬free → completes (exec (.messageComplete c) s) fun t =>
      t = s.setCtx c { x with why := 3, expired := false }) ∧
    (x.last = true → x.why = 1 → free →
      (landsAt s c x cell k off → completes (exec (.messageComplete c) s) fun t => landedAt s t c x off cell) ∧
      (bad → completes (exec (.messageComplete c) s) fun t => messageRefused s t c x)) ∧
    (x.why = 2 →
      (landsAt s c x cell k off → completes (exec (.landingSpaceFree c) s) fun t => landedAt s t c x off cell) ∧
      (bad → completes (exec (.landingSpaceFree c) s) fun t => messageRefused s t c x)) ∧
    (x.why = 3 → x.xmsg = nx →
      (landsAt s c x cell k off → completes (exec (.orderedLanding c) s) fun t => landedAt s t c x off cell) ∧
      (bad → completes (exec (.orderedLanding c) s) fun t => messageRefused s t c x)) ∧
    (x.why = 3 → x.xmsg ≠ nx → exec (.orderedLanding c) s = .next s)) ∧
  (∀ (s : State) (c : Fin 16384) (x : RCtx), s.ctx c = some x →
    let on := s.on (addrRteStallbob (x.port / 4)) fldRteStallbob_EN
    (x.expired = false → on = true → completes (exec (.stallTimerExpire c) s) fun t =>
      t.ctx c = some { x with expired := true } ∧ t.threads = s.threads) ∧
    (x.expired = true ∨ on = false → exec (.stallTimerExpire c) s = .next s)) ∧
  (∀ (s : State) (d : Fin 4096) (r : Nat × Nat) (l : List (Nat × Nat)), (s.src d).report = r :: l →
    (∀ y ∈ l, r.1 < y.1 ∧ y.1 < r.1 + 128) →
      let q := s.stepPort d (s.fld (addrRteStep d) fldRteStep_STEP)
      let told := fun (t : State) (c : Cell) => (t.src d).report = [] ∧ t.threads = s.threads ∧ cIsAck c = true ∧ cDST c = d.val ∧
        cMSGID c = r.1 % 65536 ∧ (l = [] → r.2 < 16 → pByte c 0 = r.2)
      (d.val = s.devId → completes (exec (.ackSend d) s) fun t =>
        let c := t.ackIn.getLast?.getD ⟨0, []⟩
        t.ackIn = s.ackIn ++ [c] ∧ told t c) ∧
      (d.val ≠ s.devId → s.on (addrRtePathi d) fldRtePathi_V = true →
        s.fld (addrRteStep d) fldRteStep_STEP ≤ s.fld (addrRtePathi d) fldRtePathi_PLEN → s.usable q = true →
        (s.role q ≠ 2 ∨ s.isPartner q d = true) → completes (exec (.ackSend d) s) fun t =>
          let c := ((t.port q).q.map (·.cell)).getLast?.getD ⟨0, []⟩
          (t.port q).q.map (·.cell) = (s.port q).q.map (·.cell) ++ [c] ∧ told t c) ∧
      (d.val ≠ s.devId → s.on (addrRtePathi d) fldRtePathi_V = false → completes (exec (.ackSend d) s) fun t =>
        t = s.setFld addrRteStatus fldRteStatus_NOROUTE 1)) ∧
  (∀ (s : State) (c : Cell) (r : List Cell), s.ackIn = c :: r →
    let nib := fun (i : Nat) => pByte c (i / 2) / 16 ^ (i % 2) % 16
    let named := fun (y : SendRec) => ∃ i, i < 128 ∧ (1 ≤ nib i ∧ nib i ≤ 6 ∧ y.dst = cSRC c ∧ y.msgid = (cMSGID c + i) % 65536)
    completes (exec .ackReceived s) fun t => t.ackIn = r ∧ t.threads = s.threads ∧ (∀ y ∈ t.sends, y ∈ s.sends ∧ ¬named y) ∧
      ∀ y ∈ s.sends, ¬named y → y ∈ t.sends)

/-! ### Draft engines (R261 to R277) -/

/-- A counter counted up, saturating. -/
def Sys2Proof.Machine.counted (s t : State) (a : Nat) (b : Bits) (n : Nat) : Prop := t.fld a b = min (s.fld a b + n) (2 ^ b.width - 1)

/-- A running, ON engine is about to fetch a command from creel that its regions let it read. -/
def Sys2Proof.Machine.draftAt (s : State) (e : Fin 8) (l : DList) : Prop :=
  (s.drf e).cur = some l ∧ (s.drf e).cmd = .none ∧ (s.drf e).begun = false ∧ s.drfRun e = 1 ∧ s.unitState (addrDrfCtl e) = 2 ∧
    l.host = false ∧ inCreel l.addr = true ∧ inCreel (l.addr + 63) = true ∧
    s.grantedAll (40 + e) l.z l.lv .read l.addr 64 = true ∧ cleanAt s l.addr 64

/-- The command there. -/
def Sys2Proof.Machine.draftCmd (s : State) (l : DList) : DCmd := cmdOf l (bytesAt s l.addr 64)

/-- The engine is at the next command of its list. -/
def Sys2Proof.Machine.draftOn (s t : State) (e : Fin 8) (l : DList) (c : DCmd) : Prop :=
  t.drfRun e = 1 ∧ (t.drf e).cur = some (nextList l c) ∧ (t.drf e).begun = false ∧ counted s t (addrDrfCnt e 0) fldDrfCnt_COUNT 1 ∧
    t.threads = s.threads ∧ t.pending = s.pending

/-- Element `n` of the rectangle at word `i` lies in creel or a lap, under regions that allow the access, without errors. -/
def Sys2Proof.Machine.elemOk (s : State) (e : Fin 8) (c : DCmd) (i n : Nat) (k : AccKind) : Prop :=
  let a := (dcAt c i n).toNat
  dcLoc c i = false ∧ inPly a = true ∧ inPly (a + dcN c - 1) = true ∧ s.grantedAll (40 + e) c.z c.lv k a (dcN c) = true ∧
    cleanAt s a (dcN c)

/-- Memory after the elements of a COPY in the sequence of R264. -/
def Sys2Proof.Machine.copied (c : DCmd) (m : List Host.Cell) : List Host.Cell :=
  (List.range (dcTotal c)).foldl (fun m n =>
    memPuts m (dcAt c 8 n).toNat ((List.range (dcN c)).map fun b => memByte m ((dcAt c 3 n).toNat + b))) m

/-- Memory after the elements of a FILL. -/
def Sys2Proof.Machine.filled (c : DCmd) (m : List Host.Cell) : List Host.Cell :=
  (List.range (dcTotal c)).foldl (fun m n => memPuts m (dcAt c 8 n).toNat (dcFill c)) m

/-- A TX bobbin with a creel ring apart from its descriptor has room for `n` slips of the engine, which may write them and the
doorbell. -/
def Sys2Proof.Machine.ringRoom (s : State) (e : Fin 8) (z lv : Bool) (k n : Nat) : Prop :=
  s.bobFill k + n ≤ s.bobN k ∧ s.bdf k 0 bdLOC = 0 ∧ cleanAt s (bdAddr k 4) 4 ∧
    s.grantedAll (40 + e) z lv .write (addrBobDb k) 4 = true ∧ ∀ i, i < n →
    (s.entryAddr k (s.prod k + i) + 64 ≤ bdAddr k 0 ∨ bdAddr k 0 + 32 ≤ s.entryAddr k (s.prod k + i)) ∧
    inCreel (s.entryAddr k (s.prod k + i)) = true ∧ inCreel (s.entryAddr k (s.prod k + i) + 63) = true ∧
      s.grantedAll (40 + e) z lv .write (s.entryAddr k (s.prod k + i)) 64 = true ∧ cleanAt s (s.entryAddr k (s.prod k + i)) 64

/-- R261 to R277: a command in order does its work and the engine goes on with the next one; a reserved field stops the list. COPY and
FILL leave memory as their elements in sequence make it, PUT and GET ring their slips, EVENT raises its signals, LINK and STOP move or end
the list. The model's choices it rests on: log entries 9, 71 to 76. -/
def Obligations.DraftCommands : Prop :=
  (∀ (s : State) (e : Fin 8) (l : DList) (h : DraftHost), draftAt s e l →
    let c := draftCmd s l
    let fine := s.drfCheck e c l.by_ = none
    let k := dcF c 13 15 0
    let stops := fun (t : State) => t.drfRun e = 4 ∧ t.mem = s.mem ∧ (t.drf e).cur = some l
    (dcBad c = true →
      (dcOp c = 0 → completes (exec (.draftCopy e h) s) stops) ∧ (dcOp c = 1 → completes (exec (.draftFill e h) s) stops)) ∧
    (dcOp c = 0 → fine → (∀ n, n < dcTotal c → elemOk s e c 3 n .read ∧ elemOk s e c 8 n .write) →
      completes (exec (.draftCopy e h) s) fun t => draftOn s t e l c ∧ t.mem = copied c s.mem) ∧
    (dcOp c = 1 → fine → (∀ n, n < dcTotal c → elemOk s e c 8 n .write) →
      completes (exec (.draftFill e h) s) fun t => draftOn s t e l c ∧ t.mem = filled c s.mem) ∧
    (dcOp c = 2 → fine → dcDense c = true → dcScat c = false → ringRoom s e c.z c.lv k 1 →
      completes (exec (.draftPut e h) s) fun t => draftOn s t e l c ∧ t.prod k = (s.prod k + 1) % 2 ^ 32 ∧
        bytesAt t (s.entryAddr k (s.prod k)) 64 = slipBytes (dcPutSlip c e (dcLoc c 3) (dcBase c 3) (dcF c 14 27 16))) ∧
    (dcOp c = 3 → fine → ringRoom s e c.z c.lv k 2 →
      completes (exec (.draftGet e h) s) fun t => draftOn s t e l c ∧ t.prod k = (s.prod k + 2) % 2 ^ 32 ∧
        bytesAt t (s.entryAddr k (s.prod k + 1)) 64 = slipBytes (getCmd s c)) ∧
    (dcOp c = 4 → fine → dcStream c = true → dcTotal c = 1 → s.plySize c = some (dcN c) →
      s.plyTakes (dcPU c) (dcK c) (dcN c) = true → elemOk s e c 3 0 .read →
        completes (exec (.plycopy e h) s) fun t => draftOn s t e l c ∧
          (t.ply (dcPU c)).seq = (s.ply (dcPU c)).seq + 1 ∧
            nth 0 (t.ply (dcPU c)).taken (dcK c) = (if dcK c < (s.ply (dcPU c)).taken.length then nth 0 (s.ply (dcPU c)).taken (dcK c) + 1 else 0)) ∧
    (dcOp c = 5 → fine → dcW c 13 = 2 → (s.drf e).rung = [] →
      completes (exec (.draftFence e h) s) fun t => draftOn s t e l c ∧ t.mem = s.mem) ∧
    (dcOp c = 6 → fine → dcW c 13 < 4 → completes (exec (.draftEvent e h) s) fun t => draftOn s t e l c ∧ t.mem = s.mem ∧
      ((dcW c 13).testBit 0 = true → (t.rd (addrTrdPlat 8)).toNat.testBit e.val = true) ∧
      ((dcW c 13).testBit 1 = true → 0x0402 + 4 * e.val ∈ t.uev)) ∧
    (dcOp c = 7 → fine → completes (exec (.draftLink e h) s) fun t => draftOn s t e l c ∧ t.mem = s.mem) ∧
    (dcOp c = 8 → fine → (s.drf e).queue = [] → completes (exec (.draftStop e h) s) fun t =>
      t.drfRun e = 0 ∧ (t.drf e).cur = none ∧ t.mem = s.mem ∧ counted s t (addrDrfCnt e 0) fldDrfCnt_COUNT 1)) ∧
  (∀ (s : State) (e : Fin 8) (h : DraftHost),
    let k := s.fld (addrDrfSvcctl e) fldDrfSvcctl_SBOB
    let z := s.bobZ k
    let ra := s.entryAddr k (s.cons k)
    let d := bytesAt s ra 64
    let w := s.bdf k 1 bdLWIN
    let pa := s.winBase w + (svcHead d).2.1
    let c := cmdOf { addr := pa, host := false, z := z, lv := false, by_ := none } (bytesAt s pa 64)
    let s1 := (s.advCons k 1).drfCur e { addr := pa, host := false, z := z, lv := false, by_ := none }
    s.svcReady e = true → s.slipWait = [] → s.bobNotEmpty k = true → s.bdf k 0 bdLOC = 0 → s.on (addrBobLwhi w) fldBobLwhi_LOC = false →
    inCreel ra = true → inCreel (ra + 63) = true → s.grantedAll (40 + e) z false .read ra 64 = true → cleanAt s ra 64 →
    inCreel pa = true → inCreel (pa + 63) = true → s.grantedAll (40 + e) z false .read pa 64 = true → cleanAt s pa 64 →
      ((svcHead d).1 = false → completes (exec (.serviceCommand e h) s) fun t => counted s t (addrDrfCnt e 5) fldDrfCnt_COUNT 1 ∧
        t.mem = (s.advCons k 1).mem) ∧
      (∀ c', s1.svcCopy e c = some c' → (svcHead d).1 = true → dcOp c = 0 →
        (∀ n, n < dcTotal c' → elemOk s1 e c' 3 n .read ∧ elemOk s1 e c' 8 n .write) →
          completes (exec (.serviceCommand e h) s) fun t => counted s t (addrDrfCnt e 4) fldDrfCnt_COUNT 1 ∧
            t.mem = copied c' s1.mem ∧ (t.drf e).queue = (s.drf e).queue))

/-! ### Ply units, commit groups, and the enables' ends (R283, R295, R299, R300, R440) -/

/-- The control register of a unit. -/
def Sys2Proof.Machine.unitAddr : UnitSel → Nat
  | .link p => addrLnkCtl p
  | .bobbin k => addrBobBctl k
  | .draft e => addrDrfCtl e
  | .ply u => addrPlyCtl u
  | .skein => addrSknCtl
  | .snag => addrSngCtl
  | .hap c => addrHapCtl c

/-- STARTING may end: a link's PLL is locked, a bobbin is valid, the host's clock runs; Snag waits for its audit. -/
def Sys2Proof.Machine.mayStart (s : State) : UnitSel → Prop
  | .link p => s.on addrClkStatus ⟨p / 36, p / 36⟩ = true
  | .bobbin k => s.bobValid k = true
  | .hap _ => s.on addrHapGstat fldHapGstat_HCLKOK = true
  | .snag => False
  | _ => True

/-- STOPPING may end: the unit holds nothing that it has started. -/
def Sys2Proof.Machine.mayStop (s : State) : UnitSel → Prop
  | .link p => s.beenUp p = false
  | .bobbin k => s.bobIdle k = true
  | .draft e => s.drfIdle e = true
  | .ply u => (s.ply u).passes = []
  | .skein => s.sknIdle = true
  | _ => True

/-- R283, R295, R299, R300: a pass that has formed its elements completes; posts whose elements are written are recorded; a group whose
conditions are met flips its buffers, after the lower ones. R440: STARTING ends in ON, or in STOPPING under DSQ; STOPPING ends in OFF, or in STARTING under ENQ.
The model's choices it rests on: log entries 35, 69, 108. -/
def Obligations.PliesAndEnables : Prop :=
  (∀ (s : State) (u : Fin 16) (p : Pass), (s.ply u).passes = [p] → s.plyRun u = 1 → (s.rd (addrPlyDone u)).toNat = p.count →
    let fid := p.w 14 % 65536
    let a := fun (j : Nat) => addrPlyFence u j
    let still := ∀ g, g < 32 → s.armed g = false
    let ended := fun (t : State) => (t.ply u).passes = [] ∧ t.plyRun u = 0 ∧ counted s t (addrPlyCnt u 0) fldPlyCnt_COUNT 1 ∧
      0x0480 + 4 * u.val ∈ t.uev ∧ t.threads = s.threads ∧ (still → t.uev = s.uev ++ [0x0480 + 4 * u.val] ∧ t.mem = s.mem)
    ((p.w 14).testBit 16 = false → completes (exec (.passComplete u) s) ended) ∧
    (∀ j, s.canPost u fid = some j → (p.w 14).testBit 16 = true → completes (exec (.passComplete u) s) fun t => ended t ∧
      (still → t.fld (a j) fldPlyFence_FID = fid ∧ t.fld (a j) fldPlyFence_COUNT = s.fld (a j) fldPlyFence_COUNT + 1)) ∧
    (s.canPost u fid = none → (p.w 14).testBit 16 = true → exec (.passComplete u) s = .next s)) ∧
  (∀ (s : State) (u : Fin 16) (j : Fin 64),
    let a := addrPlyFence u j
    let due := fun (x : Nat × Nat) => x.1 = s.fld a fldPlyFence_FID ∧ ∀ y ∈ (s.ply u).inq, x.2 ≤ y.1
    let n := ((s.ply u).posts.filter fun x => due x).length
    n ≤ s.fld a fldPlyFence_PEND → s.fld a fldPlyFence_COUNT + n ≤ 255 → completes (exec (.fenceRecorded u j) s) fun t =>
      t.fld a fldPlyFence_PEND = s.fld a fldPlyFence_PEND - n ∧ t.fld a fldPlyFence_COUNT = s.fld a fldPlyFence_COUNT + n ∧
        (t.ply u).posts = (s.ply u).posts.filter (fun x => ¬due x) ∧ t.threads = s.threads ∧ t.mem = s.mem) ∧
  (∀ (s : State) (g : Fin 32),
    let a := addrPlyCgctl g
    let due := s.on a fldPlyCgctl_ARMED = true ∧ s.groupMet g = true
    let busy := ∃ b ∈ s.groupBufs g, s.on (addrPlyRbst b) fldPlyRbst_BUSY = true
    (∀ h, h < g.val → s.armed h = false ∨ s.groupMet h = false) →
    (¬due → exec (.groupFlip g) s = .next s) ∧ (due → busy → exec (.groupFlip g) s = .next (s.setFld a fldPlyCgctl_DEFER 1)) ∧
    (due → ¬busy → allDistinct (s.groupBufs g) = true → completes (exec (.groupFlip g) s) fun t =>
      (∀ b ∈ s.groupBufs g, t.flipcnt b = (s.flipcnt b + 1) % 65536 ∧
        t.fld (addrPlyRbst b) fldPlyRbst_FRONT = (s.flipcnt b + 1) % 2) ∧
      t.rd (addrPlyCgcnt g) = s.rd (addrPlyCgcnt g) + 1 ∧ t.on a fldPlyCgctl_DEFER = false ∧
      t.on a fldPlyCgctl_ARMED = s.on a fldPlyCgctl_AUTO ∧ 0x04C0 + g.val ∈ t.uev ∧ t.threads = s.threads ∧
      ∀ c ∈ s.groupConds g, (s.groupConds g).length = 1 → ∀ j, j < 64 → s.fld (addrPlyFence c.1 j) fldPlyFence_FID = c.2.1 →
        (∀ i, i < 64 → i ≠ j → s.fld (addrPlyFence c.1 i) fldPlyFence_FID ≠ c.2.1) →
          t.fld (addrPlyFence c.1 j) fldPlyFence_COUNT = s.fld (addrPlyFence c.1 j) fldPlyFence_COUNT - c.2.2)) ∧
  (∀ (s : State) (u : UnitSel),
    let a := unitAddr u
    (s.unitState a = 1 → mayStart s u → completes (exec (.startingEnd u) s) fun t =>
      t.unitState a = (if s.fld a enDSQ = 1 then 3 else 2) ∧ t.threads = s.threads) ∧
    (s.unitState a ≠ 1 → completes (exec (.startingEnd u) s) fun t => t.unitState a = s.unitState a ∧ t.threads = s.threads) ∧
    (s.unitState a = 3 → mayStop s u → completes (exec (.stoppingEnd u) s) fun t =>
      t.unitState a = if s.fld a enENQ = 1 then 1 else 0) ∧
    (s.unitState a ≠ 3 → completes (exec (.stoppingEnd u) s) fun t => t.unitState a = s.unitState a))


/-! ### Skein contexts (R317 to R330) -/

/-- A skein cell of the operation in progress or the next of a context that is OPEN or ACTIVE, with no reserved field (R322). -/
def Sys2Proof.Machine.skeinFits (s : State) (x : Cell) : Prop :=
  let c := hdrF x 95 88
  (s.sknState c = 1 ∨ s.sknState c = 2) ∧ (hdrF x 87 72 = s.opseq c ∨ hdrF x 87 72 = (s.opseq c + 1) % 65536) ∧
    hdrF x 71 68 < 5 ∧ hdrF x 67 67 = 0 ∧ hdrF x 66 64 < 5 ∧ cTC x = 6 ∧ cE x = false

/-- The partial that a GLOBAL or RELAY cell carries has come before, or is of this group or of one outside the plan. -/
def Sys2Proof.Machine.skeinAgain (s : State) (x : Cell) : Prop :=
  let t := s.skn (hdrF x 95 88)
  let g := hdrF x 11 6
  g = s.devId / 64 ∨ (∀ d ∈ t.members, d / 64 ≠ g) ∨
    ∃ y ∈ t.got, y.opseq = hdrF x 87 72 ∧ (y.sop = 1 ∨ y.sop = 2) ∧ y.orig / 64 = g ∧ y.chunk = hdrF x 22 12

/-- A cell of context `c` that this device sends: operation, hop, origin. -/
def Sys2Proof.Machine.skeinCell (s : State) (z : Cell) (c sop orig : Nat) : Prop :=
  cCT z = 6 ∧ cTC z = 6 ∧ cE z = false ∧ cSRC z = s.devId ∧ hdrF z 95 88 = c ∧ hdrF z 87 72 = s.opseq c ∧ hdrF z 71 68 = sop ∧
    hdrF z 67 67 = 0 ∧ hdrF z 11 0 = orig

/-- One more cell waits at port `q`, and nothing else there. -/
def Sys2Proof.Machine.oneMore (s t : State) (q : Nat) (P : Cell → Prop) : Prop :=
  (t.port q).q.length = (s.port q).q.length + 1 ∧ ((t.port q).q.map (·.cell)).take (s.port q).q.length = (s.port q).q.map (·.cell) ∧
    ∀ z, ((t.port q).q.map (·.cell)).getLast? = some z → P z

/-- R319, R320, R322, R323, R326: cells that arrive for a context are held, relayed, or discarded as stale; the group's partial goes out
when the last contribution has come; an operation completes with every input, fails at its time, and a MARKER makes a device record. A
context whose fence cannot be taken waits (R296). The model's choices it rests on: log entries 37 to 39, 103. -/
def Obligations.Skeins : Prop :=
  (∀ (s : State) (p : Nat) (x : Cell) (r : List (Nat × Cell)), s.sknIn = (p, x) :: r →
    let c := hdrF x 95 88
    let sop := hdrF x 71 68
    let k := hdrF x 87 72
    let t0 := s.skn c
    let own := s.devId / 64
    let stale := fun (t : State) => t.sknIn = r ∧ t.on addrSknStatus fldSknStatus_STALE = true ∧
      counted s t (addrSknCnt 1) fldSknCnt_COUNT 1 ∧ t.skns = s.skns ∧ t.ports = s.ports ∧ t.threads = s.threads ∧ t.mem = s.mem
    (sop = 3 → exec .skeinCellReceived s = .next s) ∧
    (sop ≠ 3 → ¬skeinFits s x → completes (exec .skeinCellReceived s) stale) ∧
    (sop = 1 ∨ sop = 2 → skeinAgain s x → completes (exec .skeinCellReceived s) stale) ∧
    (sop = 0 → skeinFits s x → s.sknState c = 1 → k ≠ s.opseq c ∨ t0.begun = false →
      exec .skeinCellReceived s = .next ({ s with sknIn := r }.modSkn c fun t => { t with got := t.got ++ [skCellOf x] })) ∧
    (∀ d ∈ t0.members, ∀ q, s.portTo d 0 = some q → sop = 1 → skeinFits s x → ¬skeinAgain s x → s.sknState c = 2 → k = s.opseq c →
      t0.op = 1 → t0.begun = true → t0.ends.isSome = true ∨ s.memberPays c d = none → t0.relay (hdrF x 11 6) = true → d ≠ s.devId → d / 64 = own →
      (∀ e ∈ t0.members, e / 64 = own → e = s.devId ∨ e = d) → t0.members.Nodup → d < 4096 →
        completes (exec .skeinCellReceived s) fun t => t.sknIn = r ∧ t.threads = s.threads ∧
          (t.skn c).got = t0.got ++ [skCellOf x] ∧ (t.skn c).queued = t0.queued + 1 ∧ (t.skn c).held = t0.held - 1 ∧
          oneMore s t q (fun z => skeinCell s z c 2 (hdrF x 11 0) ∧ hdrF z 22 12 = hdrF x 22 12 ∧ hdrF z 66 64 = hdrF x 66 64 ∧
            (z.pay = x.pay ∨ (x.pay.length ≠ 64 ∧ x.pay.length ≠ 256))) ∧
          (t0.held = 0 → s.lgrSet 0 ≠ none → (∀ y, s.lgrSet t0.pool = some y → cleanAt s y 16) → 1 ≤ s.ctr t0.pool .free →
            s.ctr t0.pool .held + 1 < 2 ^ 32 → tookCredits s t t0.pool 1)) ∧
    (∀ q ∈ s.outs t0, (s.outs t0).length = 1 → sop = 0 → skeinFits s x → s.sknState c = 2 → k = s.opseq c → t0.op = 1 → t0.begun = true → t0.own = [] → t0.ends = none →
      t0.pays = false → t0.got = [] → hdrF x 22 12 = 0 → x.pay.length ≤ 64 → (∀ b ∈ x.pay, b = 0) → hdrF x 11 0 ≠ s.devId →
      (∀ d ∈ t0.members, d / 64 = own → d = s.devId ∨ d = hdrF x 11 0) →
        completes (exec .skeinCellReceived s) fun t => t.threads = s.threads ∧ (t.skn c).own = [{ opseq := k, sop := 1, chunk := 0, orig := own * 64, form := 0, pay := [] }] ∧
          oneMore s t q (fun z => skeinCell s z c 1 (64 * own) ∧ (∀ b ∈ z.pay, b = 0)))) ∧
  (∀ (s : State) (c : Fin 256), let t0 := s.skn c
    let own := s.devId / 64
    let ready := s.sknState c = 2 ∧ t0.op = 1 ∧ t0.begun = true ∧ t0.ends = none
    let room := t0.cu = 255 ∨ (s.canPost t0.cu t0.fid).isSome = true
    let told := fun (t : State) => 0x0500 + c.val ∈ t.uev ∧ (t.rd (addrTrdPlat 5)).toNat.testBit t0.prod = true ∧ t.threads = s.threads
    let ended := fun (t : State) => t.sknState c = 1 ∧ t.opseq c = (s.opseq c + 1) % 65536 ∧ counted s t (addrSknCnt 0) fldSknCnt_COUNT 1 ∧
      told t
    (s.sknState c ≠ 2 → exec (.skeinComplete c) s = .next s) ∧
    (ready → t0.refused = false → (∃ d ∈ t0.members, d < 4096 ∧ d / 64 ≠ own ∧ ∀ y ∈ t0.got, y.orig / 64 ≠ d / 64) →
      exec (.skeinComplete c) s = .next (s.sknGo c)) ∧
    (ready → t0.refused = true → room → completes (exec (.skeinComplete c) s) fun t => t.sknState c = 3 ∧
      t.opseq c = s.opseq c ∧ told t) ∧
    (∀ y, ready → t0.refused = false → t0.own = [y] → y.chunk = 0 → y.pay = [] → (∀ d ∈ t0.group own, s.memberPays c d = some false) →
      t0.groups = [own] → t0.cu = 255 → completes (exec (.skeinComplete c) s) ended) ∧
    (∀ y, ready → t0.refused = false → t0.own = [y] → y.chunk = 0 → y.form = 0 → t0.groups = [own] → t0.cu < 16 → t0.fmt = 0 →
      t0.func < 3 → t0.form = 0 → y.pay.length = t0.vlen + 1 → (t0.vlen + 1) % 4 = 0 → t0.vlen < 256 →
      t0.vlen < s.fld (addrPlyRbsz t0.rbuf) fldPlyRbsz_SIZE →
      s.plyMay t0.cu t0.z false .write (s.backHalf t0.rbuf) (t0.vlen + 1) = true → cleanAt s (s.backHalf t0.rbuf) (t0.vlen + 1) →
      s.bobHeld t0.evb = false → s.lgrSet 0 = none → (s.canPost t0.cu t0.fid).isSome = true →
        completes (exec (.skeinComplete c) s) fun t => ended t ∧ bytesAt t (s.backHalf t0.rbuf) (t0.vlen + 1) = y.pay)) ∧
  (∀ (s : State) (c : Fin 256), let t0 := s.skn c
    let due := s.sknState c = 2 ∧ t0.ends = none ∧ t0.tmo ≠ 0 ∧ t0.start + 1000 * t0.tmo ≤ s.tb64
    (¬due → exec (.skeinTimeout c) s = .next s) ∧
    (due → s.sknWaits c = false → completes (exec (.skeinTimeout c) s) fun t => t.sknState c = 3 ∧ t.opseq c = s.opseq c ∧
      counted s t (addrSknCnt 2) fldSknCnt_COUNT 1 ∧ 0x0500 + c.val ∈ t.uev ∧ t.threads = s.threads) ∧
    (due → s.sknWaits c = true → completes (exec (.skeinTimeout c) s) fun t => (t.skn c).ends = some 1 ∧ t.sknState c = 2 ∧
      counted s t (addrSknCnt 2) fldSknCnt_COUNT 1 ∧ t.uev = s.uev ∧ t.threads = s.threads ∧ t.mem = s.mem)) ∧
  (∀ (s : State) (p : PortNo) (i : Nat) (x : Cell) (r : List (Nat × Cell)) (q j : Nat), s.sknIn = (i, x) :: r →
    let c := hdrF x 95 88
    let b := s.fld addrSknSnapbase fldSknSnapbase_BASE * 65536
    let t0 := s.skn c
    (i ≠ p.val ∨ hdrF x 71 68 ≠ 3 → exec (.markerReceived p) s = .next s) ∧
    (i = p.val → hdrF x 71 68 = 3 → ¬skeinFits s x → completes (exec (.markerReceived p) s) fun t => t.sknIn = r ∧ t.skns = s.skns ∧
      t.on addrSknStatus fldSknStatus_STALE = true ∧ counted s t (addrSknCnt 1) fldSknCnt_COUNT 1 ∧ t.threads = s.threads ∧ t.mem = s.mem) ∧
    (i = p.val → hdrF x 71 68 = 3 → skeinFits s x → s.sknState c = 1 → t0.op ≠ 2 → s.lstate q = 3 → q < 144 → q ≠ p.val →
      (∀ a, s.lgrSet 0 = some a → a + 88064 ≤ b ∨ b + 131072 ≤ a) →
        completes (exec (.markerReceived p) s) fun t => t.sknIn = r ∧ t.threads = s.threads ∧ t.sknState c = 2 ∧
          t.on (addrSknCst c) fldSknCst_SNAPREC = true ∧ (t.skn c).op = 2 ∧ (t.skn c).marks = [p.val] ∧
          oneMore s t q (fun z => skeinCell s z c 3 s.devId) ∧
          (cleanAt s b 20 → wordAt t b = s.devId ∧ wordAt t (b + 4) = s.opseq c) ∧
          (j < 7 → cleanAt s (b + 0x16000 + 64 * p.val + 8 * j) 4 → wordAt t (b + 0x16000 + 64 * p.val + 8 * j) =
            (nth 0 (s.port p).ccnt j + nth 0 (s.port p).rxHeld j) % 2 ^ 24) ∧
          (∀ a, s.lgrSet 0 = some a → j < 88064 → cleanAt s (a + j) 1 → memByte t.mem (b + 0x100 + j) = memByte s.mem (a + j))))


/-! ### Fabric time and the tensioner (R306 to R316, R335 to R345, R354, R475) -/

/-- An armed action whose time has come. -/
def Sys2Proof.Machine.actionDue (s : State) (j : Nat) : Prop :=
  s.on (addrSknScha j) fldSknScha_EN = true ∧
    (s.rd (addrSknSchlo j)).toNat + (s.rd (addrSknSchhi j)).toNat * 2 ^ 32 ≤
      (if s.fld (addrSknScha j) fldSknScha_ACT = 1 then s.tb / 2 ^ 40 else s.tb64) ∧
    (s.asleep = false ∨ s.fld (addrSknScha j) fldSknScha_ACT = 1)

/-- R306, R307: an RCLK edge adds INC, an active slew and a step. R315: an action that is due fires once. R310: TSINFO cells go and come.
R335 to R345: a lane's block, swap, revert, probation, transmit swap, due recalibration, and the ageing counts. The model's choices it
rests on: log entries 40, 41. -/
def Obligations.TimeAndTensioner : Prop :=
  (∀ s : State,
    let inc := (s.incNew.getD s.inc : Int)
    let n := s.fld addrSknSlewn fldSknSlewn_N
    let slew := if n = 0 then 0 else s.slew * 256
    let step := (s.stepNew.getD 0 : Int)
    let k := s.capWait.getD 0 0
    let st := addrTrdCapst k
    (s.started = false → exec .rclkEdge s = .next s) ∧
    (s.started = true → completes (exec .rclkEdge s) fun t =>
      (t.tb : Int) = ((s.tb : Int) + inc + slew + step) % 2 ^ 104 ∧ t.shadow = (if s.asleep then s.shadow else t.tb) ∧ (t.inc : Int) = inc ∧ t.incNew = none ∧
      t.stepNew = none ∧ t.fld addrSknSlewn fldSknSlewn_N = n - 1 ∧ t.rclk = s.rclk + 1 ∧
      (s.stepNew.isSome = true → t.on addrSknStatus fldSknStatus_STEPPED = true) ∧ t.mem = s.mem ∧ t.ports = s.ports ∧
      (s.recov = none → t.capWait = [] ∧ t.threads = s.threads ∧ (s.capWait.length = 1 → k < 16 →
        (s.on st fldTrdCapst_VALID = false → t.on st fldTrdCapst_VALID = true ∧
          (t.rd (addrTrdCap k 0)).toNat = t.tb / 2 ^ 24 % 2 ^ 32 ∧ (t.rd (addrTrdCap k 1)).toNat = t.tb / 2 ^ 56 % 2 ^ 32) ∧
        (s.on st fldTrdCapst_VALID = true → t.on st fldTrdCapst_OVF = true ∧ t.rd (addrTrdCap k 0) = s.rd (addrTrdCap k 0) ∧
          t.rd (addrTrdCap k 1) = s.rd (addrTrdCap k 1)))))) ∧
  (∀ (s : State) (j : Fin 32), let a := addrSknScha j
    let act := s.fld a fldSknScha_ACT
    let arg := s.fld a fldSknScha_ARG
    let first := actionDue s j ∧ ∀ i, i < j.val → ¬actionDue s i
    let fired := fun (t : State) => t.on a fldSknScha_EN = false ∧ t.threads = s.threads ∧
      (j.val ∈ s.schLate → t.on a fldSknScha_LATE = true ∧ t.on addrSknStatus fldSknStatus_LATE = true)
    (¬first → exec (.scheduledAction j) s = .next s) ∧
    (first → act = 1 → arg < 32 → completes (exec (.scheduledAction j) s) fun t => fired t ∧
      (t.rd (addrTrdPlat 4)).toNat.testBit arg = true ∧ t.mem = s.mem) ∧
    (first → act = 2 → completes (exec (.scheduledAction j) s) fun t => fired t ∧ t.uev = s.uev ++ [0x0620 + j.val] ∧ t.mem = s.mem) ∧
    (first → act = 3 → arg < 256 → s.sknState arg ≠ 0 → s.sknState arg ≠ 2 ∨ s.sknWaits arg = false → completes (exec (.scheduledAction j) s) fun t => fired t ∧
      t.sknState arg = 1 ∧ t.opseq arg = (s.opseq arg + 0x8000) % 65536 ∧ (t.skn arg).got = [] ∧
      (t.skn arg).held = 0 ∧ (t.skn arg).flying = 0) ∧
    (first → act = 3 → arg < 256 → s.sknState arg = 0 → completes (exec (.scheduledAction j) s) fun t => fired t ∧
      t.skns = s.skns ∧ t.mem = s.mem) ∧
    (first → act = 4 → arg < 256 → s.unitState addrSknCtl = 2 → s.sknState arg = 1 →
      s.sknCells (s.skn arg) 2 false ≤ s.ctr (s.skn arg).pool .free → completes (exec (.scheduledAction j) s) fun t => fired t ∧
        t.sknState arg = 2 ∧ t.on (addrSknCst arg) fldSknCst_SNAPREC = true ∧ (t.skn arg).op = 2)) ∧
  (∀ (s : State) (p : PortNo),
    let due := s.on addrSknTcfg fldSknTcfg_TSEN = true ∧ s.lstate p = 3 ∧ s.fld addrSknTcfg fldSknTcfg_PERIOD ≤ (s.port p).tsCount
    let stamp := fun (i k : Nat) => (s.rd (addrSknTsh p i k)).toNat
    let tx := ((s.port p).txStampN + 7) % 8
    let rx := 8 + ((s.port p).rxStampN + 7) % 8
    let f := s.fld addrSknTstat
    (¬due → exec (.tsinfoSend p) s = .next s) ∧
    (due → completes (exec (.tsinfoSend p) s) fun t => t.regs = s.regs ∧ t.mem = s.mem ∧ t.threads = s.threads ∧
      t.port p = { s.port p with tsCount := 0, ctlq := (s.port p).ctlq ++ [{ sub := 0x20, body :=
        [stamp tx 0, stamp tx 2, stamp tx 3, stamp rx 0, stamp rx 2, stamp rx 3].flatMap (bytesLE 4) ++
        [f fldSknTstat_SYNCED + 2 * s.fld addrSknTcfg fldSknTcfg_ROOT + 4 * f fldSknTstat_HOLD + 8 * f fldSknTstat_STRATUM,
         s.fld addrSknTqual fldSknTqual_QUAL, (s.port p).txStampHi, f fldSknTstat_ROOTID].flatMap (bytesLE 2) }] })) ∧
  (∀ (s : State) (p : PortNo) (c : Cell), verified s p c → ctlWellFormed c = true → cCT c = 5 → cSUB c = 0x20 →
    let news := fun (t : State) => 0x0600 ∈ t.uev ∧ t.threads = s.threads ∧ (t.rd (addrSknTsnew (p / 32))).toNat.testBit (p % 32) = true ∧
      ∀ k, k < 8 → (t.rd (addrSknTsin p k)).toNat = pWord c (32 + 4 * k)
    (s.beenUp p = false → completes (exec (.tsinfoReceived p c .current) s) fun t => news t ∧ t.mem = s.mem) ∧
    (s.lstate p = 3 → cLACK c = s.txAck p → (∀ tc, tc < 7 → pWord c (4 * tc) % 2 ^ 24 = s.fld (addrLnkCrrx p tc) fldLnkCrrx_CCNT) →
      completes (exec (.tsinfoReceived p c .current) s) news)) ∧
  (∀ (s : State) (p : PortNo) (a b : Word) (g : List Word), let w := s.lnkOn p fldLnkState_CWLOCK
    (w = false → exec (.gradientBlock p a b g) s = .next s) ∧
    (w = true → completes (exec (.gradientBlock p a b g) s) fun t => t.rd (addrTnsMse p) = b ∧
      t.rd (addrTnsSmm p) = (if s.on (addrTnsCtl p) fldTnsCtl_SHEN = true ∧ ((List.range 8).all fun k => s.written (addrTnsShd p k)) = true then a else 0) ∧
      (∀ k, k < 8 → t.rd (addrTnsGrad p k) = nth 0 g k) ∧
      t.fld (addrTnsGseq p) fldTnsGseq_SEQ = (s.fld (addrTnsGseq p) fldTnsGseq_SEQ + 1) % 2 ^ fldTnsGseq_SEQ.width ∧
      t.uev = s.uev ++ [0x0700 + 4 * p.val] ∧ t.threads = s.threads ∧ t.mem = s.mem)) ∧
  (∀ (s : State) (p : PortNo), let st := addrTnsSt p
    let due := s.tns p fldTnsSt_SWPEND = true ∧ s.tns p fldTnsSt_PROB = false ∧ s.lnkOn p fldLnkState_CWLOCK = true
    (¬due → exec (.tnsSwap p) s = .next s) ∧
    (due → completes (exec (.tnsSwap p) s) fun t =>
      (∀ k, k < 8 → t.rd (addrTnsMain p k) = (if s.written (addrTnsPend p k) then s.rd (addrTnsPend p k) else s.rd (addrTnsMain p k)) ∧
        t.rd (addrTnsPrev p k) = s.rd (addrTnsMain p k)) ∧ t.on st fldTnsSt_SWPEND = false ∧
      (isOn (tget (fun _ => 0) s.swNow (addrTnsCtl p)) fldTnsCtl_SWAP = false → t.on (addrTnsCtl p) fldTnsCtl_SWAP = false) ∧ t.on st fldTnsSt_SWAPPED = true ∧
      t.on st fldTnsSt_PROB = true ∧ t.on st fldTnsSt_PVALID = true ∧ t.on st fldTnsSt_DUE = false ∧ t.agec p = 0 ∧
      (t.port p).probLeft = 2 ^ s.fld (addrTnsCtl p) fldTnsCtl_PROBW ∧ t.uev = s.uev ++ [0x0700 + 4 * p.val + 1] ∧
      t.threads = s.threads ∧ t.mem = s.mem)) ∧
  (∀ (s : State) (p : PortNo), let st := addrTnsSt p
    let prob := s.tns p fldTnsSt_PROB
    let t0 := s.port p
    (t0.revReq = false → prob = false ∨ t0.trigger = false → exec (.revert p) s = .next s) ∧
    (prob = true → t0.trigger = true ∨ t0.revReq = true → completes (exec (.revert p) s) fun t =>
      (∀ k, k < 8 → t.rd (addrTnsMain p k) = s.rd (addrTnsPrev p k)) ∧ t.on st fldTnsSt_PROB = false ∧
      t.on st fldTnsSt_SWPEND = false ∧ t.on st fldTnsSt_REVERTED = (t0.trigger || s.on st fldTnsSt_REVERTED) ∧
      t.uev = s.uev ++ [0x0700 + 4 * p.val + 2] ∧ t.threads = s.threads ∧ t.mem = s.mem) ∧
    (prob = false → t0.revReq = true → completes (exec (.revert p) s) fun t =>
      (∀ k, k < 8 → t.rd (addrTnsMain p k) = s.rd (addrTnsPrev p k) ∧ t.rd (addrTnsPrev p k) = s.rd (addrTnsMain p k)) ∧
      t.rd st = s.rd st ∧ t.uev = s.uev ∧ t.threads = s.threads ∧ t.mem = s.mem)) ∧
  (∀ (s : State) (p : PortNo), let st := addrTnsSt p
    let ended := s.tns p fldTnsSt_PROB = true ∧ (s.port p).probLeft = 0 ∧ (s.port p).trigger = false
    let due := s.fld (addrTnsDuet p) fldTnsDuet_SEC ≤ s.agec p ∧ s.tns p fldTnsSt_DUE = false
    (¬ended → exec (.probationEnd p) s = .next s) ∧ (ended → exec (.probationEnd p) s = .next (s.setFld st fldTnsSt_PROB 0)) ∧
    (s.tns p fldTnsSt_TXPEND = false → exec (.txEqSwap p) s = .next s) ∧
    (s.tns p fldTnsSt_TXPEND = true → completes (exec (.txEqSwap p) s) fun t => t.rd (addrTnsTxa p) = s.rd (addrTnsTxp p) ∧
      t.on st fldTnsSt_TXPEND = false ∧
      (isOn (tget (fun _ => 0) s.swNow (addrTnsCtl p)) fldTnsCtl_TXSWAP = false → t.on (addrTnsCtl p) fldTnsCtl_TXSWAP = false) ∧ t.threads = s.threads ∧ t.mem = s.mem) ∧
    (¬due → exec (.recalDue p) s = .next s) ∧
    (due → completes (exec (.recalDue p) s) fun t => t.on st fldTnsSt_DUE = true ∧ t.uev = s.uev ++ [0x0700 + 4 * p.val + 3] ∧
      t.threads = s.threads ∧ t.mem = s.mem)) ∧
  (∀ (s : State) (x y : List Word), let w := s.on addrTnsAgectl fldTnsAgectl_BUSY
    (w = false → exec (.ageingDone x y) s = .next s) ∧
    (w = true → completes (exec (.ageingDone x y) s) fun t => t.on addrTnsAgectl fldTnsAgectl_BUSY = false ∧ t.threads = s.threads ∧
      t.mem = s.mem ∧ ∀ i, i < 64 →
        t.fld (addrTnsRostr i) fldTnsRostr_COUNT = (nth 0 x i).toNat % 2 ^ fldTnsRostr_COUNT.width ∧
        t.fld (addrTnsRoref i) fldTnsRoref_COUNT = (nth 0 y i).toNat % 2 ^ fldTnsRoref_COUNT.width))


/-! ### The treadle network and the pins (R352 to R376) -/

/-- What the always-on domain holds of TRD_CCFG of a consumer. -/
def Sys2Proof.Machine.colFld (s : State) (c : Nat) (b : Bits) : Nat := getF (s.capt (addrTrdCcfg c)) b

/-- An event at a consumer's input passes the group, CON and the gate. -/
def Sys2Proof.Machine.passesGate (s : State) (c : Nat) : Prop :=
  getF (s.capt (addrTrdGctl (c / 8))) fldTrdGctl_GON = 1 ∧ colFld s c fldTrdCcfg_CON = 1 ∧
    (colFld s c fldTrdCcfg_GEN = 1 → s.prodLevel (colFld s c fldTrdCcfg_GATE) ≠ decide (colFld s c fldTrdCcfg_GINV = 1))

/-- The pulse of producer `p` is on its way to every consumer that the matrix joins to it. -/
def Sys2Proof.Machine.pulsed (s t : State) (p : Nat) : Prop :=
  ∀ c, c < 256 → (s.capt (addrTrdMat c (p / 32))).toNat.testBit (p % 32) = true → c ∈ t.pulses

/-- R358 to R362: an event at a consumer is discarded, trips the storm detector, or is held. R354, R358: a held event is delivered when the
holdoff is over and the target is ready. R364: captured configuration takes force. -/
def Sys2Proof.Machine.partTreadleEvents : Prop :=
  (∀ (s : State) (c : Fin 256), let u := { s with pulses := s.pulses.erase c.val }
    let k := (if (s.tcon c).win = s.stormWindow then (s.tcon c).storm else 0) + 1
    let st := addrTrdCst c
    let lim := colFld s c fldTrdCcfg_SLIM
    let mode := colFld s c fldTrdCcfg_MODE
    (c.val ∉ s.pulses → exec (.treadleEvent c) s = .next s) ∧
    (c.val ∈ s.pulses → ¬passesGate s c → exec (.treadleEvent c) s = .next u) ∧
    (c.val ∈ s.pulses → passesGate s c → lim < k → completes (exec (.treadleEvent c) s) fun t =>
      t.on (addrTrdCcfg c) fldTrdCcfg_CON = false ∧ t.on st fldTrdCst_PEND = false ∧ t.fld st fldTrdCst_CNT = 0 ∧
      t.on st fldTrdCst_STORM = true ∧ t.on addrTrdStatus fldTrdStatus_STORM = true ∧ t.uev = s.uev ++ [0x0940] ∧
      (t.rd (addrTrdPlat 14)).toNat.testBit 3 = true ∧ t.threads = s.threads ∧ t.mem = s.mem) ∧
    (c.val ∈ s.pulses → passesGate s c → k ≤ lim → completes (exec (.treadleEvent c) s) fun t =>
      t.pulses = u.pulses ∧ (t.tcon c).storm = k ∧ (t.tcon c).win = s.stormWindow ∧ t.threads = s.threads ∧ t.mem = s.mem ∧
      t.uev = s.uev ∧ (mode = 0 → t.on st fldTrdCst_PEND = true ∧ t.fld st fldTrdCst_CNT = s.fld st fldTrdCst_CNT) ∧
      (mode = 1 → t.fld st fldTrdCst_PEND = s.fld st fldTrdCst_PEND ∧ t.fld st fldTrdCst_CNT = min (s.fld st fldTrdCst_CNT + 1) 15 ∧
        (s.fld st fldTrdCst_CNT = 15 → t.on st fldTrdCst_OVF = true)))) ∧
  (∀ (s : State) (c : Fin 256) (g : Fin 32) (j : Fin 27), let st := addrTrdCst c
    let n := s.fld st fldTrdCst_CNT
    let held := s.on st fldTrdCst_PEND = true ∨ n ≠ 0
    let counting := colFld s c fldTrdCcfg_MODE = 1
    let awake := s.asleep = false
    let free := (s.tcon c).until_ ≤ s.aonTime
    let taken := fun (t : State) => t.fld st fldTrdCst_CNT = n - 1 ∧ (n = 0 → t.on st fldTrdCst_PEND = false)
    let late := fun (t : State) => (t.tcon c).until_ = s.aonTime + 8 * 2 ^ 40 ∧ t.mem = s.mem
    (¬held ∨ ¬free → exec (.treadleEmit c) s = .next s) ∧
    (c.val < 168 → ¬awake → exec (.treadleEmit c) s = .next s) ∧
    (188 ≤ c.val → c.val < 192 → exec (.treadleEmit c) s = .next s) ∧
    (c.val < 160 → counting → (s.tcon c).ackDue = true → exec (.treadleEmit c) s = .next s) ∧
    (c.val < 160 → awake → held → free → ¬counting ∨ (s.tcon c).ackDue = false → completes (exec (.treadleEmit c) s) fun t =>
      taken t ∧ late t ∧ (counting → (t.tcon c).ackDue = true) ∧
      (let w := addrWhlEvsrc (c.val / 4) g (j.val + 1)
       let i := 32 * (c.val / 4) + g.val
       (s.fld w fldWhlEvsrc_CLASS = 6 → s.fld w fldWhlEvsrc_INDEX = c.val →
         (t.thr i).ev.toNat.testBit (j.val + 1) = true) ∧ (t.thr i).pc = (s.thr i).pc)) ∧
    (160 ≤ c.val → c.val < 168 → awake → held → free → (s.tcon c).given = false → completes (exec (.treadleEmit c) s) fun t =>
      late t ∧ (t.tcon c).given = true ∧ t.regs = s.regs ∧ t.threads = s.threads) ∧
    (168 ≤ c.val → c.val < 184 → held → free → completes (exec (.treadleEmit c) s) fun t =>
      taken t ∧ late t ∧ t.capWait = s.capWait ++ [c.val - 168] ∧ t.threads = s.threads) ∧
    (184 ≤ c.val → c.val < 188 → held → free → completes (exec (.treadleEmit c) s) fun t => taken t ∧ late t ∧ t.threads = s.threads ∧
      (¬awake → (s.fld addrPwrWake fldPwrWake_EN).testBit (c.val - 184) = true →
        (t.fld addrPwrWake fldPwrWake_SEEN).testBit (c.val - 184) = true)) ∧
    (192 ≤ c.val → held → free → completes (exec (.treadleEmit c) s) fun t => taken t ∧ late t ∧ t.threads = s.threads)) ∧
  (∀ s : State, completes (exec .configCapture s) fun t => (∀ c, c < 256 → t.capt (addrTrdCcfg c) = s.rd (addrTrdCcfg c)) ∧
    (∀ g, g < 32 → t.capt (addrTrdGctl g) = s.rd (addrTrdGctl g)) ∧ t.regs = s.regs ∧ t.threads = s.threads ∧ t.mem = s.mem) ∧
  (∀ (s : State) (v : Bool), completes (exec (.sleepRequest v) s) fun t => t.sleepIn = v ∧ t.threads = s.threads ∧ t.mem = s.mem ∧
    (v = true → s.sleepIn = false → pulsed s t 453) ∧ (v = false ∨ s.sleepIn = true → t = { s with sleepIn := v }))

/-- A pin's PIN_OUT bit. -/
def Sys2Proof.Machine.outBit (s : State) (i : Nat) : Bool := (s.rd (addrPinOut (i / 32))).toNat.testBit (i % 32)

/-- The level of PI signal `k` is the same in both states, or its change is one that EDGE does not choose, or its producer has fired. -/
def Sys2Proof.Machine.edgesTold (s t : State) : Prop :=
  ∀ k, k < 64 → s.inSignal none k = t.inSignal none k ∨ s.edgeChosen k (t.inSignal none k) = false ∨ pulsed s t (64 + k)

/-- R366, R368, R370 to R376: what happens at the pins, their banks and the signals of the crossbar; R374, R475: timed edges; R375: captures. -/
def Sys2Proof.Machine.partPins : Prop :=
  (∀ (s : State) (i : Fin 96) (v : Option Bool), completes (exec (.pinEdge i v) s) fun t => (t.pin i).ext = v ∧ edgesTold s t ∧
    (∀ j, j < 96 → outBit t j = outBit s j ∧ (j ≠ i.val → (t.pin j).ext = (s.pin j).ext)) ∧ t.threads = s.threads ∧ t.mem = s.mem ∧
    (s.bankGood i = true → s.fld (addrPinCfg i) fldPinCfg_MODE = 0 → ∀ b, v = some b → t.pinIn none i = b)) ∧
  (∀ (s : State) (k : Fin 6) (good : Bool), completes (exec (.bankPower k good) s) fun t =>
    t.on (addrPinBank k) fldPinBank_PG = good ∧ edgesTold s t ∧ t.threads = s.threads ∧ t.mem = s.mem ∧
    (∀ j, j < 96 → outBit t j = outBit s j ∧ (j / 16 = k.val → good = false → t.pinIn none j = false ∧ t.pinDrive none j = none))) ∧
  (∀ (s : State) (k : Fin 64) (v : Bool), completes (exec (.lxSignalChange k v) s) fun t => edgesTold s t ∧
    t.threads = s.threads ∧ t.mem = s.mem ∧ t.outSignal none (128 + k.val) = v ∧
    ∀ j, j < 96 → outBit t j = outBit s j ∧ (s.bankGood j = true → s.fld (addrPinCfg j) fldPinCfg_MODE = 1 →
      s.on (addrPinCfg j) fldPinCfg_SRC = true → s.fld (addrPinCfg j) fldPinCfg_OSEL = 128 + k.val → t.pinDrive none j = some v)) ∧
  (∀ (s : State) (i : Fin 16), let es := (s.pin i).edges
    let ends := s.aonEnd / 2 ^ 24 % 2 ^ 64
    let due := fun (e : TEdge) => e.late = true ∨ 2 ^ 63 ≤ (e.time + 2 ^ 64 - ends) % 2 ^ 64
    (es = [] → exec (.timedEdge i) s = .next s) ∧
    (∀ e ∈ es.head?, ¬due e → exec (.timedEdge i) s = .next s) ∧
    (∀ e ∈ es.head?, due e → completes (exec (.timedEdge i) s) fun t => outBit t i = e.level ∧ (t.pin i).edges = es.drop 1 ∧
      (∀ j, j < 96 → j ≠ i.val → outBit t j = outBit s j) ∧ edgesTold s t ∧ t.mem = s.mem ∧
      t.fld (addrPinTqst i) fldPinTqst_QCNT = (es.length - 1) % 2 ^ fldPinTqst_QCNT.width ∧
      (e.late = true → t.on (addrPinTqst i) fldPinTqst_LATE = true) ∧
      ∀ x ∈ s.threads, (t.thr x.1).pc = (s.thr x.1).pc ∧
        ((s.thr x.1).state = .waiting → (s.thr x.1).wait = .pinQueue i.val → (t.thr x.1).state = .ready))) ∧
  (∀ (s : State) (i : Fin 16) (up : Bool), let c := s.fld (addrPinTctl i) fldPinTctl_CAPE
    let sel := (c = 1 ∧ up = true) ∨ (c = 2 ∧ up = false) ∨ c = 3
    let a := addrPinTqst i
    let now := s.instant.2 / 2 ^ 24 % 2 ^ 64
    let told := fun (t : State) => t.threads = s.threads ∧ t.mem = s.mem ∧
      t.uev = s.uev ++ (if s.on (addrPinTctl i) fldPinTctl_CIE then [0x0B00 + i.val] else [])
    (¬sel → exec (.pinCapture i up) s = .next s) ∧
    (sel → s.on a fldPinTqst_CVALID = false → completes (exec (.pinCapture i up) s) fun t => told t ∧
      t.on a fldPinTqst_CVALID = true ∧ (t.rd (addrPinTcap i 0)).toNat = now / 2 ^ 14 * 2 ^ 14 % 2 ^ 32 ∧
      (t.rd (addrPinTcap i 1)).toNat = now / 2 ^ 32) ∧
    (sel → s.on a fldPinTqst_CVALID = true → completes (exec (.pinCapture i up) s) fun t => told t ∧
      t.on a fldPinTqst_COVF = true ∧ t.rd (addrPinTcap i 0) = s.rd (addrPinTcap i 0)))

/-- R354, R358 to R362, R364: an event at a consumer is discarded, trips the storm detector, is held or delivered. R366 to R376: what
happens at the pins and the signals of the crossbar. The model's choices it rests on: log entries 42, 43. -/
def Obligations.TreadleAndPins : Prop := partTreadleEvents ∧ partPins



/-! ### The security engine (R382, R383, R391, R393, R397, R398, R401, R402, R454) -/

/-- The command of an operation code. -/
def Sys2Proof.Machine.secCmd (k : Nat) : Instr :=
  match k with
  | 1 => .hash | 2 => .random | 3 => .pubid | 4 => .signId | 5 => .verify | 6 => .kemgen | 7 => .encap | 8 => .decap
  | 9 => .deriveLink | 10 => .hmac | 11 => .openSession | 12 => .unwrapSlot | 13 => .erase | 14 => .auditAppend | 15 => .attestOp
  | _ => .grantRole

/-- The engine may read and write the block at `k` of whorl `n`, and it holds no error. -/
def Sys2Proof.Machine.blockOk (s : State) (n k : Nat) : Prop :=
  s.secMay n .read k 64 = true ∧ s.secMay n .write k 4 = true ∧ s.secMay n .write (k + 12) 4 = true ∧ cleanAt s k 64

/-- Two areas have no byte in common. -/
def Sys2Proof.Machine.apart (a n b m : Nat) : Prop := a + n ≤ b ∨ b + m ≤ a

/-- IN of `i` bytes is readable and OUT of `o` bytes writable, both without errors, OUT apart from the block. -/
def Sys2Proof.Machine.areasOk (s : State) (n k i o : Nat) : Prop :=
  let ia := wordAt s (k + 20)
  let oa := wordAt s (k + 28)
  wordAt s (k + 24) = i ∧ wordAt s (k + 32) = o ∧ (i = 0 ∨ (s.secMay n .read ia i = true ∧ cleanAt s ia i)) ∧
    (o = 0 ∨ (s.secMay n .write oa o = true ∧ cleanAt s oa o ∧ apart oa o k 64))

/-- The operation of whorl `n` at `k` has ended with a status. -/
def Sys2Proof.Machine.opEnded (s t : State) (n k st : Nat) : Prop :=
  memByte t.mem (k + 3) = BitVec.ofNat 8 st ∧ 0x0C00 + n ∈ t.uev ∧ t.secLast = n ∧ t.threads = s.threads ∧
    tget (fun _ => []) t.secq n = (tget (fun _ => []) s.secq n).drop 1

/-- The lowest handle that holds nothing. -/
def Sys2Proof.Machine.freeHandle (s : State) (h : Nat) : Prop := h < 256 ∧ s.secret h = none ∧ ∀ i, i < h → s.secret i ≠ none

/-- R382, R383: the head block of the rotation is performed by the command of its OP: STATUS in its word 0, the event of its whorl, its
output; a reserved OP ends with 5, one that a link whorl may not use with 6, a bad handle with 2. The model's choices it rests on: log
entries 5, 11, 46 to 48. -/
def Obligations.SecurityEngine : Prop :=
  (∀ (s : State) (k : Nat), s.secNext = none → exec (secCmd k) s = .next s) ∧
  (∀ (s : State) (j : Nat), ∀ n, s.secNext = some n →
    let k := nth 0 (tget (fun _ => []) s.secq n) 0
    let w := fun (i : Nat) => wordAt s (k + 4 * i)
    let op := w 0 % 256
    let par := w 0 / 256 % 65536
    let ia := w 5
    let il := w 6
    let oa := w 7
    let inp := bytesAt s ia il
    let st := (k + 3, 1)
    let ended := fun (t : State) (v : Nat) => opEnded s t n k v
    let p := par % 256
    let e := par / 256 % 4
    let a := lapBlk 39 (s.fld addrSecAudbase fldSecAudbase_BASE * 65536 + s.audNext % 512 * 128)
    let keeps := fun (t : State) (h kind : Nat) => ended t 0 ∧ wordAt t (k + 12) = h ∧
      (t.secret h).map (·.kind) = some kind ∧ ∀ i, i < 256 → i ≠ h → t.secret i = s.secret i
    blockOk s n k →
      (1 ≤ j → j ≤ 16 → op ≠ j → 1 ≤ op → op ≤ 16 → exec (secCmd j) s = .next s) ∧
      (op = 0 ∨ 16 < op → completes (exec (secCmd j) s) fun t => ended t 5 ∧ onlyAreas s t [st] ∧ t.keyStore = s.keyStore) ∧
      (1 ≤ op → op ≤ 16 → op ≠ 14 → n ≠ 39 → linkOp op = false →
        completes (exec (secCmd op) s) fun t => ended t 6 ∧ onlyAreas s t [st] ∧ t.keyStore = s.keyStore) ∧
      (op = 1 → areasOk s n k il 48 → completes (exec .hash s) fun t => ended t 0 ∧ onlyAreas s t [st, (oa, 48)] ∧
        bytesAt t oa 48 = sha384 inp) ∧
      (op = 2 → areasOk s n k 0 (w 8) → completes (exec .random s) fun t => ended t 0 ∧ onlyAreas s t [st, (oa, w 8)]) ∧
      (op = 3 → areasOk s n k 0 (16 + lenKeys) → completes (exec .pubid s) fun t => ended t 0 ∧
        onlyAreas s t [st, (oa, 16 + lenKeys)] ∧ t.free = s.free) ∧
      (op = 4 → areasOk s n k 48 lenSigs → completes (exec .signId s) fun t => ended t 0 ∧ onlyAreas s t [st, (oa, lenSigs)] ∧
        t.keyStore = s.keyStore) ∧
      (op = 5 → areasOk s n k il lenKeys → s.secMay n .read oa lenKeys = true → completes (exec .verify s) fun t =>
        ended t (if Config.cryptoOk 5 (inp ++ bytesAt s oa lenKeys) then 0 else 1) ∧ onlyAreas s t [st]) ∧
      (∀ h, h < 256 → freeHandle s h →
        (op = 6 → areasOk s n k 0 lenKem → completes (exec .kemgen s) fun t => keeps t h 0 ∧
          onlyAreas s t [st, (k + 12, 4), (oa, lenKem)]) ∧
        (op = 7 → areasOk s n k lenKem lenKem → completes (exec .encap s) fun t => keeps t h 1 ∧
          onlyAreas s t [st, (k + 12, 4), (oa, lenKem)]) ∧
        (∀ d, s.secretOf 0 (w 1) = some d → op = 8 → areasOk s n k lenKem 0 → completes (exec .decap s) fun t => keeps t h 1 ∧
          onlyAreas s t [st, (k + 12, 4)] ∧ t.secretOf 1 h = some (cryptoN 8 (d ++ inp) 0 80))) ∧
      (op = 8 → s.secretOf 0 (w 1) = none → completes (exec .decap s) fun t => ended t 2 ∧ onlyAreas s t [st]) ∧
      (∀ d, s.secretOf 1 (w 1) = some d → op = 9 → p < 144 → e = 1 ∨ e = 2 → par / 2048 = 0 → ownPort n p = true → areasOk s n k 48 96 →
        completes (exec .deriveLink s) fun t => ended t 0 ∧ onlyAreas s t [st, (oa, 96)] ∧ t.keyStore = s.keyStore ∧
          (t.port p).rxPend = some e ∧ (t.port p).txPend = some e ∧ (tget (fun _ => []) (t.port p).keys e).length = 80) ∧
      (op = 9 → p < 144 → e = 1 ∨ e = 2 → par / 2048 = 0 → ownPort n p = false → completes (exec .deriveLink s) fun t =>
        ended t 6 ∧ t.ports = s.ports) ∧
      (∀ d, s.secretOf 2 (w 1) = some d → op = 10 → n = 39 → areasOk s n k il 48 → completes (exec .hmac s) fun t =>
        ended t 0 ∧ onlyAreas s t [st, (oa, 48)] ∧ bytesAt t oa 48 = hmac384 d inp) ∧
      (op = 11 → n = 39 → areasOk s n k (lenKeys + lenKem + lenSigs) 0 → 1 ≤ par → par ≤ 3 → s.chal = none →
        completes (exec .openSession s) fun t => ended t 1 ∧ t.sessions = s.sessions ∧ onlyAreas s t [st]) ∧
      (∀ x ∈ s.sessions.head?, x.2.handle = w 1 → s.bootKem = none → op = 12 → n = 39 → par / 8192 = 0 →
        areasOk s n k (lenKem + 48) 0 → completes (exec .unwrapSlot s) fun t => ended t 2 ∧ t.slotKeys = s.slotKeys ∧ onlyAreas s t [st]) ∧
      (op = 13 → par / 16384 = 0 → s.secret (w 1) ≠ none → completes (exec .erase s) fun t => ended t 0 ∧ t.secret (w 1) = none ∧
        onlyAreas s t [st] ∧ ∀ i, i < 256 → i ≠ w 1 → t.secret i = s.secret i) ∧
      (op = 13 → par / 16384 = 2 → n = 39 → completes (exec .erase s) fun t => ended t 0 ∧ t.keyStore = s.keyStore ∧
        t.rd (addrSecKslot0 (par % 4096)) = 0 ∧ t.rd (addrSecKslot1 (par % 4096)) = 0 ∧ onlyAreas s t [st]) ∧
      (op = 13 → par / 16384 = 1 → p < 144 → ownPort n p = true → completes (exec .erase s) fun t => ended t 0 ∧
        tget (fun _ => []) (t.port p).keys e = [] ∧ t.keyStore = s.keyStore ∧ onlyAreas s t [st]) ∧
      (op = 14 → n = 39 → areasOk s n k 80 0 → s.audReady 1 = true →
        apart a 128 k 64 → cleanAt s a 128 → completes (exec .auditAppend s) fun t => ended t 0 ∧ onlyAreas s t [st, (a, 128)] ∧
          t.audSeq = s.audNext % 2 ^ 64 ∧ bytesAt t a 128 = bytesLE 8 s.audNext ++ inp.drop 8 ++ s.audHead ∧
          t.audHead = sha384 (bytesLE 8 s.audNext ++ inp.drop 8 ++ s.audHead)) ∧
      (op = 15 → n = 39 → areasOk s n k 48 (608 + lenSigs) → completes (exec .attestOp s) fun t => ended t 0 ∧
        onlyAreas s t [st, (oa, 608 + lenSigs)] ∧ bytesAt t oa 4 = [0x54, 0x42, 0x41, 0x54] ∧ t.keyStore = s.keyStore) ∧
      (∀ x ∈ s.sessions.head?, x.2.sid = w 9 → x.2.handle = w 1 → 1 ≤ x.1 → x.1 ≤ 3 → op = 16 → n = 39 →
        (x.1 ≠ 3 ∨ s.lcs ≠ 2 ∨ x.2.cosig = true → completes (exec .grantRole s) fun t => ended t 0 ∧ onlyAreas s t [st] ∧
          t.on addrSecGrant (grantBit x.1) = true) ∧
        (x.1 = 3 → s.lcs = 2 → x.2.cosig = false → completes (exec .grantRole s) fun t => ended t 1 ∧
          t.rd addrSecGrant = s.rd addrSecGrant))) ∧
  (∀ (s : State) (v : Bool), completes (exec (.vppOtpInRange v) s) fun t => t.vppOk = v ∧ t.threads = s.threads ∧ t.mem = s.mem ∧
    (v = true → t.bootsDue = 0 ∧ t.rd addrSecBootcnt = s.rd addrSecBootcnt + BitVec.ofNat 32 s.bootsDue) ∧
    (v = false → t.bootsDue = s.bootsDue ∧ t.regs = s.regs)) ∧
  (∀ (s : State), ∀ n, s.secNext = some n → ∀ ch, s.chal = some ch → ∀ bk, s.bootKem = some bk → ∀ priv, s.secretOf 0 bk.1 = some priv →
    let k := nth 0 (tget (fun _ => []) s.secq n) 0
    let w := fun (i : Nat) => wordAt s (k + 4 * i)
    let par := w 0 / 256 % 65536
    let inp := bytesAt s (w 5) (w 6)
    let keys := inp.take lenKeys
    let enc := (inp.drop lenKeys).take lenKem
    let good := s.barred par = false ∧ s.roleKeys par keys = true ∧
      Config.cryptoOk 5 (sha384 (ch ++ bytesLE 2 s.devId ++ bytesLE 2 par ++ enc) ++ inp.drop (lenKeys + lenKem) ++ keys) = true
    let slot := par % 4096
    let ok := fun (c : List Byte) =>
      let wk := cryptoN 0x0C (cryptoN 8 (priv ++ inp.take lenKem) 0 80 ++ c ++ bytesLE 2 slot ++ bytesLE 4 (w 9)) 0 32
      Config.cryptoOk 0x11 (wk ++ inp.drop lenKem)
    blockOk s n k → n = 39 →
      (w 0 % 256 = 11 → 1 ≤ par → par ≤ 3 → areasOk s n k (lenKeys + lenKem + lenSigs) 0 →
        (good → s.session par = none → ∀ h, h < 256 → freeHandle s h → completes (exec .openSession s) fun t => opEnded s t n k 0 ∧
          t.chal = none ∧ t.sids = s.sids + 1 ∧ wordAt t (k + 12) = h ∧ (t.secret h).map (·.kind) = some 2 ∧
          (t.session par).map (fun x => (x.sid, x.handle, x.cseq, x.last)) = some (s.sids + 1, h, 0, s.tb64)) ∧
        (¬good → completes (exec .openSession s) fun t => opEnded s t n k 1 ∧ t.chal = none ∧ t.sessions = s.sessions)) ∧
      (∀ x ∈ s.sessions.head?, x.2.handle = w 1 → w 0 % 256 = 12 → par / 8192 = 0 → areasOk s n k (lenKem + 48) 0 →
        (ok x.2.chal = true → completes (exec .unwrapSlot s) fun t => opEnded s t n k 0 ∧ (t.rd (addrSecKslot1 slot)).toNat = w 9 ∧
          (t.rd (addrSecKslot0 slot)).toNat = 2 ^ 31 + par / 4096 * 2 ^ 30 ∧ (tget (fun _ => []) t.slotKeys slot).length = 32) ∧
        (ok x.2.chal = false → completes (exec .unwrapSlot s) fun t => opEnded s t n k 1 ∧ t.slotKeys = s.slotKeys)))


/-! ### The role dialogue (R120, R136, R163, R187, R346, R385, R387 to R398, R401 to R406) -/

/-- T2 of WH39 has in hand a command of the one open session, with a code, and the audit log takes `n` entries now. -/
def Sys2Proof.Machine.inHand (s : State) (t : Taken) (y : Nat × Session) (code n : Nat) : Prop :=
  s.sessions.length = 1 ∧ y.2.sid = t.sid ∧ t.code = code ∧ s.audReady n = true

/-- The request is done, and its response has a status (the model's numbers). -/
def Sys2Proof.Machine.replied (u : State) (st : Nat) : Prop := u.taken = none ∧ leBytes ((u.resp.drop 16).take 4) = st

/-- The code of a role command, how many audit entries it may need besides, and whether a role may issue it (R394). -/
def Sys2Proof.Machine.roleCmd (s : State) : Instr → Option (Nat × Nat × (Nat → Bool))
  | .closeRole => some (3, 0, mayAny)
  | .zload _ _ _ => some (0x100, 2, mayOperate)
  | .jobkey l => some (0x101, 2 * l.length, mayOperate)
  | .counters _ => some (0x102, 0, mayOperate)
  | .audexport _ => some (0x103, 0, mayOperate)
  | .debugOpen sc => some (0x104, 1, fun r => r = 2 || (r = 1 && !sc))
  | .regw l => some (0x200, 2 * l.length, mayInstall)
  | .worldmap l => some (0x201, l.length, mayInstall)
  | .snagCommand l => some (0x202, 2 * l.length + 256, mayInstall)
  | .approve _ => some (0x203, 0, mayInstall)
  | .svncommit => some (0x204, 0, mayInstall)
  | .march l => some (0x205, l.length, mayInstall)
  | .restart => some (0x206, 0, mayInstall)
  | .regwm l => some (0x300, 2 * l.length, mayMake)
  | .lgrovr _ _ _ _ _ => some (0x301, 14, mayMake)
  | .inskey _ => some (0x302, 0, fun r => r = 3 && s.lcs = 1)
  | .shiplock => some (0x303, 0, fun r => r = 3 && s.lcs = 1)
  | _ => none

/-- T2 may take a frame now (R390). -/
def Sys2Proof.Machine.mayTake (s : State) (bob : Bool) (f : List Byte) : Prop :=
  s.millServes = true ∧ s.taken = none ∧ s.requested bob f = true ∧ s.audReady 4 = true

/-- R390 to R392: T2 takes a request; one that is malformed, of an unknown session, or whose MAC or CSEQ is wrong is answered and not
performed, and the eighth wrong MAC closes the session. R391: a challenge is fresh; OPEN opens a session for the holder of the role's
keys; a session without a command for 300 s closes. R401: ATTEST answers a report. R394: a command of another code, or outside the role's
rights, has no effect but its audit entry. The model's choices it rests on: log entries 11, 55, 78 to 80. -/
def Obligations.RoleDialogue : Prop :=
  (∀ (s : State) (bob : Bool) (f : List Byte), let t := parseFrame bob f
    let body := 16 + t.body.length
    let whole := 16 ≤ f.length ∧ t.body.length = leBytes ((f.drop 12).take 4)
    (¬mayTake s bob f → exec (.roleFrame bob f) s = .next s) ∧
    (mayTake s bob f → ¬whole → completes (exec (.roleFrame bob f) s) fun u => replied u 5 ∧ u.sessions = s.sessions ∧ u.threads = s.threads) ∧
    (mayTake s bob f → whole → t.sid = 0 → freeCode t.code = true → completes (exec (.roleFrame bob f) s) fun u =>
      u.taken = some t ∧ u.sessions = s.sessions ∧ u.threads = s.threads) ∧
    (mayTake s bob f → whole → t.sid = 0 → freeCode t.code = false → completes (exec (.roleFrame bob f) s) fun u =>
      replied u 1 ∧ u.sessions = s.sessions ∧ u.threads = s.threads) ∧
    (mayTake s bob f → whole → t.sid ≠ 0 → (∀ y ∈ s.sessions, y.2.sid ≠ t.sid) → completes (exec (.roleFrame bob f) s) fun u =>
      replied u 2 ∧ u.sessions = s.sessions ∧ u.threads = s.threads) ∧
    (∀ y ∈ s.sessions.head?, s.sessions.length = 1 → mayTake s bob f → whole → t.sid ≠ 0 → y.2.sid = t.sid →
      let good := t.role = y.1 ∧ t.tail.take 48 = hmac384 (s.keyOf y.2) (f.take body)
      (¬good → completes (exec (.roleFrame bob f) s) fun u => replied u 2 ∧ u.threads = s.threads ∧
        u.sessions = if 8 ≤ y.2.macBad + 1 then [] else [(y.1, { y.2 with macBad := y.2.macBad + 1 })]) ∧
      (good → t.cseq ≠ y.2.cseq + 1 → completes (exec (.roleFrame bob f) s) fun u => replied u 2 ∧ u.sessions = s.sessions ∧
        u.threads = s.threads) ∧
      (good → t.cseq = y.2.cseq + 1 → t.tail.length = 48 → y.1 ≠ 3 ∨ s.lcs ≠ 2 →
        (knownCode t.code = true → t.code ≠ 1 → t.code ≠ 2 → completes (exec (.roleFrame bob f) s) fun u => u.taken = some t ∧
          u.sessions = [(y.1, { y.2 with cseq := t.cseq, last := s.tb64, cosig := false })] ∧ u.threads = s.threads) ∧
        (knownCode t.code = false → completes (exec (.roleFrame bob f) s) fun u => replied u 5 ∧ u.threads = s.threads)))) ∧
  (∀ s : State, ∀ t, s.taken = some t →
    (t.code ≠ 1 → exec .challenge s = .next s) ∧ (t.code ≠ 2 → exec .openRole s = .next s) ∧ (t.code ≠ 4 → exec .attest s = .next s) ∧
    (s.audReady 4 = true → t.code = 1 → s.bootKem.isSome = true → completes (exec .challenge s) fun u => replied u 0 ∧
      (u.chal.map List.length) = some 48 ∧ u.chal = some ((u.resp.drop 20).take 48) ∧ u.free = s.free + 48 ∧ u.threads = s.threads ∧
      u.mem = s.mem ∧ u.sessions = s.sessions) ∧
    (s.audReady 4 = true → t.code = 4 → t.body.length = 48 → completes (exec .attest s) fun u => replied u 0 ∧ u.threads = s.threads ∧
      (u.resp.drop 20).take 4 = [0x54, 0x42, 0x41, 0x54] ∧ u.mem = s.mem ∧ u.sessions = s.sessions) ∧
    (s.audReady 4 = true → t.code = 4 → t.body.length ≠ 48 → completes (exec .attest s) fun u => replied u 5 ∧ u.sessions = s.sessions) ∧
    (s.audReady 4 = true → t.code = 2 → 1 ≤ t.role → t.role ≤ 3 → t.body.length + t.tail.length = lenKeys + lenKem + lenSigs →
      s.chal = none → completes (exec .openRole s) fun u => replied u 2 ∧ u.sessions = s.sessions ∧ u.threads = s.threads) ∧
    (∀ ch, s.chal = some ch → ∀ bk, s.bootKem = some bk → ∀ priv, s.secretOf 0 bk.1 = some priv → ∀ h, h < 256 → freeHandle s h →
      let d := t.body ++ t.tail
      let keys := d.take lenKeys
      let enc := (d.drop lenKeys).take lenKem
      s.audReady 4 = true → t.code = 2 → 1 ≤ t.role → t.role ≤ 3 → d.length = lenKeys + lenKem + lenSigs → s.session t.role = none →
      s.barred t.role = false → s.roleKeys t.role keys = true →
      Config.cryptoOk 5 (sha384 (ch ++ bytesLE 2 s.devId ++ bytesLE 2 t.role ++ enc) ++ d.drop (lenKeys + lenKem) ++ keys) = true →
        completes (exec .openRole s) fun u => replied u 0 ∧ u.chal = none ∧ u.threads = s.threads ∧
          (u.session t.role).map (fun x => (x.sid, x.handle, x.cseq, x.last)) = some (s.sids + 1, h, 0, s.tb64) ∧
          leBytes ((u.resp.drop 20).take 4) = (s.sids + 1) % 2 ^ 32)) ∧
  (∀ (s : State) (r : Fin 4), ∀ y ∈ s.sessions.head?, s.sessions.length = 1 → y.1 = r.val → s.audReady 2 = true →
    (y.2.last + 300000000000 ≤ s.tb64 → completes (exec (.sessionTimeout r) s) fun u => u.sessions = [] ∧
      u.on addrSecGrant (grantBit r) = false ∧ u.threads = s.threads) ∧
    (s.tb64 < y.2.last + 300000000000 → exec (.sessionTimeout r) s = .next s)) ∧
  (∀ (s : State) (c : Instr), ∀ r, roleCmd s c = some r → ∀ t, s.taken = some t → ∀ y ∈ s.sessions.head?,
    (t.code ≠ r.1 → exec c s = .next s) ∧
    (inHand s t y r.1 (r.2.1 + 4) → r.2.2 y.1 = false → completes (exec c s) fun u => u.taken = none ∧
      (leBytes ((u.resp.drop 16).take 4) = 1 ∨ leBytes ((u.resp.drop 16).take 4) = 5) ∧ u.sessions = s.sessions ∧
      u.threads = s.threads ∧ u.audSeq = s.audNext % 2 ^ 64 ∧ u.keyStore = s.keyStore ∧ u.whorls = s.whorls ∧ u.instKeys = s.instKeys))

/-- What each command of a role does in its session where the holder's role may issue it, and in the failures that a clause names (drawn
from R394; RoleDialogue says when one is refused). The model's choices it rests on: log entries 55, 81 to 84. -/
def Obligations.RoleCommands : Prop :=
  (∀ (s : State) (sc : Bool) (first : Nat), ∀ t, s.taken = some t → ∀ y ∈ s.sessions.head?,
    (inHand s t y 3 4 → completes (exec .closeRole s) fun u => replied u 0 ∧ u.sessions = [] ∧ u.threads = s.threads ∧
      u.on addrSecGrant (grantBit y.1) = false) ∧
    (inHand s t y 0x104 5 → y.1 = 2 ∨ (y.1 = 1 ∧ sc = false) →
      (s.dbg = none → completes (exec (.debugOpen sc) s) fun u => replied u 0 ∧ u.dbg = some (sc, y.1) ∧ u.sessions = s.sessions ∧
        u.on addrSecStatus (if sc then fldSecStatus_DBGS else fldSecStatus_DBGZ) = true ∧ u.threads = s.threads) ∧
      (s.dbg.isSome = true → completes (exec (.debugOpen sc) s) fun u => replied u 1 ∧ u.dbg = s.dbg)) ∧
    (inHand s t y 0x103 4 → y.1 = 1 ∨ y.1 = 2 → completes (exec (.audexport first) s) fun u => replied u 0 ∧ u.threads = s.threads ∧
      (s.audNext < first → first < 2 ^ 64 → (u.resp.drop 20).take 16 = bytesLE 8 first ++ bytesLE 8 u.audSeq)) ∧
    (inHand s t y 0x204 4 → y.1 = 2 → completes (exec .svncommit s) fun u => u.threads = s.threads ∧
      (s.fwSvn ≤ s.fld addrSecSvn fldSecSvn_SVN → replied u 0 ∧ u.rd addrSecSvn = s.rd addrSecSvn) ∧
      (s.fld addrSecSvn fldSecSvn_SVN < s.fwSvn → s.vppOk = true → replied u 0 ∧
        u.fld addrSecSvn fldSecSvn_SVN = s.fwSvn % 2 ^ fldSecSvn_SVN.width)) ∧
    (inHand s t y 0x303 4 → y.1 = 3 → s.lcs = 1 → completes (exec .shiplock s) fun u => u.threads = s.threads ∧
      (s.vppOk = true → replied u 0 ∧ u.lcs = 2) ∧ (s.vppOk = false → replied u 3 ∧ u.lcs = 1))) ∧
  (∀ (s : State) (o : SignedObj) (a : Nat × List Byte) (g : ThreadNo), ∀ t, s.taken = some t → ∀ y ∈ s.sessions.head?,
    inHand s t y 0x100 6 → y.1 = 1 ∨ y.1 = 2 → a.2 = o.body →
      let good := objOk o 2 (tget (fun _ => []) s.lists 5) = true ∧ s.areaOk a = true ∧ (s.thr g).state = .halted ∧ s.mapZ g = true ∧
        s.mapOk (g.val / 32) = true
      (good → cleanAt s a.1 a.2.length → completes (exec (.zload o [a] [g]) s) fun u => replied u 0 ∧ bytesAt u a.1 a.2.length = a.2 ∧
        (u.thr g).state = .ready ∧ (u.thr g).pc = s.rd (addrWhlTpc (g.val / 32) (g.val % 32)) ∧ otherThreads g s u ∧
        nth [] u.meas 3 = (if 3 < s.meas.length then sha384 (nth [] s.meas 3 ++ objHash o) else [])) ∧
      (¬good → completes (exec (.zload o [a] [g]) s) fun u => replied u 1 ∧ u.threads = s.threads ∧ u.meas = s.meas)) ∧
  (∀ (s : State) (slot : Fin 4096) (z : Bool) (kid : Word) (e w : List Byte), ∀ t, s.taken = some t → ∀ y ∈ s.sessions.head?,
    inHand s t y 0x101 6 → y.1 = 1 ∨ y.1 = 2 →
      completes (exec (.jobkey [.erase slot]) s) (fun u => replied u 0 ∧ u.rd (addrSecKslot0 slot) = 0 ∧
        u.rd (addrSecKslot1 slot) = 0 ∧ u.threads = s.threads) ∧
      (s.bootKem = none → completes (exec (.jobkey [.install slot z kid e w]) s) fun u => replied u 3 ∧
        u.rd (addrSecKslot0 slot) = s.rd (addrSecKslot0 slot) ∧ u.slotKeys = s.slotKeys ∧ u.threads = s.threads) ∧
      (∀ b, s.bootKem = some b → ∀ priv, s.secretOf 0 b.1 = some priv →
        Config.cryptoOk 0x11 (cryptoN 0x0C (cryptoN 8 (priv ++ e) 0 80 ++ y.2.chal ++ bytesLE 2 slot ++ bytesLE 4 kid.toNat) 0 32 ++ w) = true →
          completes (exec (.jobkey [.install slot z kid e w]) s) fun u => replied u 0 ∧ u.threads = s.threads ∧
            u.rd (addrSecKslot0 slot) = BitVec.ofNat 32 (2 ^ 31 + b2n z * 2 ^ 30) ∧ u.rd (addrSecKslot1 slot) = kid)) ∧
  (∀ (s : State) (i : Fin 4), ∀ t, s.taken = some t → ∀ y ∈ s.sessions.head?, inHand s t y 0x102 4 → y.1 = 1 ∨ y.1 = 2 →
    s.ctlGranted (s.reqOf 1250) false (addrSknCnt i) = true →
      completes (exec (.counters [BitVec.ofNat 32 (addrSknCnt i)]) s) fun u => replied u 0 ∧ u.threads = s.threads ∧
        leBytes ((u.resp.drop 20).take 4) = (s.rd (addrSknCnt i)).toNat ∧ u.rd (addrSknCnt i) = s.rd (addrSknCnt i)) ∧
  (∀ (s : State) (p : PortNo) (m v : Word), ∀ t, s.taken = some t → ∀ y ∈ s.sessions.head?,
    let a := addrSknAsym p
    let b := addrLgrOvrval 1
    s.ctlGranted (s.reqOf 1250) true a = true → s.ctlGranted (s.reqOf 1250) true b = true → (s.reqOf 1250).sup = true → m ≠ 0 →
      (inHand s t y 0x200 6 → y.1 = 2 → completes (exec (.regw [(BitVec.ofNat 32 a, m, v)]) s) fun u => replied u 0 ∧
        u.rd a = (s.rd a &&& ~~~m) ||| (v &&& m) ∧ u.rd addrSecGrant = 0 ∧ u.threads = s.threads) ∧
      (inHand s t y 0x300 6 → y.1 = 3 → s.lcs ≠ 2 ∨ y.2.cosig = true → completes (exec (.regwm [(BitVec.ofNat 32 b, m, v)]) s) fun u =>
        replied u 0 ∧ u.rd b = (s.rd b &&& ~~~m) ||| (v &&& m) ∧ u.rd addrSecGrant = 0 ∧ u.threads = s.threads)) ∧
  (∀ (s : State) (g : ThreadNo) (z : Bool), ∀ t, s.taken = some t → ∀ y ∈ s.sessions.head?, inHand s t y 0x201 5 → y.1 = 2 →
    ((s.thr g).state = .halted → completes (exec (.worldmap [(g, z)]) s) fun u => replied u 0 ∧ u.mapZ g = z ∧ u.threads = s.threads ∧
      ∀ h, h < 1280 → h ≠ g.val → u.mapZ h = s.mapZ h) ∧
    ((s.thr g).state ≠ .halted → completes (exec (.worldmap [(g, z)]) s) fun u => replied u 1 ∧ u.whorls = s.whorls)) ∧
  (∀ (s : State), ∀ t, s.taken = some t → ∀ y ∈ s.sessions.head?, inHand s t y 0x202 262 → y.1 = 2 →
    (∀ a ∈ [addrSngCtl, addrSngAudack], s.ctlGranted (s.reqOf 1250) true a = true) → (s.reqOf 1250).sup = true →
    s.unitState addrSngCtl = 0 → s.fld addrSngCtl enEN = 0 →
      completes (exec (.snagCommand [(BitVec.ofNat 32 addrSngCtl, 1, 1)]) s) fun u => replied u 0 ∧ u.unitState addrSngCtl = 2 ∧
        u.threads = s.threads ∧ 0x0A00 ∈ u.uev ∧
        (6 < s.meas.length → nth [] u.meas 6 = sha384 (nth [] s.meas 6 ++ sha384 ((List.range 144).flatMap s.snagPort)))) ∧
  (∀ (s : State) (o : SignedObj), ∀ t, s.taken = some t → ∀ y ∈ s.sessions.head?, inHand s t y 0x203 4 → y.1 = 2 →
    3 ≤ objType o → objType o ≤ 7 →
      let good := objOk o (objType o) s.installerKeys = true
      (¬good → completes (exec (.approve [o]) s) fun u => replied u 1 ∧ u.instKeys = s.instKeys) ∧
      (good → objType o ≠ 7 → completes (exec (.approve [o]) s) fun u => replied u 0 ∧ u.instKeys = s.instKeys ∧ u.threads = s.threads)) ∧
  (∀ (s : State) (l : List (Nat × Nat)), ∀ t, s.taken = some t → ∀ y ∈ s.sessions.head?, inHand s t y 0x205 (l.length + 4) → y.1 = 2 →
    completes (exec (.march l) s) fun u => replied u 0 ∧ u.threads = s.threads ∧ u.sessions = s.sessions ∧
      u.fld addrMemEccst fldMemEccst_CECNT = 0xFFFF ∧
      ∀ r ∈ marchRanges, ∀ a, r.1 ≤ a → a < r.1 + r.2 → memByte u.mem a = 0x0F) ∧
  (∀ (s : State), ∀ t, s.taken = some t → ∀ y ∈ s.sessions.head?, inHand s t y 0x206 4 → y.1 = 2 →
    s.ctlGranted (s.reqOf 1250) true (addrWhlTctl 39 0) = true → (s.reqOf 1250).sup = true →
    (s.thr 1248).state = .halted ∨ (s.thr 1248).state = .faulted →
      (s.mapOk 39 = true → completes (exec .restart s) fun u => replied u 0 ∧
        (u.thr 1248).state = .ready ∧ (u.thr 1248).pc = s.rd (addrWhlTpc 39 0)) ∧
      (s.mapOk 39 = false → completes (exec .restart s) fun u => replied u 0 ∧ (u.thr 1248).state = .halted)) ∧
  (∀ (s : State) (j : Word) (v : Fin 4 → Word), ∀ t, s.taken = some t → ∀ y ∈ s.sessions.head?, inHand s t y 0x301 18 → y.1 = 3 →
    s.lcs ≠ 2 ∨ y.2.cosig = true → (s.reqOf 1250).sup = true → j.toNat < 5504 →
    (∀ a ∈ [addrLgrOvrset, addrLgrOvrcmd, addrLgrOvrval 0, addrLgrOvrval 1, addrLgrOvrval 2, addrLgrOvrval 3],
      s.ctlGranted (s.reqOf 1250) true a = true) →
      completes (exec (.lgrovr j (v 0) (v 1) (v 2) (v 3)) s) fun u => replied u 0 ∧ u.on addrLgrStatus fldLgrStatus_OVR = true ∧
        u.on addrLgrGstat fldLgrGstat_OVR = true ∧ u.threads = s.threads ∧ (∀ a, s.lgrSet j.toNat = some a → cleanAt s a 16 →
          u.ctr j.toNat .grant = (v 0).toNat ∧ u.ctr j.toNat .free = (v 1).toNat ∧ u.ctr j.toNat .held = (v 2).toNat ∧
            u.ctr j.toNat .flight = (v 3).toNat)) ∧
  (∀ (s : State) (fp : List Byte), ∀ t, s.taken = some t → ∀ y ∈ s.sessions.head?, inHand s t y 0x302 4 → y.1 = 3 → s.lcs = 1 →
    fp.length = 48 →
      ((∀ j, j < 4 → ∃ x ∈ s.instKeys, x.1 = j) → completes (exec (.inskey fp) s) fun u => replied u 1 ∧ u.instKeys = s.instKeys) ∧
      (∀ i, i < 4 → (∀ x ∈ s.instKeys, x.1 ≠ i) → (∀ j, j < i → ∃ x ∈ s.instKeys, x.1 = j) →
        (s.vppOk = true → completes (exec (.inskey fp) s) fun u => replied u 0 ∧ tget (fun _ => []) u.instKeys i = fp ∧
          u.threads = s.threads) ∧
        (s.vppOk = false → completes (exec (.inskey fp) s) fun u => replied u 3 ∧ u.instKeys = s.instKeys)))


/-! ### The host attach port (R408 to R422) -/

/-- A channel presents a response at once: it answers, has credits and no response waits. -/
def Sys2Proof.Machine.answersNow (s : State) (c n : Nat) : Prop := s.hapAnswers c = true ∧ n ≤ (s.hapc c).crHrsp ∧ (s.hapc c).hrspQ = []

/-- The channel has a credit outstanding for the flit. -/
def Sys2Proof.Machine.credited (s : State) (c : Nat) : Prop := (s.hapc c).outHreq ≠ 0

/-- A flit without a credit (R410). -/
def Sys2Proof.Machine.violated (s t : State) (c : Nat) : Prop :=
  t.on (addrHapStatus c) fldHapStatus_CRDV = true ∧ 0x0D00 + 4 * c + 2 ∈ t.uev ∧ t.fld (addrHapCtl c) enEN = 0 ∧
    (s.unitState (addrHapCtl c) = 2 → s.fld (addrHapCtl c) enEN = 1 → t.unitState (addrHapCtl c) = 3) ∧ t.threads = s.threads ∧
    t.mem = s.mem

/-- The channel's regions let it write every enabled byte of a line in creel or a lap, and no word of the line holds an error. -/
def Sys2Proof.Machine.lineWritable (s : State) (c : Fin 8) (be : BitVec 128) (a : Nat) : Prop :=
  hostMem a = true ∧ inCtl a = false ∧ cleanAt s a 128 ∧
    ∀ i, i < 128 → be.getLsbD i = true → s.grantedAll (208 + c) true false .write (a + i) 1 = true

/-- Memory after a line: the enabled bytes replaced, every other byte as before. -/
def Sys2Proof.Machine.lineWritten (s t : State) (be : BitVec 128) (a : Nat) (d : List Byte) : Prop :=
  (∀ i, i < 128 → memByte t.mem (a + i) = if be.getLsbD i then nth 0 d i else memByte s.mem (a + i)) ∧ onlyAreas s t [(a, 128)]

/-- R409 to R414: the host's requests read lines, write the enabled bytes, write registers a word at a time and ring a doorbell; what a
region, a reserved field or an error forbids is answered by its STATUS. -/
def Sys2Proof.Machine.partHostRequests : Prop :=
  (∀ (s : State) (c : Fin 8) (h be : BitVec 128) (d : List Byte),
    (hqOp h < 3 → hqOp h ≠ 0 → exec (.hreqRd c h) s = .next s) ∧ (hqOp h < 3 → hqOp h ≠ 1 → exec (.hreqWr c h be d) s = .next s) ∧
    (hqOp h < 3 → hqOp h ≠ 2 → exec (.hreqWrdb c h be d) s = .next s) ∧
    (¬credited s c → hqOp h = 0 → completes (exec (.hreqRd c h) s) fun t => violated s t c) ∧
    (¬credited s c → hqOp h = 1 → completes (exec (.hreqWr c h be d) s) fun t => violated s t c) ∧
    (¬credited s c → hqOp h = 2 → completes (exec (.hreqWrdb c h be d) s) fun t => violated s t c)) ∧
  (∀ (s : State) (c : Fin 8) (h : BitVec 128), let a := hqAddr h
    let n := hqLen h + 1
    let lines := fun (st : Nat) => (List.range n).map fun i =>
      ({ ch := c.val, status := st, tag := hqTag h, idx := i,
         data := if st = 0 then bytesAt s (a + 128 * i) 128 else List.replicate 128 0 } : Hrsp)
    credited s c → hqOp h = 0 → answersNow s c n →
      (hqBad h = true → completes (exec (.hreqRd c h) s) fun t => t.hrspOut = s.hrspOut ++ lines 1 ∧ t.threads = s.threads ∧ t.mem = s.mem) ∧
      (hqBad h = false → (∀ i, i < n → inCtl (a + 128 * i) = false ∧ hostMem (a + 128 * i) = true ∧
          s.grantedAll (208 + c) true false .read (a + 128 * i) 128 = true ∧ cleanAt s (a + 128 * i) 128) →
        completes (exec (.hreqRd c h) s) fun t => t.hrspOut = s.hrspOut ++ lines 0 ∧ t.threads = s.threads ∧ t.mem = s.mem ∧
          (t.hapc c).crHrsp = (s.hapc c).crHrsp - n) ∧
      (hqBad h = false → (∀ i, i < n → inCtl (a + 128 * i) = false ∧ (hostMem (a + 128 * i) = false ∨
          s.grantedAll (208 + c) true false .read (a + 128 * i) 128 = false)) →
        completes (exec (.hreqRd c h) s) fun t => t.hrspOut = s.hrspOut ++ lines 1 ∧ t.threads = s.threads ∧ t.mem = s.mem) ∧
      (hqBad h = false → hqLen h = 0 → inCtl a = false → hostMem a = true → s.grantedAll (208 + c) true false .read a 128 = true →
        (∃ wb ∈ eccWords a 128, s.synd wb = .bad) → completes (exec (.hreqRd c h) s) fun t => t.hrspOut = s.hrspOut ++ lines 2 ∧
          t.threads = s.threads ∧ t.mem = s.mem) ∧
      (inCtl a = true → hqLen h ≠ 0 ∨ (∀ i, i < 32 → s.ctlGranted (hostReq c) false (a + 4 * i) = false) →
        completes (exec (.hreqRd c h) s) fun t => t.hrspOut = s.hrspOut ++ lines 1 ∧ t.threads = s.threads ∧ t.mem = s.mem) ∧
      (hqBad h = false → hqLen h = 0 → inCtl a = true → (∃ i, i < 32 ∧ s.ctlGranted (hostReq c) false (a + 4 * i) = true) →
        completes (exec (.hreqRd c h) s) fun t => t.hrspOut.length = s.hrspOut.length + 1 ∧
          ∀ x ∈ t.hrspOut.getLast?, x.status = 0 ∧ x.tag = hqTag h ∧ x.idx = 0 ∧ x.data.length = 128)) ∧
  (∀ (s : State) (c : Fin 8) (h be : BitVec 128) (d : List Byte) (i : Fin 32), let a := hqAddr h
    let out := fun (st : Nat) => s.hrspOut ++ [{ ch := c.val, status := st, tag := hqTag h, idx := 0, data := List.replicate 128 0 }]
    let u := (s.hapCount c 0).active
    let k := hqBob h
    let v := BitVec.ofNat 32 (leBytes ((d.drop (4 * i.val)).take 4))
    credited s c →
      (hqOp h = 1 → hqBad h = false → lineWritable s c be a → completes (exec (.hreqWr c h be d) s) fun t =>
        lineWritten s t be a d ∧ t.threads = s.threads ∧ t.hrspOut = s.hrspOut ∧ counted s t (addrHapCnt c 0) fldHapCnt_COUNT 1) ∧
      (hqOp h = 1 → answersNow s c 1 → hqBad h = true ∨ (inCtl a = false ∧ be ≠ 0 ∧ hostMem a = false) ∨
          (inCtl a = false ∧ ∃ j, j < 128 ∧ be.getLsbD j = true ∧ s.grantedAll (208 + c) true false .write (a + j) 1 = false) ∨
          (inCtl a = true ∧ be.toNat / 2 ^ (4 * i.val) % 16 = 7 ∧ be.toNat % 2 ^ (4 * i.val) = 0) →
        completes (exec (.hreqWr c h be d) s) fun t => t.hrspOut = out 3 ∧ t.mem = s.mem ∧ t.threads = s.threads) ∧
      (hqOp h = 1 → hqBad h = false → inCtl a = true → be.toNat = 15 * 2 ^ (4 * i.val) → (u.regWrite (hostReq c) (a + 4 * i.val) v).2 = .done →
        exec (.hreqWr c h be d) s = .next (u.regWrite (hostReq c) (a + 4 * i.val) v).1) ∧
      (hqOp h = 2 → answersNow s c 1 → hqBad h = true ∨ inCtl a = true → completes (exec (.hreqWrdb c h be d) s) fun t =>
        t.hrspOut = out 3 ∧ t.mem = s.mem ∧ t.threads = s.threads) ∧
      (hqOp h = 2 → hqBad h = false → lineWritable s c be a → apart a 128 (bdAddr k 0) 32 → cleanAt s (bdAddr k 4) 4 →
        (s.dbWrite k (hostReq c) (BitVec.ofNat 32 (hqCnt h))).2 = true → completes (exec (.hreqWrdb c h be d) s) fun t =>
          t.prod k = (s.prod k + hqCnt h) % 2 ^ 32 ∧ t.threads = s.threads ∧
            ∀ j, j < 128 → memByte t.mem (a + j) = if be.getLsbD j then nth 0 d j else memByte s.mem (a + j)) ∧
      (hqOp h = 2 → answersNow s c 1 → hqBad h = false → lineWritable s c be a → apart a 128 (bdAddr k 0) 32 →
        (s.dbWrite k (hostReq c) (BitVec.ofNat 32 (hqCnt h))).2 = false → completes (exec (.hreqWrdb c h be d) s) fun t =>
          t.hrspOut = out 4 ∧ t.prod k = s.prod k ∧ t.threads = s.threads ∧ lineWritten s t be a d))

/-- R409, R410, R417, R418, R422: the credits that the host returns, its responses to the block's reads and posted writes, the time that a
read may take, and the loss of HCLK. -/
def Sys2Proof.Machine.partHostResponses : Prop :=
  (∀ (s : State) (c : Fin 8) (x y : Fin 4), let h := s.hapc c
    (s.hapOn c = false → exec (.hostCreditReturn c x y) s = .next s) ∧
    (s.hapOn c = true → h.hrspQ = [] → h.dreqQ = [] → completes (exec (.hostCreditReturn c x y) s) fun t =>
      t.hapc c = { h with crHrsp := min 1023 (h.crHrsp + x.val), crDreq := min 1023 (h.crDreq + y.val) } ∧ t.regs = s.regs ∧
      t.threads = s.threads ∧ t.mem = s.mem) ∧
    (∀ f ∈ h.hrspQ.head?, h.hrspQ.length = 1 → s.hapOn c = true → s.on addrHapGstat fldHapGstat_HCLKOK = true → h.crHrsp = 0 →
      x.val = 1 → h.dreqQ = [] → completes (exec (.hostCreditReturn c x y) s) fun t => t.hrspOut = s.hrspOut ++ [f] ∧
        (t.hapc c).hrspQ = [] ∧ (t.hapc c).crHrsp = 0 ∧ counted s t (addrHapCnt c 1) fldHapCnt_COUNT 1 ∧ t.threads = s.threads)) ∧
  (∀ (s : State) (c : Fin 8) (h : BitVec 64) (d : List Byte), let x := s.hapc c
    let tag := dsTag h
    let st := dsStatus h
    let told := fun (t : State) => counted s t (addrHapCnt c 3) fldHapCnt_COUNT 1 ∧ t.threads = s.threads ∧ t.mem = s.mem
    let lost := fun (t : State) => told t ∧ counted s t (addrHapCnt c 6) fldHapCnt_COUNT 1 ∧ t.hapc c = x
    (st = 2 → exec (.drspReceived c h d) s = .next s) ∧
    (st ≠ 2 → x.outDrsp = 0 → completes (exec (.drspReceived c h d) s) fun t => violated s t c) ∧
    (2 < st → x.outDrsp ≠ 0 → completes (exec (.drspReceived c h d) s) lost) ∧
    (st < 2 → x.outDrsp ≠ 0 → x.quar.contains tag = true → completes (exec (.drspReceived c h d) s) fun t => told t ∧
      t.hapc c = { x with quar := x.quar.filter (· ≠ tag) } ∧
      t.fld (addrHapTagq c) fldHapTagq_COUNT = (x.quar.filter (· ≠ tag)).length % 2 ^ fldHapTagq_COUNT.width) ∧
    (st < 2 → x.outDrsp ≠ 0 → x.quar.contains tag = false → (∀ r ∈ x.reads, r.tag ≠ tag) →
      completes (exec (.drspReceived c h d) s) lost) ∧
    (∀ r ∈ x.reads.head?, st < 2 → x.outDrsp ≠ 0 → x.quar.contains tag = false → r.tag = tag →
      (r.len < dsIdx h ∨ (∃ y ∈ r.got, y.1 = dsIdx h) → completes (exec (.drspReceived c h d) s) lost) ∧
      (dsIdx h ≤ r.len → (∀ y ∈ r.got, y.1 ≠ dsIdx h) → (∀ f ∈ x.dreqQ, f.op ≠ 0 ∨ f.tag ≠ tag) →
        (∀ g, g < 1280 → r.who = .thread g → completes (exec (.drspReceived c h d) s) fun t => told t ∧
          ((t.hapc c).reads.head?).map (·.got) = some (r.got ++ [(dsIdx h, if st = 0 then some (padTo 128 0 d) else none)])) ∧
        (∀ e ix, e < 8 → r.who = .draft e ix → completes (exec (.drspReceived c h d) s) fun t => told t ∧
          ((t.hapc c).reads.head?).map (·.got) = some (r.got ++ [(dsIdx h, if st = 0 then some (padTo 128 0 d) else none)]))))) ∧
  (∀ (s : State) (c : Fin 8) (h : BitVec 64), let x := s.hapc c
    let tag := dsTag h
    (dsStatus h ≠ 2 → exec (.writeFailureReport c h) s = .next s) ∧
    (dsStatus h = 2 → x.outDrsp = 0 → completes (exec (.writeFailureReport c h) s) fun t => violated s t c) ∧
    (dsStatus h = 2 → x.outDrsp ≠ 0 → (∀ w ∈ x.wlog, w.wseq ≠ tag) → completes (exec (.writeFailureReport c h) s) fun t =>
      counted s t (addrHapCnt c 3) fldHapCnt_COUNT 1 ∧ counted s t (addrHapCnt c 5) fldHapCnt_COUNT 1 ∧ t.uev = s.uev ∧
      t.threads = s.threads ∧ t.mem = s.mem) ∧
    (∀ w ∈ x.wlog.getLast?, dsStatus h = 2 → x.outDrsp ≠ 0 → w.wseq = tag → completes (exec (.writeFailureReport c h) s) fun t =>
      counted s t (addrHapCnt c 5) fldHapCnt_COUNT 1 ∧ t.on (addrHapStatus c) fldHapStatus_WERR = true ∧ 0x0D00 + 4 * c.val + 1 ∈ t.uev ∧
      (∀ g, g < 1280 → w.who = .thread g → (s.thr g).state = .ready ∨ (s.thr g).state = .waiting →
        s.on (addrWhlTexc (g / 32) (g % 32)) fldWhlTexc_LSEP = false →
          (t.thr g).lse = BitVec.ofNat 32 w.addr ∧ t.on (addrWhlTexc (g / 32) (g % 32)) fldWhlTexc_LSEP = true) ∧
      (∀ e ix, e < 8 → w.who = .draft e ix → t.drfRun e = 4 ∧ (t.rd (addrDrfFdet e)).toNat = 10))) ∧
  (∀ (s : State) (c : Fin 8) (tag : Fin 1024), let x := s.hapc c
    ((∀ r ∈ x.reads, r.tag ≠ tag.val) ∨ (∃ f ∈ x.dreqQ, f.op = 0 ∧ f.tag = tag.val) → exec (.readTimeout c tag) s = .next s) ∧
    (∀ r ∈ x.reads.head?, r.tag = tag.val → r.got = [] → (∀ f ∈ x.dreqQ, f.op ≠ 0 ∨ f.tag ≠ tag.val) →
      completes (exec (.readTimeout c tag) s) fun t =>
        (t.hapc c).quar = x.quar ++ [tag.val] ∧ (t.hapc c).reads = x.reads.filter (fun y => y.tag ≠ tag.val) ∧
        t.on (addrHapStatus c) fldHapStatus_RDTO = true ∧ counted s t (addrHapCnt c 4) fldHapCnt_COUNT 1 ∧
        0x0D00 + 4 * c.val ∈ t.uev ∧ t.mem = s.mem ∧ ∀ g, g < 1280 → r.who = .thread g →
          (s.thr g).wait = .load .lw 0x80000000 0 5 (some (c.val * 1024 + tag.val)) → isOn (s.thr g).st stEX = false →
          isOn (s.thr g).st stIM = false → (t.thr g).entry.map (fun p => (p.code, p.eaddr)) = some (4, 0x80000000))) ∧
  (∀ (s : State) (b : Bool), completes (exec (.hclkLoss b) s) fun t => t.on addrHapGstat fldHapGstat_HCLKOK = b ∧
    t.threads = s.threads ∧ t.mem = s.mem ∧ (b = false → t.hrspOut = s.hrspOut ∧ t.dreqOut = s.dreqOut ∧ t.hap = s.hap))

/-- R409 to R414: the host's requests read and write lines and registers, and what answers one that is refused. R409, R410, R417, R418,
R422: credits, the host's responses, the time a read may take, and the loss of HCLK. The model's choices it rests on: log entries 57, 77. -/
def Obligations.HostAttach : Prop := partHostRequests ∧ partHostResponses



/-! ### Reset, start-up, power states and boot verification (R384 to R386, R430 to R447, R465) -/

/-- What a reset leaves, with the registers that it keeps (R432, R433): OTP, the pins' outside levels and the waiting commands are no state
of the reset. -/
def Sys2Proof.Machine.resetLeft (keep : Nat → Bool) (s t : State) : Prop :=
  t.threads = [] ∧ t.mem = [] ∧ t.sessions = [] ∧ t.keyStore = [] ∧ t.slotKeys = [] ∧ t.ports = [] ∧ t.started = false ∧ t.dbg = none ∧
    t.tb = State.reset.tb ∧ t.pending = s.pending ∧ t.otp = s.otp ∧
    ∀ a, a ≠ addrRstCause → a ≠ addrPwrStatus → (∀ k, k < 6 → a ≠ addrPinBank k) → t.rd a = if keep a then s.rd a else State.reset.rd a

/-- RST_CAUSE as it was, with one bit set. -/
def Sys2Proof.Machine.causeSet (s t : State) (b : Bits) : Prop := t.rd addrRstCause = setF (s.rd addrRstCause) b 1

/-- A sensor reads at least the limit (R465). -/
def Sys2Proof.Machine.hotNow (s : State) : Prop :=
  ∃ i, i < 5 ∧ s.on (addrPwrTemp i) fldPwrTemp_VALID = true ∧
    (8 * (s.fld addrPwrTalrm fldPwrTalrm_LIMIT : Nat) : Int) ≤ signedOf 12 (s.rd (addrPwrTemp i)).toNat

/-- WH39 T1 starts at the ROM's first word, in the S world, with the ROM in its spool and WCLK running (R435). -/
def Sys2Proof.Machine.atRom (s t : State) : Prop :=
  t.started = true ∧ t.cycle = 0 ∧ (t.thr 1249).state = .ready ∧ (t.thr 1249).pc = 0 ∧ (t.thr 1249).isZ = false ∧ (t.thr 1249).fx = 4 ∧
    (t.thr 1249).lk = 0xFFFFFFFC ∧ (t.thr 1249).rc = 0 ∧ t.on addrClkStatus fldClkStatus_CORE = true ∧ t.unitState (addrHapCtl 0) = 1 ∧
    bytesAt t (spoolBlk 39 0) 32768 = (List.range 32768).map Config.romByte ∧ s.otp.length ≤ t.otp.length

/-- R432 to R434: what a reset leaves, and the cause that it records. R431: supplies out of range and back. R435: release starts WH39 T1
at the ROM. R445, R446: a wake. R447: the divider. R465: the temperature alarm. R385, R386, R436: boot verification, and recovery. The model's choices it
rests on: log entries 49 to 53, 58. -/
def Obligations.ResetPowerBoot : Prop :=
  (∀ s : State,
    completes (exec (.resetEntry .pwrgood) s) (fun t => resetLeft retainedReg s t ∧ causeSet s t fldRstCause_PWRGOOD) ∧
    completes (exec (.resetEntry .rstN) s) (fun t => resetLeft retainedReg s t ∧ causeSet s t fldRstCause_RSTN) ∧
    (s.rstCmd = true → completes (exec (.resetEntry .command) s) fun t => resetLeft retainedReg s t ∧ causeSet s t fldRstCause_CMD) ∧
    (s.rstCmd = false → exec (.resetEntry .command) s = .next s)) ∧
  (∀ (s : State) (d : Fin 5), let r := fun (t : State) => t.fld addrPwrStatus fldPwrStatus_SUPOK / 2 ^ d.val % 2
    let early := ∃ e, e < 5 ∧ supplyStep e < supplyStep d ∧ s.supplies[e]? = some false
    (d.val ≠ 4 → completes (exec (.supplyOutOfRange d false) s) fun t => resetLeft retainedReg s t ∧
      causeSet s t fldRstCause_PWRGOOD ∧ (s.supplies.length = 5 → r t = 0)) ∧
    (d.val = 4 → completes (exec (.supplyOutOfRange d false) s) fun t => resetLeft (fun _ => false) s t ∧
      t.rd addrRstCause = State.reset.rd addrRstCause ∧ (s.supplies.length = 5 → r t = 0)) ∧
    (s.supplies.length = 5 → completes (exec (.supplyOutOfRange d true) s) fun t => r t = 1 ∧ t.mem = s.mem ∧ t.threads = s.threads ∧
      t.started = s.started ∧ (early → t.on addrRstCause fldRstCause_ORDER = true) ∧
      (¬early → t.on addrRstCause fldRstCause_ORDER = s.on addrRstCause fldRstCause_ORDER))) ∧
  (∀ s : State, (s.started = true ∨ false ∈ s.supplies → exec .resetRelease s = .next s) ∧
    (s.started = false → false ∉ s.supplies → completes (exec .resetRelease s) fun t => atRom s t ∧ otherThreads 1249 s t ∧
      t.romAt = s.tb64 ∧ (∀ i ∈ [80, 81, 86], t.fld (addrPinCfg i) fldPinCfg_MODE = 1) ∧
      sameOutside s t (spoolBlk 39 0) 32768 ∧ (s.otp = [] → s.vppOk = true → t.rd addrSecBootcnt = s.rd addrSecBootcnt + 1) ∧
      (s.vppOk = false → t.bootsDue = s.bootsDue + 1) ∧ ∀ x ∈ s.otp, s.otp.length = 1 →
        (x.1 = addrSecSvn → t.rd addrSecSvn = x.2) ∧ (x.1 = addrSecBootcnt → s.vppOk = true → t.rd addrSecBootcnt = x.2 + 1))) ∧
  (∀ (s : State) (w : Fin 4), let go := s.fld addrPwrStatus fldPwrStatus_STATE = 3 ∧ (s.fld addrPwrWake fldPwrWake_SEEN).testBit w = true
    (¬go → exec (.wake w) s = .next s) ∧
    (go → completes (exec (.wake w) s) fun t => atRom s t ∧ t.on addrRstCause fldRstCause_WAKE = true ∧
      t.fld addrPwrWcnt fldPwrWcnt_COUNT = satAdd fldPwrWcnt_COUNT.width (s.fld addrPwrWcnt fldPwrWcnt_COUNT) 1 ∧
      t.sessions = [] ∧ t.dbg = none ∧ t.tb = s.tb ∧ t.slotKeys = s.slotKeys ∧ t.fld addrPwrStatus fldPwrStatus_STATE = 0 ∧
      sameOutside s t (spoolBlk 39 0) 32768 ∧ (∀ h, h < 1280 → h ≠ 1249 → (t.thr h).state = .halted) ∧
      (s.otp = [] → ∀ c, c < 256 → t.rd (addrTrdCcfg c) = s.rd (addrTrdCcfg c)) ∧
      (s.otp = [] → ∀ i, i < 3 → t.rd (addrPinOut i) = s.rd (addrPinOut i)))) ∧
  (∀ (s : State) (q : Fin 4), let due := s.on addrClkStatus fldClkStatus_DIVPEND = true ∧ s.cycle % 64 = 0
    let used := ∃ i, i < 36 ∧ s.unitState (addrLnkCtl (36 * q.val + i)) ≠ 0
    (¬due → exec .dividerSwitch s = .next s) ∧
    (due → completes (exec .dividerSwitch s) fun t => t.on addrClkStatus fldClkStatus_DIVPEND = false ∧
      t.wdiv = (if s.fld addrPwrStatus fldPwrStatus_STATE = 2 then s.wdiv else s.fld addrClkWdiv fldClkWdiv_DIV) ∧
      t.threads = s.threads ∧ t.mem = s.mem ∧ otherRegisters s t [addrClkStatus]) ∧
    (¬used → exec (.quadPllLock q) s = .next s) ∧
    (used → completes (exec (.quadPllLock q) s) fun t => (t.rd addrClkStatus).toNat.testBit q.val = true ∧ t.threads = s.threads ∧
      t.mem = s.mem ∧ otherRegisters s t [addrClkStatus])) ∧
  (∀ (s : State) (a b c d e : BitVec 12), let sl := s.fld addrPwrStatus fldPwrStatus_STATE = 3
    (sl → exec (.thermalConversion a b c d e) s = .next s) ∧
    (¬sl → completes (exec (.thermalConversion a b c d e) s) fun t => t.threads = s.threads ∧ t.mem = s.mem ∧
      otherRegisters s t [addrPwrTemp 0, addrPwrTemp 1, addrPwrTemp 2, addrPwrTemp 3, addrPwrTemp 4, addrPwrTalrm] ∧
      (∀ x ∈ [(0, a), (1, b), (2, c), (3, d), (4, e)], t.rd (addrPwrTemp x.1) = BitVec.ofNat 32 (2 ^ 31 + x.2.toNat)) ∧
      (hotNow t → ¬hotNow s → s.on addrPwrTalrm fldPwrTalrm_EN = true → t.on addrPwrTalrm fldPwrTalrm_ALARM = true ∧
        t.uev = s.uev ++ [0x0D40]) ∧
      (¬hotNow t ∨ hotNow s ∨ s.on addrPwrTalrm fldPwrTalrm_EN = false → t.rd addrPwrTalrm = s.rd addrPwrTalrm ∧ t.uev = s.uev))) ∧
  (∀ (s : State) (fw ap : SignedObj) (im : List (BitVec 8)) (m : Fin 8) (y : List (BitVec 8)),
    let can := s.started = true ∧ s.on addrSecStatus fldSecStatus_BOOTV = false ∧ s.recov = none ∧ s.audReady 2 = true
    let cold := ∀ x, s.imgHash = some x → s.on addrRstCause fldRstCause_WAKE = true →
      sha384 ((List.range x.1).map fun i => s.goodByte (spoolBlk 39 (0x8000 + i))) ≠ x.2
    let dead := s.flashDead = true
    let early := s.recovLow = false ∧ dead ∧ s.tb64 < s.romAt + 10000000
    let ok := certUnderRoot fw.cert = true ∧ objOk fw 1 (certKeys fw.cert) = true ∧ s.fld addrSecSvn fldSecSvn_SVN ≤ objSvn fw ∧ im.length ≤ 98304 ∧
      (s.lcs ≠ 2 ∨ (objOk ap 3 s.installerKeys = true ∧ listsHash ap (objHash fw) = true))
    let rom := sha384 (nth [] s.meas 0 ++ sha384 ((List.range 32768).map Config.romByte))
    (¬can → exec (.bootVerify fw ap im [(m, y)]) s = .next s) ∧
    (can → cold → early → exec (.bootVerify fw ap im [(m, y)]) s = .next s) ∧
    (can → ¬cold → completes (exec (.bootVerify fw ap im [(m, y)]) s) fun t => t.on addrSecStatus fldSecStatus_BOOTV = true ∧
      t.mem = s.mem ∧ t.threads = s.threads ∧ (s.meas.length = 8 → nth [] t.meas 0 = rom ∧ nth [] t.meas 1 = nth [] s.meas 1)) ∧
    (can → cold → s.recovLow = false → ¬dead → ok → 2 ≤ m.val → completes (exec (.bootVerify fw ap im [(m, y)]) s) fun t =>
      t.on addrSecStatus fldSecStatus_BOOTV = true ∧ t.threads = s.threads ∧ t.fwSvn = objSvn fw ∧
      t.imgHash = some (im.length, sha384 im) ∧ t.audSeq = (s.audNext + 1) % 2 ^ 64 ∧
      (s.meas.length = 8 → nth [] t.meas 0 = rom ∧ nth [] t.meas 1 = sha384 (nth [] s.meas 1 ++ objHash fw) ∧
        nth [] t.meas m.val = sha384 (nth [] s.meas m.val ++ sha384 y)) ∧
      (cleanAt s (spoolBlk 39 0x8000) (im.length + 8) → bytesAt t (spoolBlk 39 0x8000) im.length = im)) ∧
    (can → cold → ¬early → s.recovLow = true ∨ dead ∨ ¬ok → completes (exec (.bootVerify fw ap im [(m, y)]) s) fun t =>
      t.on addrSecStatus fldSecStatus_BOOTV = false ∧ t.threads = s.threads ∧ (t.rd (addrTrdPlat 14)).toNat.testBit 1 = true ∧
      t.audSeq = s.audNext % 2 ^ 64 ∧ t.recov = some (s.tb64 + 500000000) ∧ (s.meas.length = 8 → nth [] t.meas 1 = nth [] s.meas 1)))


/-! ### The debug unit (R63, R138, R139, R395, R470 to R473) -/

/-- DBG_STATUS tells of a refusal. -/
def Sys2Proof.Machine.dbgTold (u : State) (n : Nat) : Prop := u.on addrDbgStatus fldDbgStatus_ERR = true ∧ u.fld addrDbgStatus fldDbgStatus_ECODE = n

/-- A request is refused for want of a session, changing nothing but DBG_STATUS and the registers listed; or for its scope, with an
audit entry (R138, R395). -/
def Sys2Proof.Machine.dbgNone (s : State) (o : Out) (l : List Nat) : Prop :=
  (s.dbg = none → completes o fun u => dbgTold u 1 ∧ u.threads = s.threads ∧ u.mem = s.mem ∧ otherRegisters s u (addrDbgStatus :: l)) ∧
  (∀ x, s.dbg = some x → x.1 = false → (s.thr s.dbgThr).isZ = false → completes o fun u => dbgTold u 2 ∧ u.threads = s.threads ∧
    u.audSeq = s.audNext % 2 ^ 64)

/-- A request is refused with a code, and changes no thread, no memory and no register but DBG_STATUS and those listed. -/
def Sys2Proof.Machine.dbgNo (s : State) (o : Out) (n : Nat) (l : List Nat) : Prop :=
  completes o fun u => dbgTold u n ∧ u.threads = s.threads ∧ u.mem = s.mem ∧ otherRegisters s u (addrDbgStatus :: l)

/-- A debug session is open whose scope holds the selected thread (R138). -/
def Sys2Proof.Machine.inScope (s : State) : Prop := ∃ x, s.dbg = some x ∧ (x.1 = true ∨ (s.thr s.dbgThr).isZ = true)

/-- A master may write a register of the debug unit. -/
def Sys2Proof.Machine.mayWrite (s : State) (who : Writer) (a : Nat) (v : Word) : Prop :=
  s.ctlGranted (s.reqBy who) true a = true ∧ s.ctlDenied (s.reqBy who) a v = false

/-- R395, R138: no request without a session, none outside its scope. R470, R63, R139: STOP, RESUME and STEP. R471: the registers of a
thread at rest. R472: memory as the thread sees it. R473: the trace. The model's choices it rests on: log entries 67, 68. -/
def Obligations.DebugUnit : Prop :=
  (∀ (s : State) (who : Writer) (val : Word),
    (mayWrite s who addrDbgCmd 1 → s.dbgBusy = false → dbgNone s (exec (.debugStop who) s) []) ∧
    (mayWrite s who addrDbgCmd 2 → s.dbgBusy = false → dbgNone s (exec (.debugResume who) s) []) ∧
    (mayWrite s who addrDbgCmd 4 → s.dbgBusy = false → dbgNone s (exec (.debugStep who) s) []) ∧
    (mayWrite s who addrDbgRdata val → dbgNone s (exec (.debugRegWrite who val) s) []) ∧
    (mayWrite s who addrDbgMdata val → dbgNone s (exec (.debugMemWrite who val) s) []) ∧
    (mayWrite s who addrDbgTrcctl val → val = 1 → dbgNone s (exec (.traceEnable who val) s) []) ∧
    (s.ctlGranted (s.reqBy who) false addrDbgRdata = true → dbgNone s (exec (.debugRegRead who) s) [addrDbgRdata] ∧
      (s.dbg = none → completes (exec (.debugRegRead who) s) fun u => u.rd addrDbgRdata = 0)) ∧
    (s.ctlGranted (s.reqBy who) false addrDbgMdata = true → dbgNone s (exec (.debugMemRead who) s) [addrDbgMdata] ∧
      (s.dbg = none → completes (exec (.debugMemRead who) s) fun u => u.rd addrDbgMdata = 0))) ∧
  (∀ (s : State) (who : Writer), let g := s.dbgThr
    let th := s.thr g
    let rest := th.state = .stopped ∨ th.state = .halted ∨ th.state = .faulted
    let busy := s.dbgBusy = true
    let open_ := fun (v : Word) => mayWrite s who addrDbgCmd v ∧ inScope s
    (open_ 1 → busy → dbgNo s (exec (.debugStop who) s) 5 []) ∧
    (open_ 2 → busy → dbgNo s (exec (.debugResume who) s) 5 []) ∧
    (open_ 4 → busy → dbgNo s (exec (.debugStep who) s) 5 []) ∧
    (open_ 1 → ¬busy → rest → exec (.debugStop who) s = .next s) ∧
    (open_ 1 → ¬busy → th.state = .ready → th.issued = none → th.entry = none → completes (exec (.debugStop who) s) fun u =>
      u.thr g = { th with state := .stopped, stopReq := false } ∧ otherThreads g s u ∧ u.mem = s.mem) ∧
    (open_ 1 → ¬busy → th.state = .ready → th.issued ≠ none ∨ th.entry ≠ none → completes (exec (.debugStop who) s) fun u =>
      u.thr g = { th with stopReq := true } ∧ otherThreads g s u ∧ u.mem = s.mem) ∧
    (open_ 2 → ¬busy → th.state ≠ .stopped → dbgNo s (exec (.debugResume who) s) 3 []) ∧
    (open_ 4 → ¬busy → th.state ≠ .stopped → dbgNo s (exec (.debugStep who) s) 3 []) ∧
    (open_ 2 → ¬busy → th.state = .stopped → th.wait = .none → completes (exec (.debugResume who) s) fun u =>
      u.thr g = { th with state := .ready, stopReq := false } ∧ otherThreads g s u ∧ u.mem = s.mem)) ∧
  (∀ (s : State) (who : Writer) (d a b : Reg), let g := Fin.ofNat 1280 s.dbgThr
    let th := s.thr g
    let x := (((s.setThr g { th with state := .ready, stopReq := false }).countTurns g 1).active).fetchWord g
    ∀ w ∈ encodeWord (.addu g d a b), mayWrite s who addrDbgCmd 4 → inScope s → s.dbgBusy = false → th.state = .stopped →
      th.wait = .none → th.rep = none → th.owed = 0 → th.entry = none → (x.thr g).issued = some (BitVec.ofNat 32 w.2) → (x.thr g).state = .ready → g.val ≠ 1250 →
        completes (exec (.debugStep who) s) fun u => (u.thr g).state = .stopped ∧ (u.thr g).pc = th.pc + 4 ∧ u.mem = x.mem ∧
          (u.thr g).get d = (if d = 0 then 0 else th.get a + th.get b) ∧ otherRegs d th (u.thr g) ∧ otherThreads g s u) ∧
  (∀ (s : State) (g : ThreadNo), let th := s.thr g
    let still := (th.state = .ready ∧ th.entry = none ∧ th.issued = none) ∨ (th.state = .waiting ∧ th.wait = .storeSpace)
    (th.stopReq = true → still → completes (exec (.threadStopped g) s) fun u =>
      u.thr g = { th with state := .stopped, stopReq := false } ∧ otherThreads g s u ∧ u.mem = s.mem) ∧
    (th.stopReq = false ∨ (th.state = .ready ∧ (th.entry ≠ none ∨ th.issued ≠ none)) → exec (.threadStopped g) s = .next s)) ∧
  (∀ (s : State) (who : Writer) (val : Word), let g := s.dbgThr
    let th := s.thr g
    let rest := th.state = .stopped ∨ th.state = .halted ∨ th.state = .faulted
    let bank := s.fld addrDbgRsel fldDbgRsel_BANK
    let i := s.fld addrDbgRsel fldDbgRsel_INDEX
    let r := s.ctlGranted (s.reqBy who) false addrDbgRdata = true ∧ inScope s
    let w := mayWrite s who addrDbgRdata val ∧ inScope s
    let reads := fun (v : Word) => completes (exec (.debugRegRead who) s) fun u => u.rd addrDbgRdata = v ∧ u.threads = s.threads ∧
      u.mem = s.mem ∧ otherRegisters s u [addrDbgRdata]
    let puts := fun (t : Thread) => completes (exec (.debugRegWrite who val) s) fun u => u.thr g = t ∧ otherThreads g s u ∧ u.mem = s.mem
    (r → ¬rest → dbgNo s (exec (.debugRegRead who) s) 3 [addrDbgRdata]) ∧
    (w → ¬rest → dbgNo s (exec (.debugRegWrite who val) s) 3 []) ∧
    (r → rest → bank = 0 → reads (th.get (Fin.ofNat 32 i))) ∧
    (r → rest → bank = 1 → i = 0 → reads th.pc) ∧ (r → rest → bank = 1 → i = 17 → reads (BitVec.ofNat 32 (s.tb64 / 2 ^ 32))) ∧
    (r → rest → bank = 2 → i < 16 → i % 4 < 3 →
      reads (BitVec.ofNat 32 (th.a[Fin.ofNat 4 (i / 4)].toNat / 2 ^ (32 * (i % 4))))) ∧
    (r → rest → bank = 3 → i < 8 → reads (nth 0 th.hrs i)) ∧
    (r → rest → (bank = 1 ∧ 17 < i) ∨ (bank = 2 ∧ (16 ≤ i ∨ i % 4 = 3)) ∨ (bank = 3 ∧ 8 ≤ i) →
      dbgNo s (exec (.debugRegRead who) s) 4 [addrDbgRdata]) ∧
    (w → rest → bank = 0 → puts (th.set (Fin.ofNat 32 i) val)) ∧
    (w → rest → bank = 1 → i = 0 → val.toNat % 4 = 0 → puts { th with pc := val, rep := none, repNew := false, owed := 0, wait := .none }) ∧
    (w → rest → bank = 1 → i = 0 → val.toNat % 4 ≠ 0 → completes (exec (.debugRegWrite who val) s) fun u =>
      u.on addrDbgStatus fldDbgStatus_RSVD_WR = true ∧ u.threads = s.threads ∧ otherRegisters s u [addrDbgStatus]) ∧
    (w → rest → bank = 1 → i = 2 → completes (exec (.debugRegWrite who val) s) fun u => (u.thr g).isZ = th.isZ ∧ (u.thr g).pc = th.pc ∧
      otherThreads g s u) ∧
    (w → rest → bank = 2 → i = 4 → puts { th with a := th.a.set 1 (th.a[1].extractLsb' 32 48 ++ val) }) ∧
    (w → rest → bank = 3 → dbgNo s (exec (.debugRegWrite who val) s) 4 [])) ∧
  (∀ (s : State) (who : Writer) (val : Word), let g := s.dbgThr
    let th := s.thr g
    let a := s.fld addrDbgMaddr fldDbgMaddr_ADDR * 4
    let r := s.ctlGranted (s.reqBy who) false addrDbgMdata = true ∧ inScope s
    let w := mayWrite s who addrDbgMdata val ∧ inScope s
    let grant := fun k => s.granted (g / 32) th.isZ th.isSup k a
    let blk := lapBlk (g / 32) a
    (r → a < 0x100000 → grant .read = true → cleanAt s blk 4 → completes (exec (.debugMemRead who) s) fun u =>
      u.rd addrDbgMdata = BitVec.ofNat 32 (wordAt s blk) ∧ u.threads = s.threads ∧ u.mem = s.mem ∧ otherRegisters s u [addrDbgMdata]) ∧
    (r → grant .read = false ∨ (0x100000 ≤ a ∧ a < 0x08000000) → dbgNo s (exec (.debugMemRead who) s) 6 [addrDbgMdata] ∧
      completes (exec (.debugMemRead who) s) fun u => u.rd addrDbgMdata = 0) ∧
    (w → a < 0x100000 → s.grantedAll (g / 32) th.isZ th.isSup .write a 4 = true → cleanAt s blk 4 →
      completes (exec (.debugMemWrite who val) s) fun u => storesOnly s u blk (bytesLE 4 val.toNat) ∧ u.threads = s.threads ∧
        otherRegisters s u []) ∧
    (w → s.grantedAll (g / 32) th.isZ th.isSup .write a 4 = false ∨ (0x100000 ≤ a ∧ a < 0x08000000) →
      dbgNo s (exec (.debugMemWrite who val) s) 6 [])) ∧
  (∀ (s : State) (who : Writer),
    (mayWrite s who addrDbgTrcctl 0 → completes (exec (.traceEnable who 0) s) fun u => u.on addrDbgTrcctl fldDbgTrcctl_TRCEN = false ∧
      u.trcThread = none ∧ u.trace = s.trace ∧ u.threads = s.threads ∧ u.mem = s.mem ∧ otherRegisters s u [addrDbgTrcctl]) ∧
    (mayWrite s who addrDbgTrcctl 1 → inScope s → completes (exec (.traceEnable who 1) s) fun u =>
      u.on addrDbgTrcctl fldDbgTrcctl_TRCEN = true ∧ u.trcThread = some s.dbgThr ∧ u.threads = s.threads ∧ u.mem = s.mem ∧
      otherRegisters s u [addrDbgTrcctl]))
end

