-- ==== Sys2Proof/Laws/Table.lean ====
section
/-! SUPPORT. Laws of the sparse tables: what a read after a write gives, and the canonical form. -/

namespace Sys2Proof.Machine

theorem tget_terase_self {α : Type} (d : Nat → α) (t : Tbl α) (a : Nat) : tget d (terase t a) a = d a := by
  induction t with
  | nil => rfl
  | cons p r ih =>
    obtain ⟨k, v⟩ := p
    by_cases h : k = a <;> simp [terase, tget, h, ih]

theorem tget_terase_ne {α : Type} (d : Nat → α) (t : Tbl α) {a b : Nat} (h : b ≠ a) :
    tget d (terase t a) b = tget d t b := by
  induction t with
  | nil => rfl
  | cons p r ih =>
    obtain ⟨k, v⟩ := p
    by_cases hk : k = a
    · have : k ≠ b := fun e => h (by omega)
      simp [terase, tget, hk, ih]
      intro e; omega
    · simp [terase, tget, hk, ih]

theorem tget_tins_ne {α : Type} (d : Nat → α) (t : Tbl α) {a b : Nat} (x : α) (h : b ≠ a) :
    tget d (tins t a x) b = tget d t b := by
  induction t with
  | nil => simp [tins, tget]; intro e; omega
  | cons p r ih =>
    obtain ⟨k, v⟩ := p
    by_cases hk : a < k
    · simp only [tins, hk, if_true, tget]
      rw [if_neg (fun e => h e.symm)]
    · simp only [tins, hk, if_false, tget, ih]

theorem tget_tins_erased {α : Type} (d : Nat → α) (t : Tbl α) (a : Nat) (x : α) :
    tget d (tins (terase t a) a x) a = x := by
  induction t with
  | nil => simp [terase, tins, tget]
  | cons p r ih =>
    obtain ⟨k, v⟩ := p
    by_cases hk : k = a
    · simp [terase, hk, ih]
    · by_cases hl : a < k
      · simp [terase, hk, tins, hl, tget]
      · simp [terase, hk, tins, hl, tget, ih]

/-- A read of a table after an entry is set. -/
theorem tget_tset {α : Type} (d : Nat → α) (t : Tbl α) (a b : Nat) (x : α) :
    tget d (tset t a x) b = if b = a then x else tget d t b := by
  by_cases h : b = a
  · subst h; simp [tset, tget_tins_erased]
  · simp [tset, h, tget_tins_ne d _ x h, tget_terase_ne d t h]

/-- A read of a table after a canonical write. -/
theorem tget_tput {α : Type} [DecidableEq α] (d : Nat → α) (t : Tbl α) (a b : Nat) (x : α) :
    tget d (tput d t a x) b = if b = a then x else tget d t b := by
  unfold tput
  by_cases hx : x = d a
  · by_cases h : b = a
    · subst h; simp [hx, tget_terase_self]
    · simp [hx, h, tget_terase_ne d t h]
  · by_cases h : b = a
    · subst h; simp [hx, tget_tins_erased]
    · simp [hx, h, tget_tins_ne d _ x h, tget_terase_ne d t h]

theorem twfFrom_weaken {α : Type} [DecidableEq α] (d : Nat → α) {l m : Nat} (h : l ≤ m) :
    ∀ t : Tbl α, twfFrom d (some m) t = true → twfFrom d (some l) t = true
  | [], _ => rfl
  | (k, v) :: r, hw => by
    simp only [twfFrom, Bool.and_eq_true, decide_eq_true_eq] at hw ⊢
    exact ⟨⟨by omega, hw.1.2⟩, hw.2⟩

theorem twfFrom_drop {α : Type} [DecidableEq α] (d : Nat → α) (lo : Option Nat) {k : Nat} {v : α} {r : Tbl α}
    (h : twfFrom d lo ((k, v) :: r) = true) : twfFrom d lo r = true := by
  simp only [twfFrom, Bool.and_eq_true] at h
  cases lo with
  | none =>
    cases r with
    | nil => rfl
    | cons p q =>
      obtain ⟨k', v'⟩ := p
      simp only [twfFrom, Bool.and_eq_true] at h ⊢
      exact ⟨⟨trivial, h.2.1.2⟩, h.2.2⟩
  | some l => exact twfFrom_weaken d (by have := h.1.1; simp at this; omega) r h.2

theorem twfFrom_terase {α : Type} [DecidableEq α] (d : Nat → α) (a : Nat) :
    ∀ (t : Tbl α) (lo : Option Nat), twfFrom d lo t = true → twfFrom d lo (terase t a) = true
  | [], _, _ => rfl
  | (k, v) :: r, lo, h => by
    by_cases hk : k = a
    · simp only [terase, hk, if_true]
      exact twfFrom_terase d a r lo (twfFrom_drop d lo h)
    · simp only [terase, hk, if_false]
      simp only [twfFrom, Bool.and_eq_true] at h ⊢
      exact ⟨h.1, twfFrom_terase d a r _ h.2⟩

/-- No entry of a table has this key. -/
def tfree {α : Type} (a : Nat) (t : Tbl α) : Prop := ∀ p ∈ t, p.1 ≠ a

theorem tfree_terase {α : Type} (a : Nat) : ∀ t : Tbl α, tfree a (terase t a)
  | [] => by simp [tfree, terase]
  | (k, v) :: r => by
    by_cases hk : k = a
    · simpa [terase, hk] using tfree_terase a r
    · simp only [terase, hk, if_false]
      intro p hp
      rcases List.mem_cons.mp hp with h | h
      · simpa [h] using hk
      · exact tfree_terase a r p h

theorem twfFrom_tins {α : Type} [DecidableEq α] (d : Nat → α) {a : Nat} {x : α} (hx : x ≠ d a) :
    ∀ (t : Tbl α) (lo : Option Nat), tfree a t → (∀ l, lo = some l → l < a) → twfFrom d lo t = true →
      twfFrom d lo (tins t a x) = true
  | [], lo, _, hl, _ => by
    cases lo with
    | none => simp [tins, twfFrom, hx]
    | some l => simp [tins, twfFrom, hx, hl l rfl]
  | (k, v) :: r, lo, hf, hl, h => by
    have hka : k ≠ a := hf (k, v) (by simp)
    simp only [twfFrom, Bool.and_eq_true] at h
    by_cases hlt : a < k
    · simp only [tins, hlt, if_true, twfFrom, Bool.and_eq_true, decide_eq_true_eq]
      refine ⟨⟨?_, hx⟩, ⟨⟨trivial, by simpa using h.1.2⟩, h.2⟩⟩
      cases lo with
      | none => rfl
      | some l => simpa using hl l rfl
    · simp only [tins, hlt, if_false, twfFrom, Bool.and_eq_true]
      exact ⟨h.1, twfFrom_tins d hx r (some k) (fun p hp => hf p (by simp [hp])) (fun l e => by cases e; omega) h.2⟩

/-- A canonical write keeps the canonical form. -/
theorem twf_tput {α : Type} [DecidableEq α] (d : Nat → α) (t : Tbl α) (a : Nat) (x : α) (h : twf d t = true) :
    twf d (tput d t a x) = true := by
  unfold tput twf at *
  split
  · exact twfFrom_terase d a t none h
  · exact twfFrom_tins d ‹_› _ none (tfree_terase a t) (by simp) (twfFrom_terase d a t none h)

theorem twfFrom_filter {α : Type} [DecidableEq α] (d : Nat → α) (p : Nat × α → Bool) :
    ∀ (t : Tbl α) (lo : Option Nat), twfFrom d lo t = true → twfFrom d lo (t.filter p) = true
  | [], _, _ => rfl
  | (k, v) :: r, lo, h => by
    by_cases hp : p (k, v) = true
    · rw [List.filter_cons_of_pos hp]
      simp only [twfFrom, Bool.and_eq_true] at h ⊢
      exact ⟨h.1, twfFrom_filter d p r _ h.2⟩
    · rw [List.filter_cons_of_neg hp]
      exact twfFrom_filter d p r lo (twfFrom_drop d lo h)

end Sys2Proof.Machine
end

