-- ==== Sys2Proof/Laws/State.lean ====
section
/-! SUPPORT. What the named updates of State leave: one lemma for each field that an update does not change, and what a read
gives after an update. -/

namespace Sys2Proof.Machine

@[simp] theorem State.wr_pending (s : State) (a : Nat) (w : Word) : (s.wr a w).pending = s.pending := rfl
@[simp] theorem State.wr_cycle (s : State) (a : Nat) (w : Word) : (s.wr a w).cycle = s.cycle := rfl
@[simp] theorem State.wr_mem (s : State) (a : Nat) (w : Word) : (s.wr a w).mem = s.mem := rfl
@[simp] theorem State.wr_syn (s : State) (a : Nat) (w : Word) : (s.wr a w).syn = s.syn := rfl
@[simp] theorem State.wr_threads (s : State) (a : Nat) (w : Word) : (s.wr a w).threads = s.threads := rfl
@[simp] theorem State.wr_whorls (s : State) (a : Nat) (w : Word) : (s.wr a w).whorls = s.whorls := rfl
@[simp] theorem State.wr_chans (s : State) (a : Nat) (w : Word) : (s.wr a w).chans = s.chans := rfl
@[simp] theorem State.wr_xchans (s : State) (a : Nat) (w : Word) : (s.wr a w).xchans = s.xchans := rfl
@[simp] theorem State.wr_escq (s : State) (a : Nat) (w : Word) : (s.wr a w).escq = s.escq := rfl
@[simp] theorem State.wr_quietAt (s : State) (a : Nat) (w : Word) : (s.wr a w).quietAt = s.quietAt := rfl
@[simp] theorem State.wr_evNow (s : State) (a : Nat) (w : Word) : (s.wr a w).evNow = s.evNow := rfl
@[simp] theorem State.wr_swNow (s : State) (a : Nat) (w : Word) : (s.wr a w).swNow = s.swNow := rfl
@[simp] theorem State.wr_uev (s : State) (a : Nat) (w : Word) : (s.wr a w).uev = s.uev := rfl
@[simp] theorem State.wr_free (s : State) (a : Nat) (w : Word) : (s.wr a w).free = s.free := rfl
@[simp] theorem State.wr_tb (s : State) (a : Nat) (w : Word) : (s.wr a w).tb = s.tb := rfl
@[simp] theorem State.wr_shadow (s : State) (a : Nat) (w : Word) : (s.wr a w).shadow = s.shadow := rfl
@[simp] theorem State.wr_pulses (s : State) (a : Nat) (w : Word) : (s.wr a w).pulses = s.pulses := rfl
@[simp] theorem State.wr_trcThread (s : State) (a : Nat) (w : Word) : (s.wr a w).trcThread = s.trcThread := rfl
@[simp] theorem State.wr_trace (s : State) (a : Nat) (w : Word) : (s.wr a w).trace = s.trace := rfl
@[simp] theorem State.wr_hap (s : State) (a : Nat) (w : Word) : (s.wr a w).hap = s.hap := rfl
@[simp] theorem State.wr_hrspOut (s : State) (a : Nat) (w : Word) : (s.wr a w).hrspOut = s.hrspOut := rfl
@[simp] theorem State.wr_dreqOut (s : State) (a : Nat) (w : Word) : (s.wr a w).dreqOut = s.dreqOut := rfl
@[simp] theorem State.wr_bobV (s : State) (a : Nat) (w : Word) : (s.wr a w).bobV = s.bobV := rfl
@[simp] theorem State.wr_bobDyn (s : State) (a : Nat) (w : Word) : (s.wr a w).bobDyn = s.bobDyn := rfl
@[simp] theorem State.wr_bobFree (s : State) (a : Nat) (w : Word) : (s.wr a w).bobFree = s.bobFree := rfl
@[simp] theorem State.wr_lwins (s : State) (a : Nat) (w : Word) : (s.wr a w).lwins = s.lwins := rfl
@[simp] theorem State.wr_slipWait (s : State) (a : Nat) (w : Word) : (s.wr a w).slipWait = s.slipWait := rfl
@[simp] theorem State.wr_ports (s : State) (a : Nat) (w : Word) : (s.wr a w).ports = s.ports := rfl
@[simp] theorem State.wr_txq (s : State) (a : Nat) (w : Word) : (s.wr a w).txq = s.txq := rfl
@[simp] theorem State.wr_sends (s : State) (a : Nat) (w : Word) : (s.wr a w).sends = s.sends := rfl
@[simp] theorem State.wr_msgids (s : State) (a : Nat) (w : Word) : (s.wr a w).msgids = s.msgids := rfl
@[simp] theorem State.wr_rtePend (s : State) (a : Nat) (w : Word) : (s.wr a w).rtePend = s.rtePend := rfl
@[simp] theorem State.wr_srcs (s : State) (a : Nat) (w : Word) : (s.wr a w).srcs = s.srcs := rfl
@[simp] theorem State.wr_ctxs (s : State) (a : Nat) (w : Word) : (s.wr a w).ctxs = s.ctxs := rfl
@[simp] theorem State.wr_ackIn (s : State) (a : Nat) (w : Word) : (s.wr a w).ackIn = s.ackIn := rfl
@[simp] theorem State.wr_sknIn (s : State) (a : Nat) (w : Word) : (s.wr a w).sknIn = s.sknIn := rfl
@[simp] theorem State.wr_drafts (s : State) (a : Nat) (w : Word) : (s.wr a w).drafts = s.drafts := rfl
@[simp] theorem State.wr_plys (s : State) (a : Nat) (w : Word) : (s.wr a w).plys = s.plys := rfl
@[simp] theorem State.wr_skns (s : State) (a : Nat) (w : Word) : (s.wr a w).skns = s.skns := rfl
@[simp] theorem State.wr_incNew (s : State) (a : Nat) (w : Word) : (s.wr a w).incNew = s.incNew := rfl
@[simp] theorem State.wr_stepNew (s : State) (a : Nat) (w : Word) : (s.wr a w).stepNew = s.stepNew := rfl
@[simp] theorem State.wr_reelArm (s : State) (a : Nat) (w : Word) : (s.wr a w).reelArm = s.reelArm := rfl
@[simp] theorem State.wr_inc (s : State) (a : Nat) (w : Word) : (s.wr a w).inc = s.inc := rfl
@[simp] theorem State.wr_slew (s : State) (a : Nat) (w : Word) : (s.wr a w).slew = s.slew := rfl
@[simp] theorem State.wr_schLate (s : State) (a : Nat) (w : Word) : (s.wr a w).schLate = s.schLate := rfl
@[simp] theorem State.wr_rclk (s : State) (a : Nat) (w : Word) : (s.wr a w).rclk = s.rclk := rfl
@[simp] theorem State.wr_aonOld (s : State) (a : Nat) (w : Word) : (s.wr a w).aonOld = s.aonOld := rfl
@[simp] theorem State.wr_tcons (s : State) (a : Nat) (w : Word) : (s.wr a w).tcons = s.tcons := rfl
@[simp] theorem State.wr_capWait (s : State) (a : Nat) (w : Word) : (s.wr a w).capWait = s.capWait := rfl
@[simp] theorem State.wr_pins (s : State) (a : Nat) (w : Word) : (s.wr a w).pins = s.pins := rfl
@[simp] theorem State.wr_lx (s : State) (a : Nat) (w : Word) : (s.wr a w).lx = s.lx := rfl
@[simp] theorem State.wr_sleepIn (s : State) (a : Nat) (w : Word) : (s.wr a w).sleepIn = s.sleepIn := rfl
@[simp] theorem State.wr_slotKeys (s : State) (a : Nat) (w : Word) : (s.wr a w).slotKeys = s.slotKeys := rfl
@[simp] theorem State.wr_secq (s : State) (a : Nat) (w : Word) : (s.wr a w).secq = s.secq := rfl
@[simp] theorem State.wr_secLast (s : State) (a : Nat) (w : Word) : (s.wr a w).secLast = s.secLast := rfl
@[simp] theorem State.wr_keyStore (s : State) (a : Nat) (w : Word) : (s.wr a w).keyStore = s.keyStore := rfl
@[simp] theorem State.wr_sessions (s : State) (a : Nat) (w : Word) : (s.wr a w).sessions = s.sessions := rfl
@[simp] theorem State.wr_sids (s : State) (a : Nat) (w : Word) : (s.wr a w).sids = s.sids := rfl
@[simp] theorem State.wr_chal (s : State) (a : Nat) (w : Word) : (s.wr a w).chal = s.chal := rfl
@[simp] theorem State.wr_bootKem (s : State) (a : Nat) (w : Word) : (s.wr a w).bootKem = s.bootKem := rfl
@[simp] theorem State.wr_openBad (s : State) (a : Nat) (w : Word) : (s.wr a w).openBad = s.openBad := rfl
@[simp] theorem State.wr_openBar (s : State) (a : Nat) (w : Word) : (s.wr a w).openBar = s.openBar := rfl
@[simp] theorem State.wr_taken (s : State) (a : Nat) (w : Word) : (s.wr a w).taken = s.taken := rfl
@[simp] theorem State.wr_resp (s : State) (a : Nat) (w : Word) : (s.wr a w).resp = s.resp := rfl
@[simp] theorem State.wr_authAt (s : State) (a : Nat) (w : Word) : (s.wr a w).authAt = s.authAt := rfl
@[simp] theorem State.wr_authCnt (s : State) (a : Nat) (w : Word) : (s.wr a w).authCnt = s.authCnt := rfl
@[simp] theorem State.wr_meas (s : State) (a : Nat) (w : Word) : (s.wr a w).meas = s.meas := rfl
@[simp] theorem State.wr_lists (s : State) (a : Nat) (w : Word) : (s.wr a w).lists = s.lists := rfl
@[simp] theorem State.wr_fwSvn (s : State) (a : Nat) (w : Word) : (s.wr a w).fwSvn = s.fwSvn := rfl
@[simp] theorem State.wr_imgHash (s : State) (a : Nat) (w : Word) : (s.wr a w).imgHash = s.imgHash := rfl
@[simp] theorem State.wr_instKeys (s : State) (a : Nat) (w : Word) : (s.wr a w).instKeys = s.instKeys := rfl
@[simp] theorem State.wr_instGone (s : State) (a : Nat) (w : Word) : (s.wr a w).instGone = s.instGone := rfl
@[simp] theorem State.wr_otp (s : State) (a : Nat) (w : Word) : (s.wr a w).otp = s.otp := rfl
@[simp] theorem State.wr_vppOk (s : State) (a : Nat) (w : Word) : (s.wr a w).vppOk = s.vppOk := rfl
@[simp] theorem State.wr_bootsDue (s : State) (a : Nat) (w : Word) : (s.wr a w).bootsDue = s.bootsDue := rfl
@[simp] theorem State.wr_audFirst (s : State) (a : Nat) (w : Word) : (s.wr a w).audFirst = s.audFirst := rfl
@[simp] theorem State.wr_audDue (s : State) (a : Nat) (w : Word) : (s.wr a w).audDue = s.audDue := rfl
@[simp] theorem State.wr_dbg (s : State) (a : Nat) (w : Word) : (s.wr a w).dbg = s.dbg := rfl
@[simp] theorem State.wr_started (s : State) (a : Nat) (w : Word) : (s.wr a w).started = s.started := rfl
@[simp] theorem State.wr_rstCmd (s : State) (a : Nat) (w : Word) : (s.wr a w).rstCmd = s.rstCmd := rfl
@[simp] theorem State.wr_romAt (s : State) (a : Nat) (w : Word) : (s.wr a w).romAt = s.romAt := rfl
@[simp] theorem State.wr_recovLow (s : State) (a : Nat) (w : Word) : (s.wr a w).recovLow = s.recovLow := rfl
@[simp] theorem State.wr_recov (s : State) (a : Nat) (w : Word) : (s.wr a w).recov = s.recov := rfl
@[simp] theorem State.wr_supplies (s : State) (a : Nat) (w : Word) : (s.wr a w).supplies = s.supplies := rfl
@[simp] theorem State.wr_wdiv (s : State) (a : Nat) (w : Word) : (s.wr a w).wdiv = s.wdiv := rfl
@[simp] theorem State.wr_toRun (s : State) (a : Nat) (w : Word) : (s.wr a w).toRun = s.toRun := rfl
@[simp] theorem State.wr_cxpOut (s : State) (a : Nat) (w : Word) : (s.wr a w).cxpOut = s.cxpOut := rfl
@[simp] theorem State.wr_irqBy (s : State) (a : Nat) (w : Word) : (s.wr a w).irqBy = s.irqBy := rfl

@[simp] theorem State.raise_pending (s : State) (k : Nat) : (s.raise k).pending = s.pending := rfl
@[simp] theorem State.raise_cycle (s : State) (k : Nat) : (s.raise k).cycle = s.cycle := rfl
@[simp] theorem State.raise_regs (s : State) (k : Nat) : (s.raise k).regs = s.regs := rfl
@[simp] theorem State.raise_mem (s : State) (k : Nat) : (s.raise k).mem = s.mem := rfl
@[simp] theorem State.raise_syn (s : State) (k : Nat) : (s.raise k).syn = s.syn := rfl
@[simp] theorem State.raise_threads (s : State) (k : Nat) : (s.raise k).threads = s.threads := rfl
@[simp] theorem State.raise_whorls (s : State) (k : Nat) : (s.raise k).whorls = s.whorls := rfl
@[simp] theorem State.raise_chans (s : State) (k : Nat) : (s.raise k).chans = s.chans := rfl
@[simp] theorem State.raise_xchans (s : State) (k : Nat) : (s.raise k).xchans = s.xchans := rfl
@[simp] theorem State.raise_escq (s : State) (k : Nat) : (s.raise k).escq = s.escq := rfl
@[simp] theorem State.raise_quietAt (s : State) (k : Nat) : (s.raise k).quietAt = s.quietAt := rfl
@[simp] theorem State.raise_evNow (s : State) (k : Nat) : (s.raise k).evNow = s.evNow := rfl
@[simp] theorem State.raise_swNow (s : State) (k : Nat) : (s.raise k).swNow = s.swNow := rfl
@[simp] theorem State.raise_free (s : State) (k : Nat) : (s.raise k).free = s.free := rfl
@[simp] theorem State.raise_tb (s : State) (k : Nat) : (s.raise k).tb = s.tb := rfl
@[simp] theorem State.raise_shadow (s : State) (k : Nat) : (s.raise k).shadow = s.shadow := rfl
@[simp] theorem State.raise_pulses (s : State) (k : Nat) : (s.raise k).pulses = s.pulses := rfl
@[simp] theorem State.raise_trcThread (s : State) (k : Nat) : (s.raise k).trcThread = s.trcThread := rfl
@[simp] theorem State.raise_trace (s : State) (k : Nat) : (s.raise k).trace = s.trace := rfl
@[simp] theorem State.raise_hap (s : State) (k : Nat) : (s.raise k).hap = s.hap := rfl
@[simp] theorem State.raise_hrspOut (s : State) (k : Nat) : (s.raise k).hrspOut = s.hrspOut := rfl
@[simp] theorem State.raise_dreqOut (s : State) (k : Nat) : (s.raise k).dreqOut = s.dreqOut := rfl
@[simp] theorem State.raise_bobV (s : State) (k : Nat) : (s.raise k).bobV = s.bobV := rfl
@[simp] theorem State.raise_bobDyn (s : State) (k : Nat) : (s.raise k).bobDyn = s.bobDyn := rfl
@[simp] theorem State.raise_bobFree (s : State) (k : Nat) : (s.raise k).bobFree = s.bobFree := rfl
@[simp] theorem State.raise_lwins (s : State) (k : Nat) : (s.raise k).lwins = s.lwins := rfl
@[simp] theorem State.raise_slipWait (s : State) (k : Nat) : (s.raise k).slipWait = s.slipWait := rfl
@[simp] theorem State.raise_ports (s : State) (k : Nat) : (s.raise k).ports = s.ports := rfl
@[simp] theorem State.raise_txq (s : State) (k : Nat) : (s.raise k).txq = s.txq := rfl
@[simp] theorem State.raise_sends (s : State) (k : Nat) : (s.raise k).sends = s.sends := rfl
@[simp] theorem State.raise_msgids (s : State) (k : Nat) : (s.raise k).msgids = s.msgids := rfl
@[simp] theorem State.raise_rtePend (s : State) (k : Nat) : (s.raise k).rtePend = s.rtePend := rfl
@[simp] theorem State.raise_srcs (s : State) (k : Nat) : (s.raise k).srcs = s.srcs := rfl
@[simp] theorem State.raise_ctxs (s : State) (k : Nat) : (s.raise k).ctxs = s.ctxs := rfl
@[simp] theorem State.raise_ackIn (s : State) (k : Nat) : (s.raise k).ackIn = s.ackIn := rfl
@[simp] theorem State.raise_sknIn (s : State) (k : Nat) : (s.raise k).sknIn = s.sknIn := rfl
@[simp] theorem State.raise_drafts (s : State) (k : Nat) : (s.raise k).drafts = s.drafts := rfl
@[simp] theorem State.raise_plys (s : State) (k : Nat) : (s.raise k).plys = s.plys := rfl
@[simp] theorem State.raise_skns (s : State) (k : Nat) : (s.raise k).skns = s.skns := rfl
@[simp] theorem State.raise_incNew (s : State) (k : Nat) : (s.raise k).incNew = s.incNew := rfl
@[simp] theorem State.raise_stepNew (s : State) (k : Nat) : (s.raise k).stepNew = s.stepNew := rfl
@[simp] theorem State.raise_reelArm (s : State) (k : Nat) : (s.raise k).reelArm = s.reelArm := rfl
@[simp] theorem State.raise_inc (s : State) (k : Nat) : (s.raise k).inc = s.inc := rfl
@[simp] theorem State.raise_slew (s : State) (k : Nat) : (s.raise k).slew = s.slew := rfl
@[simp] theorem State.raise_schLate (s : State) (k : Nat) : (s.raise k).schLate = s.schLate := rfl
@[simp] theorem State.raise_rclk (s : State) (k : Nat) : (s.raise k).rclk = s.rclk := rfl
@[simp] theorem State.raise_aonOld (s : State) (k : Nat) : (s.raise k).aonOld = s.aonOld := rfl
@[simp] theorem State.raise_tcons (s : State) (k : Nat) : (s.raise k).tcons = s.tcons := rfl
@[simp] theorem State.raise_capWait (s : State) (k : Nat) : (s.raise k).capWait = s.capWait := rfl
@[simp] theorem State.raise_pins (s : State) (k : Nat) : (s.raise k).pins = s.pins := rfl
@[simp] theorem State.raise_lx (s : State) (k : Nat) : (s.raise k).lx = s.lx := rfl
@[simp] theorem State.raise_sleepIn (s : State) (k : Nat) : (s.raise k).sleepIn = s.sleepIn := rfl
@[simp] theorem State.raise_slotKeys (s : State) (k : Nat) : (s.raise k).slotKeys = s.slotKeys := rfl
@[simp] theorem State.raise_secq (s : State) (k : Nat) : (s.raise k).secq = s.secq := rfl
@[simp] theorem State.raise_secLast (s : State) (k : Nat) : (s.raise k).secLast = s.secLast := rfl
@[simp] theorem State.raise_keyStore (s : State) (k : Nat) : (s.raise k).keyStore = s.keyStore := rfl
@[simp] theorem State.raise_sessions (s : State) (k : Nat) : (s.raise k).sessions = s.sessions := rfl
@[simp] theorem State.raise_sids (s : State) (k : Nat) : (s.raise k).sids = s.sids := rfl
@[simp] theorem State.raise_chal (s : State) (k : Nat) : (s.raise k).chal = s.chal := rfl
@[simp] theorem State.raise_bootKem (s : State) (k : Nat) : (s.raise k).bootKem = s.bootKem := rfl
@[simp] theorem State.raise_openBad (s : State) (k : Nat) : (s.raise k).openBad = s.openBad := rfl
@[simp] theorem State.raise_openBar (s : State) (k : Nat) : (s.raise k).openBar = s.openBar := rfl
@[simp] theorem State.raise_taken (s : State) (k : Nat) : (s.raise k).taken = s.taken := rfl
@[simp] theorem State.raise_resp (s : State) (k : Nat) : (s.raise k).resp = s.resp := rfl
@[simp] theorem State.raise_authAt (s : State) (k : Nat) : (s.raise k).authAt = s.authAt := rfl
@[simp] theorem State.raise_authCnt (s : State) (k : Nat) : (s.raise k).authCnt = s.authCnt := rfl
@[simp] theorem State.raise_meas (s : State) (k : Nat) : (s.raise k).meas = s.meas := rfl
@[simp] theorem State.raise_lists (s : State) (k : Nat) : (s.raise k).lists = s.lists := rfl
@[simp] theorem State.raise_fwSvn (s : State) (k : Nat) : (s.raise k).fwSvn = s.fwSvn := rfl
@[simp] theorem State.raise_imgHash (s : State) (k : Nat) : (s.raise k).imgHash = s.imgHash := rfl
@[simp] theorem State.raise_instKeys (s : State) (k : Nat) : (s.raise k).instKeys = s.instKeys := rfl
@[simp] theorem State.raise_instGone (s : State) (k : Nat) : (s.raise k).instGone = s.instGone := rfl
@[simp] theorem State.raise_otp (s : State) (k : Nat) : (s.raise k).otp = s.otp := rfl
@[simp] theorem State.raise_vppOk (s : State) (k : Nat) : (s.raise k).vppOk = s.vppOk := rfl
@[simp] theorem State.raise_bootsDue (s : State) (k : Nat) : (s.raise k).bootsDue = s.bootsDue := rfl
@[simp] theorem State.raise_audFirst (s : State) (k : Nat) : (s.raise k).audFirst = s.audFirst := rfl
@[simp] theorem State.raise_audDue (s : State) (k : Nat) : (s.raise k).audDue = s.audDue := rfl
@[simp] theorem State.raise_dbg (s : State) (k : Nat) : (s.raise k).dbg = s.dbg := rfl
@[simp] theorem State.raise_started (s : State) (k : Nat) : (s.raise k).started = s.started := rfl
@[simp] theorem State.raise_rstCmd (s : State) (k : Nat) : (s.raise k).rstCmd = s.rstCmd := rfl
@[simp] theorem State.raise_romAt (s : State) (k : Nat) : (s.raise k).romAt = s.romAt := rfl
@[simp] theorem State.raise_recovLow (s : State) (k : Nat) : (s.raise k).recovLow = s.recovLow := rfl
@[simp] theorem State.raise_recov (s : State) (k : Nat) : (s.raise k).recov = s.recov := rfl
@[simp] theorem State.raise_supplies (s : State) (k : Nat) : (s.raise k).supplies = s.supplies := rfl
@[simp] theorem State.raise_wdiv (s : State) (k : Nat) : (s.raise k).wdiv = s.wdiv := rfl
@[simp] theorem State.raise_toRun (s : State) (k : Nat) : (s.raise k).toRun = s.toRun := rfl
@[simp] theorem State.raise_cxpOut (s : State) (k : Nat) : (s.raise k).cxpOut = s.cxpOut := rfl
@[simp] theorem State.raise_irqBy (s : State) (k : Nat) : (s.raise k).irqBy = s.irqBy := rfl

@[simp] theorem State.setThr_pending (s : State) (g : Nat) (x : Thread) : (s.setThr g x).pending = s.pending := rfl
@[simp] theorem State.setThr_cycle (s : State) (g : Nat) (x : Thread) : (s.setThr g x).cycle = s.cycle := rfl
@[simp] theorem State.setThr_regs (s : State) (g : Nat) (x : Thread) : (s.setThr g x).regs = s.regs := rfl
@[simp] theorem State.setThr_mem (s : State) (g : Nat) (x : Thread) : (s.setThr g x).mem = s.mem := rfl
@[simp] theorem State.setThr_syn (s : State) (g : Nat) (x : Thread) : (s.setThr g x).syn = s.syn := rfl
@[simp] theorem State.setThr_whorls (s : State) (g : Nat) (x : Thread) : (s.setThr g x).whorls = s.whorls := rfl
@[simp] theorem State.setThr_chans (s : State) (g : Nat) (x : Thread) : (s.setThr g x).chans = s.chans := rfl
@[simp] theorem State.setThr_xchans (s : State) (g : Nat) (x : Thread) : (s.setThr g x).xchans = s.xchans := rfl
@[simp] theorem State.setThr_escq (s : State) (g : Nat) (x : Thread) : (s.setThr g x).escq = s.escq := rfl
@[simp] theorem State.setThr_quietAt (s : State) (g : Nat) (x : Thread) : (s.setThr g x).quietAt = s.quietAt := rfl
@[simp] theorem State.setThr_evNow (s : State) (g : Nat) (x : Thread) : (s.setThr g x).evNow = s.evNow := rfl
@[simp] theorem State.setThr_swNow (s : State) (g : Nat) (x : Thread) : (s.setThr g x).swNow = s.swNow := rfl
@[simp] theorem State.setThr_uev (s : State) (g : Nat) (x : Thread) : (s.setThr g x).uev = s.uev := rfl
@[simp] theorem State.setThr_free (s : State) (g : Nat) (x : Thread) : (s.setThr g x).free = s.free := rfl
@[simp] theorem State.setThr_tb (s : State) (g : Nat) (x : Thread) : (s.setThr g x).tb = s.tb := rfl
@[simp] theorem State.setThr_shadow (s : State) (g : Nat) (x : Thread) : (s.setThr g x).shadow = s.shadow := rfl
@[simp] theorem State.setThr_pulses (s : State) (g : Nat) (x : Thread) : (s.setThr g x).pulses = s.pulses := rfl
@[simp] theorem State.setThr_trcThread (s : State) (g : Nat) (x : Thread) : (s.setThr g x).trcThread = s.trcThread := rfl
@[simp] theorem State.setThr_trace (s : State) (g : Nat) (x : Thread) : (s.setThr g x).trace = s.trace := rfl
@[simp] theorem State.setThr_hap (s : State) (g : Nat) (x : Thread) : (s.setThr g x).hap = s.hap := rfl
@[simp] theorem State.setThr_hrspOut (s : State) (g : Nat) (x : Thread) : (s.setThr g x).hrspOut = s.hrspOut := rfl
@[simp] theorem State.setThr_dreqOut (s : State) (g : Nat) (x : Thread) : (s.setThr g x).dreqOut = s.dreqOut := rfl
@[simp] theorem State.setThr_bobV (s : State) (g : Nat) (x : Thread) : (s.setThr g x).bobV = s.bobV := rfl
@[simp] theorem State.setThr_bobDyn (s : State) (g : Nat) (x : Thread) : (s.setThr g x).bobDyn = s.bobDyn := rfl
@[simp] theorem State.setThr_bobFree (s : State) (g : Nat) (x : Thread) : (s.setThr g x).bobFree = s.bobFree := rfl
@[simp] theorem State.setThr_lwins (s : State) (g : Nat) (x : Thread) : (s.setThr g x).lwins = s.lwins := rfl
@[simp] theorem State.setThr_slipWait (s : State) (g : Nat) (x : Thread) : (s.setThr g x).slipWait = s.slipWait := rfl
@[simp] theorem State.setThr_ports (s : State) (g : Nat) (x : Thread) : (s.setThr g x).ports = s.ports := rfl
@[simp] theorem State.setThr_txq (s : State) (g : Nat) (x : Thread) : (s.setThr g x).txq = s.txq := rfl
@[simp] theorem State.setThr_sends (s : State) (g : Nat) (x : Thread) : (s.setThr g x).sends = s.sends := rfl
@[simp] theorem State.setThr_msgids (s : State) (g : Nat) (x : Thread) : (s.setThr g x).msgids = s.msgids := rfl
@[simp] theorem State.setThr_rtePend (s : State) (g : Nat) (x : Thread) : (s.setThr g x).rtePend = s.rtePend := rfl
@[simp] theorem State.setThr_srcs (s : State) (g : Nat) (x : Thread) : (s.setThr g x).srcs = s.srcs := rfl
@[simp] theorem State.setThr_ctxs (s : State) (g : Nat) (x : Thread) : (s.setThr g x).ctxs = s.ctxs := rfl
@[simp] theorem State.setThr_ackIn (s : State) (g : Nat) (x : Thread) : (s.setThr g x).ackIn = s.ackIn := rfl
@[simp] theorem State.setThr_sknIn (s : State) (g : Nat) (x : Thread) : (s.setThr g x).sknIn = s.sknIn := rfl
@[simp] theorem State.setThr_drafts (s : State) (g : Nat) (x : Thread) : (s.setThr g x).drafts = s.drafts := rfl
@[simp] theorem State.setThr_plys (s : State) (g : Nat) (x : Thread) : (s.setThr g x).plys = s.plys := rfl
@[simp] theorem State.setThr_skns (s : State) (g : Nat) (x : Thread) : (s.setThr g x).skns = s.skns := rfl
@[simp] theorem State.setThr_incNew (s : State) (g : Nat) (x : Thread) : (s.setThr g x).incNew = s.incNew := rfl
@[simp] theorem State.setThr_stepNew (s : State) (g : Nat) (x : Thread) : (s.setThr g x).stepNew = s.stepNew := rfl
@[simp] theorem State.setThr_reelArm (s : State) (g : Nat) (x : Thread) : (s.setThr g x).reelArm = s.reelArm := rfl
@[simp] theorem State.setThr_inc (s : State) (g : Nat) (x : Thread) : (s.setThr g x).inc = s.inc := rfl
@[simp] theorem State.setThr_slew (s : State) (g : Nat) (x : Thread) : (s.setThr g x).slew = s.slew := rfl
@[simp] theorem State.setThr_schLate (s : State) (g : Nat) (x : Thread) : (s.setThr g x).schLate = s.schLate := rfl
@[simp] theorem State.setThr_rclk (s : State) (g : Nat) (x : Thread) : (s.setThr g x).rclk = s.rclk := rfl
@[simp] theorem State.setThr_aonOld (s : State) (g : Nat) (x : Thread) : (s.setThr g x).aonOld = s.aonOld := rfl
@[simp] theorem State.setThr_tcons (s : State) (g : Nat) (x : Thread) : (s.setThr g x).tcons = s.tcons := rfl
@[simp] theorem State.setThr_capWait (s : State) (g : Nat) (x : Thread) : (s.setThr g x).capWait = s.capWait := rfl
@[simp] theorem State.setThr_pins (s : State) (g : Nat) (x : Thread) : (s.setThr g x).pins = s.pins := rfl
@[simp] theorem State.setThr_lx (s : State) (g : Nat) (x : Thread) : (s.setThr g x).lx = s.lx := rfl
@[simp] theorem State.setThr_sleepIn (s : State) (g : Nat) (x : Thread) : (s.setThr g x).sleepIn = s.sleepIn := rfl
@[simp] theorem State.setThr_slotKeys (s : State) (g : Nat) (x : Thread) : (s.setThr g x).slotKeys = s.slotKeys := rfl
@[simp] theorem State.setThr_secq (s : State) (g : Nat) (x : Thread) : (s.setThr g x).secq = s.secq := rfl
@[simp] theorem State.setThr_secLast (s : State) (g : Nat) (x : Thread) : (s.setThr g x).secLast = s.secLast := rfl
@[simp] theorem State.setThr_keyStore (s : State) (g : Nat) (x : Thread) : (s.setThr g x).keyStore = s.keyStore := rfl
@[simp] theorem State.setThr_sessions (s : State) (g : Nat) (x : Thread) : (s.setThr g x).sessions = s.sessions := rfl
@[simp] theorem State.setThr_sids (s : State) (g : Nat) (x : Thread) : (s.setThr g x).sids = s.sids := rfl
@[simp] theorem State.setThr_chal (s : State) (g : Nat) (x : Thread) : (s.setThr g x).chal = s.chal := rfl
@[simp] theorem State.setThr_bootKem (s : State) (g : Nat) (x : Thread) : (s.setThr g x).bootKem = s.bootKem := rfl
@[simp] theorem State.setThr_openBad (s : State) (g : Nat) (x : Thread) : (s.setThr g x).openBad = s.openBad := rfl
@[simp] theorem State.setThr_openBar (s : State) (g : Nat) (x : Thread) : (s.setThr g x).openBar = s.openBar := rfl
@[simp] theorem State.setThr_taken (s : State) (g : Nat) (x : Thread) : (s.setThr g x).taken = s.taken := rfl
@[simp] theorem State.setThr_resp (s : State) (g : Nat) (x : Thread) : (s.setThr g x).resp = s.resp := rfl
@[simp] theorem State.setThr_authAt (s : State) (g : Nat) (x : Thread) : (s.setThr g x).authAt = s.authAt := rfl
@[simp] theorem State.setThr_authCnt (s : State) (g : Nat) (x : Thread) : (s.setThr g x).authCnt = s.authCnt := rfl
@[simp] theorem State.setThr_meas (s : State) (g : Nat) (x : Thread) : (s.setThr g x).meas = s.meas := rfl
@[simp] theorem State.setThr_lists (s : State) (g : Nat) (x : Thread) : (s.setThr g x).lists = s.lists := rfl
@[simp] theorem State.setThr_fwSvn (s : State) (g : Nat) (x : Thread) : (s.setThr g x).fwSvn = s.fwSvn := rfl
@[simp] theorem State.setThr_imgHash (s : State) (g : Nat) (x : Thread) : (s.setThr g x).imgHash = s.imgHash := rfl
@[simp] theorem State.setThr_instKeys (s : State) (g : Nat) (x : Thread) : (s.setThr g x).instKeys = s.instKeys := rfl
@[simp] theorem State.setThr_instGone (s : State) (g : Nat) (x : Thread) : (s.setThr g x).instGone = s.instGone := rfl
@[simp] theorem State.setThr_otp (s : State) (g : Nat) (x : Thread) : (s.setThr g x).otp = s.otp := rfl
@[simp] theorem State.setThr_vppOk (s : State) (g : Nat) (x : Thread) : (s.setThr g x).vppOk = s.vppOk := rfl
@[simp] theorem State.setThr_bootsDue (s : State) (g : Nat) (x : Thread) : (s.setThr g x).bootsDue = s.bootsDue := rfl
@[simp] theorem State.setThr_audFirst (s : State) (g : Nat) (x : Thread) : (s.setThr g x).audFirst = s.audFirst := rfl
@[simp] theorem State.setThr_audDue (s : State) (g : Nat) (x : Thread) : (s.setThr g x).audDue = s.audDue := rfl
@[simp] theorem State.setThr_dbg (s : State) (g : Nat) (x : Thread) : (s.setThr g x).dbg = s.dbg := rfl
@[simp] theorem State.setThr_started (s : State) (g : Nat) (x : Thread) : (s.setThr g x).started = s.started := rfl
@[simp] theorem State.setThr_rstCmd (s : State) (g : Nat) (x : Thread) : (s.setThr g x).rstCmd = s.rstCmd := rfl
@[simp] theorem State.setThr_romAt (s : State) (g : Nat) (x : Thread) : (s.setThr g x).romAt = s.romAt := rfl
@[simp] theorem State.setThr_recovLow (s : State) (g : Nat) (x : Thread) : (s.setThr g x).recovLow = s.recovLow := rfl
@[simp] theorem State.setThr_recov (s : State) (g : Nat) (x : Thread) : (s.setThr g x).recov = s.recov := rfl
@[simp] theorem State.setThr_supplies (s : State) (g : Nat) (x : Thread) : (s.setThr g x).supplies = s.supplies := rfl
@[simp] theorem State.setThr_wdiv (s : State) (g : Nat) (x : Thread) : (s.setThr g x).wdiv = s.wdiv := rfl
@[simp] theorem State.setThr_toRun (s : State) (g : Nat) (x : Thread) : (s.setThr g x).toRun = s.toRun := rfl
@[simp] theorem State.setThr_cxpOut (s : State) (g : Nat) (x : Thread) : (s.setThr g x).cxpOut = s.cxpOut := rfl
@[simp] theorem State.setThr_irqBy (s : State) (g : Nat) (x : Thread) : (s.setThr g x).irqBy = s.irqBy := rfl

@[simp] theorem State.modThr_pending (s : State) (g : Nat) (f : Thread → Thread) : (s.modThr g f).pending = s.pending := rfl
@[simp] theorem State.modThr_cycle (s : State) (g : Nat) (f : Thread → Thread) : (s.modThr g f).cycle = s.cycle := rfl
@[simp] theorem State.modThr_regs (s : State) (g : Nat) (f : Thread → Thread) : (s.modThr g f).regs = s.regs := rfl
@[simp] theorem State.modThr_mem (s : State) (g : Nat) (f : Thread → Thread) : (s.modThr g f).mem = s.mem := rfl
@[simp] theorem State.modThr_syn (s : State) (g : Nat) (f : Thread → Thread) : (s.modThr g f).syn = s.syn := rfl
@[simp] theorem State.modThr_whorls (s : State) (g : Nat) (f : Thread → Thread) : (s.modThr g f).whorls = s.whorls := rfl
@[simp] theorem State.modThr_chans (s : State) (g : Nat) (f : Thread → Thread) : (s.modThr g f).chans = s.chans := rfl
@[simp] theorem State.modThr_xchans (s : State) (g : Nat) (f : Thread → Thread) : (s.modThr g f).xchans = s.xchans := rfl
@[simp] theorem State.modThr_escq (s : State) (g : Nat) (f : Thread → Thread) : (s.modThr g f).escq = s.escq := rfl
@[simp] theorem State.modThr_quietAt (s : State) (g : Nat) (f : Thread → Thread) : (s.modThr g f).quietAt = s.quietAt := rfl
@[simp] theorem State.modThr_evNow (s : State) (g : Nat) (f : Thread → Thread) : (s.modThr g f).evNow = s.evNow := rfl
@[simp] theorem State.modThr_swNow (s : State) (g : Nat) (f : Thread → Thread) : (s.modThr g f).swNow = s.swNow := rfl
@[simp] theorem State.modThr_uev (s : State) (g : Nat) (f : Thread → Thread) : (s.modThr g f).uev = s.uev := rfl
@[simp] theorem State.modThr_free (s : State) (g : Nat) (f : Thread → Thread) : (s.modThr g f).free = s.free := rfl
@[simp] theorem State.modThr_tb (s : State) (g : Nat) (f : Thread → Thread) : (s.modThr g f).tb = s.tb := rfl
@[simp] theorem State.modThr_shadow (s : State) (g : Nat) (f : Thread → Thread) : (s.modThr g f).shadow = s.shadow := rfl
@[simp] theorem State.modThr_pulses (s : State) (g : Nat) (f : Thread → Thread) : (s.modThr g f).pulses = s.pulses := rfl
@[simp] theorem State.modThr_trcThread (s : State) (g : Nat) (f : Thread → Thread) : (s.modThr g f).trcThread = s.trcThread := rfl
@[simp] theorem State.modThr_trace (s : State) (g : Nat) (f : Thread → Thread) : (s.modThr g f).trace = s.trace := rfl
@[simp] theorem State.modThr_hap (s : State) (g : Nat) (f : Thread → Thread) : (s.modThr g f).hap = s.hap := rfl
@[simp] theorem State.modThr_hrspOut (s : State) (g : Nat) (f : Thread → Thread) : (s.modThr g f).hrspOut = s.hrspOut := rfl
@[simp] theorem State.modThr_dreqOut (s : State) (g : Nat) (f : Thread → Thread) : (s.modThr g f).dreqOut = s.dreqOut := rfl
@[simp] theorem State.modThr_bobV (s : State) (g : Nat) (f : Thread → Thread) : (s.modThr g f).bobV = s.bobV := rfl
@[simp] theorem State.modThr_bobDyn (s : State) (g : Nat) (f : Thread → Thread) : (s.modThr g f).bobDyn = s.bobDyn := rfl
@[simp] theorem State.modThr_bobFree (s : State) (g : Nat) (f : Thread → Thread) : (s.modThr g f).bobFree = s.bobFree := rfl
@[simp] theorem State.modThr_lwins (s : State) (g : Nat) (f : Thread → Thread) : (s.modThr g f).lwins = s.lwins := rfl
@[simp] theorem State.modThr_slipWait (s : State) (g : Nat) (f : Thread → Thread) : (s.modThr g f).slipWait = s.slipWait := rfl
@[simp] theorem State.modThr_ports (s : State) (g : Nat) (f : Thread → Thread) : (s.modThr g f).ports = s.ports := rfl
@[simp] theorem State.modThr_txq (s : State) (g : Nat) (f : Thread → Thread) : (s.modThr g f).txq = s.txq := rfl
@[simp] theorem State.modThr_sends (s : State) (g : Nat) (f : Thread → Thread) : (s.modThr g f).sends = s.sends := rfl
@[simp] theorem State.modThr_msgids (s : State) (g : Nat) (f : Thread → Thread) : (s.modThr g f).msgids = s.msgids := rfl
@[simp] theorem State.modThr_rtePend (s : State) (g : Nat) (f : Thread → Thread) : (s.modThr g f).rtePend = s.rtePend := rfl
@[simp] theorem State.modThr_srcs (s : State) (g : Nat) (f : Thread → Thread) : (s.modThr g f).srcs = s.srcs := rfl
@[simp] theorem State.modThr_ctxs (s : State) (g : Nat) (f : Thread → Thread) : (s.modThr g f).ctxs = s.ctxs := rfl
@[simp] theorem State.modThr_ackIn (s : State) (g : Nat) (f : Thread → Thread) : (s.modThr g f).ackIn = s.ackIn := rfl
@[simp] theorem State.modThr_sknIn (s : State) (g : Nat) (f : Thread → Thread) : (s.modThr g f).sknIn = s.sknIn := rfl
@[simp] theorem State.modThr_drafts (s : State) (g : Nat) (f : Thread → Thread) : (s.modThr g f).drafts = s.drafts := rfl
@[simp] theorem State.modThr_plys (s : State) (g : Nat) (f : Thread → Thread) : (s.modThr g f).plys = s.plys := rfl
@[simp] theorem State.modThr_skns (s : State) (g : Nat) (f : Thread → Thread) : (s.modThr g f).skns = s.skns := rfl
@[simp] theorem State.modThr_incNew (s : State) (g : Nat) (f : Thread → Thread) : (s.modThr g f).incNew = s.incNew := rfl
@[simp] theorem State.modThr_stepNew (s : State) (g : Nat) (f : Thread → Thread) : (s.modThr g f).stepNew = s.stepNew := rfl
@[simp] theorem State.modThr_reelArm (s : State) (g : Nat) (f : Thread → Thread) : (s.modThr g f).reelArm = s.reelArm := rfl
@[simp] theorem State.modThr_inc (s : State) (g : Nat) (f : Thread → Thread) : (s.modThr g f).inc = s.inc := rfl
@[simp] theorem State.modThr_slew (s : State) (g : Nat) (f : Thread → Thread) : (s.modThr g f).slew = s.slew := rfl
@[simp] theorem State.modThr_schLate (s : State) (g : Nat) (f : Thread → Thread) : (s.modThr g f).schLate = s.schLate := rfl
@[simp] theorem State.modThr_rclk (s : State) (g : Nat) (f : Thread → Thread) : (s.modThr g f).rclk = s.rclk := rfl
@[simp] theorem State.modThr_aonOld (s : State) (g : Nat) (f : Thread → Thread) : (s.modThr g f).aonOld = s.aonOld := rfl
@[simp] theorem State.modThr_tcons (s : State) (g : Nat) (f : Thread → Thread) : (s.modThr g f).tcons = s.tcons := rfl
@[simp] theorem State.modThr_capWait (s : State) (g : Nat) (f : Thread → Thread) : (s.modThr g f).capWait = s.capWait := rfl
@[simp] theorem State.modThr_pins (s : State) (g : Nat) (f : Thread → Thread) : (s.modThr g f).pins = s.pins := rfl
@[simp] theorem State.modThr_lx (s : State) (g : Nat) (f : Thread → Thread) : (s.modThr g f).lx = s.lx := rfl
@[simp] theorem State.modThr_sleepIn (s : State) (g : Nat) (f : Thread → Thread) : (s.modThr g f).sleepIn = s.sleepIn := rfl
@[simp] theorem State.modThr_slotKeys (s : State) (g : Nat) (f : Thread → Thread) : (s.modThr g f).slotKeys = s.slotKeys := rfl
@[simp] theorem State.modThr_secq (s : State) (g : Nat) (f : Thread → Thread) : (s.modThr g f).secq = s.secq := rfl
@[simp] theorem State.modThr_secLast (s : State) (g : Nat) (f : Thread → Thread) : (s.modThr g f).secLast = s.secLast := rfl
@[simp] theorem State.modThr_keyStore (s : State) (g : Nat) (f : Thread → Thread) : (s.modThr g f).keyStore = s.keyStore := rfl
@[simp] theorem State.modThr_sessions (s : State) (g : Nat) (f : Thread → Thread) : (s.modThr g f).sessions = s.sessions := rfl
@[simp] theorem State.modThr_sids (s : State) (g : Nat) (f : Thread → Thread) : (s.modThr g f).sids = s.sids := rfl
@[simp] theorem State.modThr_chal (s : State) (g : Nat) (f : Thread → Thread) : (s.modThr g f).chal = s.chal := rfl
@[simp] theorem State.modThr_bootKem (s : State) (g : Nat) (f : Thread → Thread) : (s.modThr g f).bootKem = s.bootKem := rfl
@[simp] theorem State.modThr_openBad (s : State) (g : Nat) (f : Thread → Thread) : (s.modThr g f).openBad = s.openBad := rfl
@[simp] theorem State.modThr_openBar (s : State) (g : Nat) (f : Thread → Thread) : (s.modThr g f).openBar = s.openBar := rfl
@[simp] theorem State.modThr_taken (s : State) (g : Nat) (f : Thread → Thread) : (s.modThr g f).taken = s.taken := rfl
@[simp] theorem State.modThr_resp (s : State) (g : Nat) (f : Thread → Thread) : (s.modThr g f).resp = s.resp := rfl
@[simp] theorem State.modThr_authAt (s : State) (g : Nat) (f : Thread → Thread) : (s.modThr g f).authAt = s.authAt := rfl
@[simp] theorem State.modThr_authCnt (s : State) (g : Nat) (f : Thread → Thread) : (s.modThr g f).authCnt = s.authCnt := rfl
@[simp] theorem State.modThr_meas (s : State) (g : Nat) (f : Thread → Thread) : (s.modThr g f).meas = s.meas := rfl
@[simp] theorem State.modThr_lists (s : State) (g : Nat) (f : Thread → Thread) : (s.modThr g f).lists = s.lists := rfl
@[simp] theorem State.modThr_fwSvn (s : State) (g : Nat) (f : Thread → Thread) : (s.modThr g f).fwSvn = s.fwSvn := rfl
@[simp] theorem State.modThr_imgHash (s : State) (g : Nat) (f : Thread → Thread) : (s.modThr g f).imgHash = s.imgHash := rfl
@[simp] theorem State.modThr_instKeys (s : State) (g : Nat) (f : Thread → Thread) : (s.modThr g f).instKeys = s.instKeys := rfl
@[simp] theorem State.modThr_instGone (s : State) (g : Nat) (f : Thread → Thread) : (s.modThr g f).instGone = s.instGone := rfl
@[simp] theorem State.modThr_otp (s : State) (g : Nat) (f : Thread → Thread) : (s.modThr g f).otp = s.otp := rfl
@[simp] theorem State.modThr_vppOk (s : State) (g : Nat) (f : Thread → Thread) : (s.modThr g f).vppOk = s.vppOk := rfl
@[simp] theorem State.modThr_bootsDue (s : State) (g : Nat) (f : Thread → Thread) : (s.modThr g f).bootsDue = s.bootsDue := rfl
@[simp] theorem State.modThr_audFirst (s : State) (g : Nat) (f : Thread → Thread) : (s.modThr g f).audFirst = s.audFirst := rfl
@[simp] theorem State.modThr_audDue (s : State) (g : Nat) (f : Thread → Thread) : (s.modThr g f).audDue = s.audDue := rfl
@[simp] theorem State.modThr_dbg (s : State) (g : Nat) (f : Thread → Thread) : (s.modThr g f).dbg = s.dbg := rfl
@[simp] theorem State.modThr_started (s : State) (g : Nat) (f : Thread → Thread) : (s.modThr g f).started = s.started := rfl
@[simp] theorem State.modThr_rstCmd (s : State) (g : Nat) (f : Thread → Thread) : (s.modThr g f).rstCmd = s.rstCmd := rfl
@[simp] theorem State.modThr_romAt (s : State) (g : Nat) (f : Thread → Thread) : (s.modThr g f).romAt = s.romAt := rfl
@[simp] theorem State.modThr_recovLow (s : State) (g : Nat) (f : Thread → Thread) : (s.modThr g f).recovLow = s.recovLow := rfl
@[simp] theorem State.modThr_recov (s : State) (g : Nat) (f : Thread → Thread) : (s.modThr g f).recov = s.recov := rfl
@[simp] theorem State.modThr_supplies (s : State) (g : Nat) (f : Thread → Thread) : (s.modThr g f).supplies = s.supplies := rfl
@[simp] theorem State.modThr_wdiv (s : State) (g : Nat) (f : Thread → Thread) : (s.modThr g f).wdiv = s.wdiv := rfl
@[simp] theorem State.modThr_toRun (s : State) (g : Nat) (f : Thread → Thread) : (s.modThr g f).toRun = s.toRun := rfl
@[simp] theorem State.modThr_cxpOut (s : State) (g : Nat) (f : Thread → Thread) : (s.modThr g f).cxpOut = s.cxpOut := rfl
@[simp] theorem State.modThr_irqBy (s : State) (g : Nat) (f : Thread → Thread) : (s.modThr g f).irqBy = s.irqBy := rfl

@[simp] theorem State.modWhl_pending (s : State) (n : Nat) (f : Whorl → Whorl) : (s.modWhl n f).pending = s.pending := rfl
@[simp] theorem State.modWhl_cycle (s : State) (n : Nat) (f : Whorl → Whorl) : (s.modWhl n f).cycle = s.cycle := rfl
@[simp] theorem State.modWhl_regs (s : State) (n : Nat) (f : Whorl → Whorl) : (s.modWhl n f).regs = s.regs := rfl
@[simp] theorem State.modWhl_mem (s : State) (n : Nat) (f : Whorl → Whorl) : (s.modWhl n f).mem = s.mem := rfl
@[simp] theorem State.modWhl_syn (s : State) (n : Nat) (f : Whorl → Whorl) : (s.modWhl n f).syn = s.syn := rfl
@[simp] theorem State.modWhl_threads (s : State) (n : Nat) (f : Whorl → Whorl) : (s.modWhl n f).threads = s.threads := rfl
@[simp] theorem State.modWhl_chans (s : State) (n : Nat) (f : Whorl → Whorl) : (s.modWhl n f).chans = s.chans := rfl
@[simp] theorem State.modWhl_xchans (s : State) (n : Nat) (f : Whorl → Whorl) : (s.modWhl n f).xchans = s.xchans := rfl
@[simp] theorem State.modWhl_escq (s : State) (n : Nat) (f : Whorl → Whorl) : (s.modWhl n f).escq = s.escq := rfl
@[simp] theorem State.modWhl_quietAt (s : State) (n : Nat) (f : Whorl → Whorl) : (s.modWhl n f).quietAt = s.quietAt := rfl
@[simp] theorem State.modWhl_evNow (s : State) (n : Nat) (f : Whorl → Whorl) : (s.modWhl n f).evNow = s.evNow := rfl
@[simp] theorem State.modWhl_swNow (s : State) (n : Nat) (f : Whorl → Whorl) : (s.modWhl n f).swNow = s.swNow := rfl
@[simp] theorem State.modWhl_uev (s : State) (n : Nat) (f : Whorl → Whorl) : (s.modWhl n f).uev = s.uev := rfl
@[simp] theorem State.modWhl_free (s : State) (n : Nat) (f : Whorl → Whorl) : (s.modWhl n f).free = s.free := rfl
@[simp] theorem State.modWhl_tb (s : State) (n : Nat) (f : Whorl → Whorl) : (s.modWhl n f).tb = s.tb := rfl
@[simp] theorem State.modWhl_shadow (s : State) (n : Nat) (f : Whorl → Whorl) : (s.modWhl n f).shadow = s.shadow := rfl
@[simp] theorem State.modWhl_pulses (s : State) (n : Nat) (f : Whorl → Whorl) : (s.modWhl n f).pulses = s.pulses := rfl
@[simp] theorem State.modWhl_trcThread (s : State) (n : Nat) (f : Whorl → Whorl) : (s.modWhl n f).trcThread = s.trcThread := rfl
@[simp] theorem State.modWhl_trace (s : State) (n : Nat) (f : Whorl → Whorl) : (s.modWhl n f).trace = s.trace := rfl
@[simp] theorem State.modWhl_hap (s : State) (n : Nat) (f : Whorl → Whorl) : (s.modWhl n f).hap = s.hap := rfl
@[simp] theorem State.modWhl_hrspOut (s : State) (n : Nat) (f : Whorl → Whorl) : (s.modWhl n f).hrspOut = s.hrspOut := rfl
@[simp] theorem State.modWhl_dreqOut (s : State) (n : Nat) (f : Whorl → Whorl) : (s.modWhl n f).dreqOut = s.dreqOut := rfl
@[simp] theorem State.modWhl_bobV (s : State) (n : Nat) (f : Whorl → Whorl) : (s.modWhl n f).bobV = s.bobV := rfl
@[simp] theorem State.modWhl_bobDyn (s : State) (n : Nat) (f : Whorl → Whorl) : (s.modWhl n f).bobDyn = s.bobDyn := rfl
@[simp] theorem State.modWhl_bobFree (s : State) (n : Nat) (f : Whorl → Whorl) : (s.modWhl n f).bobFree = s.bobFree := rfl
@[simp] theorem State.modWhl_lwins (s : State) (n : Nat) (f : Whorl → Whorl) : (s.modWhl n f).lwins = s.lwins := rfl
@[simp] theorem State.modWhl_slipWait (s : State) (n : Nat) (f : Whorl → Whorl) : (s.modWhl n f).slipWait = s.slipWait := rfl
@[simp] theorem State.modWhl_ports (s : State) (n : Nat) (f : Whorl → Whorl) : (s.modWhl n f).ports = s.ports := rfl
@[simp] theorem State.modWhl_txq (s : State) (n : Nat) (f : Whorl → Whorl) : (s.modWhl n f).txq = s.txq := rfl
@[simp] theorem State.modWhl_sends (s : State) (n : Nat) (f : Whorl → Whorl) : (s.modWhl n f).sends = s.sends := rfl
@[simp] theorem State.modWhl_msgids (s : State) (n : Nat) (f : Whorl → Whorl) : (s.modWhl n f).msgids = s.msgids := rfl
@[simp] theorem State.modWhl_rtePend (s : State) (n : Nat) (f : Whorl → Whorl) : (s.modWhl n f).rtePend = s.rtePend := rfl
@[simp] theorem State.modWhl_srcs (s : State) (n : Nat) (f : Whorl → Whorl) : (s.modWhl n f).srcs = s.srcs := rfl
@[simp] theorem State.modWhl_ctxs (s : State) (n : Nat) (f : Whorl → Whorl) : (s.modWhl n f).ctxs = s.ctxs := rfl
@[simp] theorem State.modWhl_ackIn (s : State) (n : Nat) (f : Whorl → Whorl) : (s.modWhl n f).ackIn = s.ackIn := rfl
@[simp] theorem State.modWhl_sknIn (s : State) (n : Nat) (f : Whorl → Whorl) : (s.modWhl n f).sknIn = s.sknIn := rfl
@[simp] theorem State.modWhl_drafts (s : State) (n : Nat) (f : Whorl → Whorl) : (s.modWhl n f).drafts = s.drafts := rfl
@[simp] theorem State.modWhl_plys (s : State) (n : Nat) (f : Whorl → Whorl) : (s.modWhl n f).plys = s.plys := rfl
@[simp] theorem State.modWhl_skns (s : State) (n : Nat) (f : Whorl → Whorl) : (s.modWhl n f).skns = s.skns := rfl
@[simp] theorem State.modWhl_incNew (s : State) (n : Nat) (f : Whorl → Whorl) : (s.modWhl n f).incNew = s.incNew := rfl
@[simp] theorem State.modWhl_stepNew (s : State) (n : Nat) (f : Whorl → Whorl) : (s.modWhl n f).stepNew = s.stepNew := rfl
@[simp] theorem State.modWhl_reelArm (s : State) (n : Nat) (f : Whorl → Whorl) : (s.modWhl n f).reelArm = s.reelArm := rfl
@[simp] theorem State.modWhl_inc (s : State) (n : Nat) (f : Whorl → Whorl) : (s.modWhl n f).inc = s.inc := rfl
@[simp] theorem State.modWhl_slew (s : State) (n : Nat) (f : Whorl → Whorl) : (s.modWhl n f).slew = s.slew := rfl
@[simp] theorem State.modWhl_schLate (s : State) (n : Nat) (f : Whorl → Whorl) : (s.modWhl n f).schLate = s.schLate := rfl
@[simp] theorem State.modWhl_rclk (s : State) (n : Nat) (f : Whorl → Whorl) : (s.modWhl n f).rclk = s.rclk := rfl
@[simp] theorem State.modWhl_aonOld (s : State) (n : Nat) (f : Whorl → Whorl) : (s.modWhl n f).aonOld = s.aonOld := rfl
@[simp] theorem State.modWhl_tcons (s : State) (n : Nat) (f : Whorl → Whorl) : (s.modWhl n f).tcons = s.tcons := rfl
@[simp] theorem State.modWhl_capWait (s : State) (n : Nat) (f : Whorl → Whorl) : (s.modWhl n f).capWait = s.capWait := rfl
@[simp] theorem State.modWhl_pins (s : State) (n : Nat) (f : Whorl → Whorl) : (s.modWhl n f).pins = s.pins := rfl
@[simp] theorem State.modWhl_lx (s : State) (n : Nat) (f : Whorl → Whorl) : (s.modWhl n f).lx = s.lx := rfl
@[simp] theorem State.modWhl_sleepIn (s : State) (n : Nat) (f : Whorl → Whorl) : (s.modWhl n f).sleepIn = s.sleepIn := rfl
@[simp] theorem State.modWhl_slotKeys (s : State) (n : Nat) (f : Whorl → Whorl) : (s.modWhl n f).slotKeys = s.slotKeys := rfl
@[simp] theorem State.modWhl_secq (s : State) (n : Nat) (f : Whorl → Whorl) : (s.modWhl n f).secq = s.secq := rfl
@[simp] theorem State.modWhl_secLast (s : State) (n : Nat) (f : Whorl → Whorl) : (s.modWhl n f).secLast = s.secLast := rfl
@[simp] theorem State.modWhl_keyStore (s : State) (n : Nat) (f : Whorl → Whorl) : (s.modWhl n f).keyStore = s.keyStore := rfl
@[simp] theorem State.modWhl_sessions (s : State) (n : Nat) (f : Whorl → Whorl) : (s.modWhl n f).sessions = s.sessions := rfl
@[simp] theorem State.modWhl_sids (s : State) (n : Nat) (f : Whorl → Whorl) : (s.modWhl n f).sids = s.sids := rfl
@[simp] theorem State.modWhl_chal (s : State) (n : Nat) (f : Whorl → Whorl) : (s.modWhl n f).chal = s.chal := rfl
@[simp] theorem State.modWhl_bootKem (s : State) (n : Nat) (f : Whorl → Whorl) : (s.modWhl n f).bootKem = s.bootKem := rfl
@[simp] theorem State.modWhl_openBad (s : State) (n : Nat) (f : Whorl → Whorl) : (s.modWhl n f).openBad = s.openBad := rfl
@[simp] theorem State.modWhl_openBar (s : State) (n : Nat) (f : Whorl → Whorl) : (s.modWhl n f).openBar = s.openBar := rfl
@[simp] theorem State.modWhl_taken (s : State) (n : Nat) (f : Whorl → Whorl) : (s.modWhl n f).taken = s.taken := rfl
@[simp] theorem State.modWhl_resp (s : State) (n : Nat) (f : Whorl → Whorl) : (s.modWhl n f).resp = s.resp := rfl
@[simp] theorem State.modWhl_authAt (s : State) (n : Nat) (f : Whorl → Whorl) : (s.modWhl n f).authAt = s.authAt := rfl
@[simp] theorem State.modWhl_authCnt (s : State) (n : Nat) (f : Whorl → Whorl) : (s.modWhl n f).authCnt = s.authCnt := rfl
@[simp] theorem State.modWhl_meas (s : State) (n : Nat) (f : Whorl → Whorl) : (s.modWhl n f).meas = s.meas := rfl
@[simp] theorem State.modWhl_lists (s : State) (n : Nat) (f : Whorl → Whorl) : (s.modWhl n f).lists = s.lists := rfl
@[simp] theorem State.modWhl_fwSvn (s : State) (n : Nat) (f : Whorl → Whorl) : (s.modWhl n f).fwSvn = s.fwSvn := rfl
@[simp] theorem State.modWhl_imgHash (s : State) (n : Nat) (f : Whorl → Whorl) : (s.modWhl n f).imgHash = s.imgHash := rfl
@[simp] theorem State.modWhl_instKeys (s : State) (n : Nat) (f : Whorl → Whorl) : (s.modWhl n f).instKeys = s.instKeys := rfl
@[simp] theorem State.modWhl_instGone (s : State) (n : Nat) (f : Whorl → Whorl) : (s.modWhl n f).instGone = s.instGone := rfl
@[simp] theorem State.modWhl_otp (s : State) (n : Nat) (f : Whorl → Whorl) : (s.modWhl n f).otp = s.otp := rfl
@[simp] theorem State.modWhl_vppOk (s : State) (n : Nat) (f : Whorl → Whorl) : (s.modWhl n f).vppOk = s.vppOk := rfl
@[simp] theorem State.modWhl_bootsDue (s : State) (n : Nat) (f : Whorl → Whorl) : (s.modWhl n f).bootsDue = s.bootsDue := rfl
@[simp] theorem State.modWhl_audFirst (s : State) (n : Nat) (f : Whorl → Whorl) : (s.modWhl n f).audFirst = s.audFirst := rfl
@[simp] theorem State.modWhl_audDue (s : State) (n : Nat) (f : Whorl → Whorl) : (s.modWhl n f).audDue = s.audDue := rfl
@[simp] theorem State.modWhl_dbg (s : State) (n : Nat) (f : Whorl → Whorl) : (s.modWhl n f).dbg = s.dbg := rfl
@[simp] theorem State.modWhl_started (s : State) (n : Nat) (f : Whorl → Whorl) : (s.modWhl n f).started = s.started := rfl
@[simp] theorem State.modWhl_rstCmd (s : State) (n : Nat) (f : Whorl → Whorl) : (s.modWhl n f).rstCmd = s.rstCmd := rfl
@[simp] theorem State.modWhl_romAt (s : State) (n : Nat) (f : Whorl → Whorl) : (s.modWhl n f).romAt = s.romAt := rfl
@[simp] theorem State.modWhl_recovLow (s : State) (n : Nat) (f : Whorl → Whorl) : (s.modWhl n f).recovLow = s.recovLow := rfl
@[simp] theorem State.modWhl_recov (s : State) (n : Nat) (f : Whorl → Whorl) : (s.modWhl n f).recov = s.recov := rfl
@[simp] theorem State.modWhl_supplies (s : State) (n : Nat) (f : Whorl → Whorl) : (s.modWhl n f).supplies = s.supplies := rfl
@[simp] theorem State.modWhl_wdiv (s : State) (n : Nat) (f : Whorl → Whorl) : (s.modWhl n f).wdiv = s.wdiv := rfl
@[simp] theorem State.modWhl_toRun (s : State) (n : Nat) (f : Whorl → Whorl) : (s.modWhl n f).toRun = s.toRun := rfl
@[simp] theorem State.modWhl_cxpOut (s : State) (n : Nat) (f : Whorl → Whorl) : (s.modWhl n f).cxpOut = s.cxpOut := rfl
@[simp] theorem State.modWhl_irqBy (s : State) (n : Nat) (f : Whorl → Whorl) : (s.modWhl n f).irqBy = s.irqBy := rfl

@[simp] theorem State.setChan_pending (s : State) (n c : Nat) (x : Chan) : (s.setChan n c x).pending = s.pending := rfl
@[simp] theorem State.setChan_cycle (s : State) (n c : Nat) (x : Chan) : (s.setChan n c x).cycle = s.cycle := rfl
@[simp] theorem State.setChan_regs (s : State) (n c : Nat) (x : Chan) : (s.setChan n c x).regs = s.regs := rfl
@[simp] theorem State.setChan_mem (s : State) (n c : Nat) (x : Chan) : (s.setChan n c x).mem = s.mem := rfl
@[simp] theorem State.setChan_syn (s : State) (n c : Nat) (x : Chan) : (s.setChan n c x).syn = s.syn := rfl
@[simp] theorem State.setChan_threads (s : State) (n c : Nat) (x : Chan) : (s.setChan n c x).threads = s.threads := rfl
@[simp] theorem State.setChan_whorls (s : State) (n c : Nat) (x : Chan) : (s.setChan n c x).whorls = s.whorls := rfl
@[simp] theorem State.setChan_xchans (s : State) (n c : Nat) (x : Chan) : (s.setChan n c x).xchans = s.xchans := rfl
@[simp] theorem State.setChan_escq (s : State) (n c : Nat) (x : Chan) : (s.setChan n c x).escq = s.escq := rfl
@[simp] theorem State.setChan_quietAt (s : State) (n c : Nat) (x : Chan) : (s.setChan n c x).quietAt = s.quietAt := rfl
@[simp] theorem State.setChan_evNow (s : State) (n c : Nat) (x : Chan) : (s.setChan n c x).evNow = s.evNow := rfl
@[simp] theorem State.setChan_swNow (s : State) (n c : Nat) (x : Chan) : (s.setChan n c x).swNow = s.swNow := rfl
@[simp] theorem State.setChan_uev (s : State) (n c : Nat) (x : Chan) : (s.setChan n c x).uev = s.uev := rfl
@[simp] theorem State.setChan_free (s : State) (n c : Nat) (x : Chan) : (s.setChan n c x).free = s.free := rfl
@[simp] theorem State.setChan_tb (s : State) (n c : Nat) (x : Chan) : (s.setChan n c x).tb = s.tb := rfl
@[simp] theorem State.setChan_shadow (s : State) (n c : Nat) (x : Chan) : (s.setChan n c x).shadow = s.shadow := rfl
@[simp] theorem State.setChan_pulses (s : State) (n c : Nat) (x : Chan) : (s.setChan n c x).pulses = s.pulses := rfl
@[simp] theorem State.setChan_trcThread (s : State) (n c : Nat) (x : Chan) : (s.setChan n c x).trcThread = s.trcThread := rfl
@[simp] theorem State.setChan_trace (s : State) (n c : Nat) (x : Chan) : (s.setChan n c x).trace = s.trace := rfl
@[simp] theorem State.setChan_hap (s : State) (n c : Nat) (x : Chan) : (s.setChan n c x).hap = s.hap := rfl
@[simp] theorem State.setChan_hrspOut (s : State) (n c : Nat) (x : Chan) : (s.setChan n c x).hrspOut = s.hrspOut := rfl
@[simp] theorem State.setChan_dreqOut (s : State) (n c : Nat) (x : Chan) : (s.setChan n c x).dreqOut = s.dreqOut := rfl
@[simp] theorem State.setChan_bobV (s : State) (n c : Nat) (x : Chan) : (s.setChan n c x).bobV = s.bobV := rfl
@[simp] theorem State.setChan_bobDyn (s : State) (n c : Nat) (x : Chan) : (s.setChan n c x).bobDyn = s.bobDyn := rfl
@[simp] theorem State.setChan_bobFree (s : State) (n c : Nat) (x : Chan) : (s.setChan n c x).bobFree = s.bobFree := rfl
@[simp] theorem State.setChan_lwins (s : State) (n c : Nat) (x : Chan) : (s.setChan n c x).lwins = s.lwins := rfl
@[simp] theorem State.setChan_slipWait (s : State) (n c : Nat) (x : Chan) : (s.setChan n c x).slipWait = s.slipWait := rfl
@[simp] theorem State.setChan_ports (s : State) (n c : Nat) (x : Chan) : (s.setChan n c x).ports = s.ports := rfl
@[simp] theorem State.setChan_txq (s : State) (n c : Nat) (x : Chan) : (s.setChan n c x).txq = s.txq := rfl
@[simp] theorem State.setChan_sends (s : State) (n c : Nat) (x : Chan) : (s.setChan n c x).sends = s.sends := rfl
@[simp] theorem State.setChan_msgids (s : State) (n c : Nat) (x : Chan) : (s.setChan n c x).msgids = s.msgids := rfl
@[simp] theorem State.setChan_rtePend (s : State) (n c : Nat) (x : Chan) : (s.setChan n c x).rtePend = s.rtePend := rfl
@[simp] theorem State.setChan_srcs (s : State) (n c : Nat) (x : Chan) : (s.setChan n c x).srcs = s.srcs := rfl
@[simp] theorem State.setChan_ctxs (s : State) (n c : Nat) (x : Chan) : (s.setChan n c x).ctxs = s.ctxs := rfl
@[simp] theorem State.setChan_ackIn (s : State) (n c : Nat) (x : Chan) : (s.setChan n c x).ackIn = s.ackIn := rfl
@[simp] theorem State.setChan_sknIn (s : State) (n c : Nat) (x : Chan) : (s.setChan n c x).sknIn = s.sknIn := rfl
@[simp] theorem State.setChan_drafts (s : State) (n c : Nat) (x : Chan) : (s.setChan n c x).drafts = s.drafts := rfl
@[simp] theorem State.setChan_plys (s : State) (n c : Nat) (x : Chan) : (s.setChan n c x).plys = s.plys := rfl
@[simp] theorem State.setChan_skns (s : State) (n c : Nat) (x : Chan) : (s.setChan n c x).skns = s.skns := rfl
@[simp] theorem State.setChan_incNew (s : State) (n c : Nat) (x : Chan) : (s.setChan n c x).incNew = s.incNew := rfl
@[simp] theorem State.setChan_stepNew (s : State) (n c : Nat) (x : Chan) : (s.setChan n c x).stepNew = s.stepNew := rfl
@[simp] theorem State.setChan_reelArm (s : State) (n c : Nat) (x : Chan) : (s.setChan n c x).reelArm = s.reelArm := rfl
@[simp] theorem State.setChan_inc (s : State) (n c : Nat) (x : Chan) : (s.setChan n c x).inc = s.inc := rfl
@[simp] theorem State.setChan_slew (s : State) (n c : Nat) (x : Chan) : (s.setChan n c x).slew = s.slew := rfl
@[simp] theorem State.setChan_schLate (s : State) (n c : Nat) (x : Chan) : (s.setChan n c x).schLate = s.schLate := rfl
@[simp] theorem State.setChan_rclk (s : State) (n c : Nat) (x : Chan) : (s.setChan n c x).rclk = s.rclk := rfl
@[simp] theorem State.setChan_aonOld (s : State) (n c : Nat) (x : Chan) : (s.setChan n c x).aonOld = s.aonOld := rfl
@[simp] theorem State.setChan_tcons (s : State) (n c : Nat) (x : Chan) : (s.setChan n c x).tcons = s.tcons := rfl
@[simp] theorem State.setChan_capWait (s : State) (n c : Nat) (x : Chan) : (s.setChan n c x).capWait = s.capWait := rfl
@[simp] theorem State.setChan_pins (s : State) (n c : Nat) (x : Chan) : (s.setChan n c x).pins = s.pins := rfl
@[simp] theorem State.setChan_lx (s : State) (n c : Nat) (x : Chan) : (s.setChan n c x).lx = s.lx := rfl
@[simp] theorem State.setChan_sleepIn (s : State) (n c : Nat) (x : Chan) : (s.setChan n c x).sleepIn = s.sleepIn := rfl
@[simp] theorem State.setChan_slotKeys (s : State) (n c : Nat) (x : Chan) : (s.setChan n c x).slotKeys = s.slotKeys := rfl
@[simp] theorem State.setChan_secq (s : State) (n c : Nat) (x : Chan) : (s.setChan n c x).secq = s.secq := rfl
@[simp] theorem State.setChan_secLast (s : State) (n c : Nat) (x : Chan) : (s.setChan n c x).secLast = s.secLast := rfl
@[simp] theorem State.setChan_keyStore (s : State) (n c : Nat) (x : Chan) : (s.setChan n c x).keyStore = s.keyStore := rfl
@[simp] theorem State.setChan_sessions (s : State) (n c : Nat) (x : Chan) : (s.setChan n c x).sessions = s.sessions := rfl
@[simp] theorem State.setChan_sids (s : State) (n c : Nat) (x : Chan) : (s.setChan n c x).sids = s.sids := rfl
@[simp] theorem State.setChan_chal (s : State) (n c : Nat) (x : Chan) : (s.setChan n c x).chal = s.chal := rfl
@[simp] theorem State.setChan_bootKem (s : State) (n c : Nat) (x : Chan) : (s.setChan n c x).bootKem = s.bootKem := rfl
@[simp] theorem State.setChan_openBad (s : State) (n c : Nat) (x : Chan) : (s.setChan n c x).openBad = s.openBad := rfl
@[simp] theorem State.setChan_openBar (s : State) (n c : Nat) (x : Chan) : (s.setChan n c x).openBar = s.openBar := rfl
@[simp] theorem State.setChan_taken (s : State) (n c : Nat) (x : Chan) : (s.setChan n c x).taken = s.taken := rfl
@[simp] theorem State.setChan_resp (s : State) (n c : Nat) (x : Chan) : (s.setChan n c x).resp = s.resp := rfl
@[simp] theorem State.setChan_authAt (s : State) (n c : Nat) (x : Chan) : (s.setChan n c x).authAt = s.authAt := rfl
@[simp] theorem State.setChan_authCnt (s : State) (n c : Nat) (x : Chan) : (s.setChan n c x).authCnt = s.authCnt := rfl
@[simp] theorem State.setChan_meas (s : State) (n c : Nat) (x : Chan) : (s.setChan n c x).meas = s.meas := rfl
@[simp] theorem State.setChan_lists (s : State) (n c : Nat) (x : Chan) : (s.setChan n c x).lists = s.lists := rfl
@[simp] theorem State.setChan_fwSvn (s : State) (n c : Nat) (x : Chan) : (s.setChan n c x).fwSvn = s.fwSvn := rfl
@[simp] theorem State.setChan_imgHash (s : State) (n c : Nat) (x : Chan) : (s.setChan n c x).imgHash = s.imgHash := rfl
@[simp] theorem State.setChan_instKeys (s : State) (n c : Nat) (x : Chan) : (s.setChan n c x).instKeys = s.instKeys := rfl
@[simp] theorem State.setChan_instGone (s : State) (n c : Nat) (x : Chan) : (s.setChan n c x).instGone = s.instGone := rfl
@[simp] theorem State.setChan_otp (s : State) (n c : Nat) (x : Chan) : (s.setChan n c x).otp = s.otp := rfl
@[simp] theorem State.setChan_vppOk (s : State) (n c : Nat) (x : Chan) : (s.setChan n c x).vppOk = s.vppOk := rfl
@[simp] theorem State.setChan_bootsDue (s : State) (n c : Nat) (x : Chan) : (s.setChan n c x).bootsDue = s.bootsDue := rfl
@[simp] theorem State.setChan_audFirst (s : State) (n c : Nat) (x : Chan) : (s.setChan n c x).audFirst = s.audFirst := rfl
@[simp] theorem State.setChan_audDue (s : State) (n c : Nat) (x : Chan) : (s.setChan n c x).audDue = s.audDue := rfl
@[simp] theorem State.setChan_dbg (s : State) (n c : Nat) (x : Chan) : (s.setChan n c x).dbg = s.dbg := rfl
@[simp] theorem State.setChan_started (s : State) (n c : Nat) (x : Chan) : (s.setChan n c x).started = s.started := rfl
@[simp] theorem State.setChan_rstCmd (s : State) (n c : Nat) (x : Chan) : (s.setChan n c x).rstCmd = s.rstCmd := rfl
@[simp] theorem State.setChan_romAt (s : State) (n c : Nat) (x : Chan) : (s.setChan n c x).romAt = s.romAt := rfl
@[simp] theorem State.setChan_recovLow (s : State) (n c : Nat) (x : Chan) : (s.setChan n c x).recovLow = s.recovLow := rfl
@[simp] theorem State.setChan_recov (s : State) (n c : Nat) (x : Chan) : (s.setChan n c x).recov = s.recov := rfl
@[simp] theorem State.setChan_supplies (s : State) (n c : Nat) (x : Chan) : (s.setChan n c x).supplies = s.supplies := rfl
@[simp] theorem State.setChan_wdiv (s : State) (n c : Nat) (x : Chan) : (s.setChan n c x).wdiv = s.wdiv := rfl
@[simp] theorem State.setChan_toRun (s : State) (n c : Nat) (x : Chan) : (s.setChan n c x).toRun = s.toRun := rfl
@[simp] theorem State.setChan_cxpOut (s : State) (n c : Nat) (x : Chan) : (s.setChan n c x).cxpOut = s.cxpOut := rfl
@[simp] theorem State.setChan_irqBy (s : State) (n c : Nat) (x : Chan) : (s.setChan n c x).irqBy = s.irqBy := rfl

@[simp] theorem State.setXend_pending (s : State) (n x : Nat) (c : Chan) : (s.setXend n x c).pending = s.pending := rfl
@[simp] theorem State.setXend_cycle (s : State) (n x : Nat) (c : Chan) : (s.setXend n x c).cycle = s.cycle := rfl
@[simp] theorem State.setXend_regs (s : State) (n x : Nat) (c : Chan) : (s.setXend n x c).regs = s.regs := rfl
@[simp] theorem State.setXend_mem (s : State) (n x : Nat) (c : Chan) : (s.setXend n x c).mem = s.mem := rfl
@[simp] theorem State.setXend_syn (s : State) (n x : Nat) (c : Chan) : (s.setXend n x c).syn = s.syn := rfl
@[simp] theorem State.setXend_threads (s : State) (n x : Nat) (c : Chan) : (s.setXend n x c).threads = s.threads := rfl
@[simp] theorem State.setXend_whorls (s : State) (n x : Nat) (c : Chan) : (s.setXend n x c).whorls = s.whorls := rfl
@[simp] theorem State.setXend_chans (s : State) (n x : Nat) (c : Chan) : (s.setXend n x c).chans = s.chans := rfl
@[simp] theorem State.setXend_escq (s : State) (n x : Nat) (c : Chan) : (s.setXend n x c).escq = s.escq := rfl
@[simp] theorem State.setXend_quietAt (s : State) (n x : Nat) (c : Chan) : (s.setXend n x c).quietAt = s.quietAt := rfl
@[simp] theorem State.setXend_evNow (s : State) (n x : Nat) (c : Chan) : (s.setXend n x c).evNow = s.evNow := rfl
@[simp] theorem State.setXend_swNow (s : State) (n x : Nat) (c : Chan) : (s.setXend n x c).swNow = s.swNow := rfl
@[simp] theorem State.setXend_uev (s : State) (n x : Nat) (c : Chan) : (s.setXend n x c).uev = s.uev := rfl
@[simp] theorem State.setXend_free (s : State) (n x : Nat) (c : Chan) : (s.setXend n x c).free = s.free := rfl
@[simp] theorem State.setXend_tb (s : State) (n x : Nat) (c : Chan) : (s.setXend n x c).tb = s.tb := rfl
@[simp] theorem State.setXend_shadow (s : State) (n x : Nat) (c : Chan) : (s.setXend n x c).shadow = s.shadow := rfl
@[simp] theorem State.setXend_pulses (s : State) (n x : Nat) (c : Chan) : (s.setXend n x c).pulses = s.pulses := rfl
@[simp] theorem State.setXend_trcThread (s : State) (n x : Nat) (c : Chan) : (s.setXend n x c).trcThread = s.trcThread := rfl
@[simp] theorem State.setXend_trace (s : State) (n x : Nat) (c : Chan) : (s.setXend n x c).trace = s.trace := rfl
@[simp] theorem State.setXend_hap (s : State) (n x : Nat) (c : Chan) : (s.setXend n x c).hap = s.hap := rfl
@[simp] theorem State.setXend_hrspOut (s : State) (n x : Nat) (c : Chan) : (s.setXend n x c).hrspOut = s.hrspOut := rfl
@[simp] theorem State.setXend_dreqOut (s : State) (n x : Nat) (c : Chan) : (s.setXend n x c).dreqOut = s.dreqOut := rfl
@[simp] theorem State.setXend_bobV (s : State) (n x : Nat) (c : Chan) : (s.setXend n x c).bobV = s.bobV := rfl
@[simp] theorem State.setXend_bobDyn (s : State) (n x : Nat) (c : Chan) : (s.setXend n x c).bobDyn = s.bobDyn := rfl
@[simp] theorem State.setXend_bobFree (s : State) (n x : Nat) (c : Chan) : (s.setXend n x c).bobFree = s.bobFree := rfl
@[simp] theorem State.setXend_lwins (s : State) (n x : Nat) (c : Chan) : (s.setXend n x c).lwins = s.lwins := rfl
@[simp] theorem State.setXend_slipWait (s : State) (n x : Nat) (c : Chan) : (s.setXend n x c).slipWait = s.slipWait := rfl
@[simp] theorem State.setXend_ports (s : State) (n x : Nat) (c : Chan) : (s.setXend n x c).ports = s.ports := rfl
@[simp] theorem State.setXend_txq (s : State) (n x : Nat) (c : Chan) : (s.setXend n x c).txq = s.txq := rfl
@[simp] theorem State.setXend_sends (s : State) (n x : Nat) (c : Chan) : (s.setXend n x c).sends = s.sends := rfl
@[simp] theorem State.setXend_msgids (s : State) (n x : Nat) (c : Chan) : (s.setXend n x c).msgids = s.msgids := rfl
@[simp] theorem State.setXend_rtePend (s : State) (n x : Nat) (c : Chan) : (s.setXend n x c).rtePend = s.rtePend := rfl
@[simp] theorem State.setXend_srcs (s : State) (n x : Nat) (c : Chan) : (s.setXend n x c).srcs = s.srcs := rfl
@[simp] theorem State.setXend_ctxs (s : State) (n x : Nat) (c : Chan) : (s.setXend n x c).ctxs = s.ctxs := rfl
@[simp] theorem State.setXend_ackIn (s : State) (n x : Nat) (c : Chan) : (s.setXend n x c).ackIn = s.ackIn := rfl
@[simp] theorem State.setXend_sknIn (s : State) (n x : Nat) (c : Chan) : (s.setXend n x c).sknIn = s.sknIn := rfl
@[simp] theorem State.setXend_drafts (s : State) (n x : Nat) (c : Chan) : (s.setXend n x c).drafts = s.drafts := rfl
@[simp] theorem State.setXend_plys (s : State) (n x : Nat) (c : Chan) : (s.setXend n x c).plys = s.plys := rfl
@[simp] theorem State.setXend_skns (s : State) (n x : Nat) (c : Chan) : (s.setXend n x c).skns = s.skns := rfl
@[simp] theorem State.setXend_incNew (s : State) (n x : Nat) (c : Chan) : (s.setXend n x c).incNew = s.incNew := rfl
@[simp] theorem State.setXend_stepNew (s : State) (n x : Nat) (c : Chan) : (s.setXend n x c).stepNew = s.stepNew := rfl
@[simp] theorem State.setXend_reelArm (s : State) (n x : Nat) (c : Chan) : (s.setXend n x c).reelArm = s.reelArm := rfl
@[simp] theorem State.setXend_inc (s : State) (n x : Nat) (c : Chan) : (s.setXend n x c).inc = s.inc := rfl
@[simp] theorem State.setXend_slew (s : State) (n x : Nat) (c : Chan) : (s.setXend n x c).slew = s.slew := rfl
@[simp] theorem State.setXend_schLate (s : State) (n x : Nat) (c : Chan) : (s.setXend n x c).schLate = s.schLate := rfl
@[simp] theorem State.setXend_rclk (s : State) (n x : Nat) (c : Chan) : (s.setXend n x c).rclk = s.rclk := rfl
@[simp] theorem State.setXend_aonOld (s : State) (n x : Nat) (c : Chan) : (s.setXend n x c).aonOld = s.aonOld := rfl
@[simp] theorem State.setXend_tcons (s : State) (n x : Nat) (c : Chan) : (s.setXend n x c).tcons = s.tcons := rfl
@[simp] theorem State.setXend_capWait (s : State) (n x : Nat) (c : Chan) : (s.setXend n x c).capWait = s.capWait := rfl
@[simp] theorem State.setXend_pins (s : State) (n x : Nat) (c : Chan) : (s.setXend n x c).pins = s.pins := rfl
@[simp] theorem State.setXend_lx (s : State) (n x : Nat) (c : Chan) : (s.setXend n x c).lx = s.lx := rfl
@[simp] theorem State.setXend_sleepIn (s : State) (n x : Nat) (c : Chan) : (s.setXend n x c).sleepIn = s.sleepIn := rfl
@[simp] theorem State.setXend_slotKeys (s : State) (n x : Nat) (c : Chan) : (s.setXend n x c).slotKeys = s.slotKeys := rfl
@[simp] theorem State.setXend_secq (s : State) (n x : Nat) (c : Chan) : (s.setXend n x c).secq = s.secq := rfl
@[simp] theorem State.setXend_secLast (s : State) (n x : Nat) (c : Chan) : (s.setXend n x c).secLast = s.secLast := rfl
@[simp] theorem State.setXend_keyStore (s : State) (n x : Nat) (c : Chan) : (s.setXend n x c).keyStore = s.keyStore := rfl
@[simp] theorem State.setXend_sessions (s : State) (n x : Nat) (c : Chan) : (s.setXend n x c).sessions = s.sessions := rfl
@[simp] theorem State.setXend_sids (s : State) (n x : Nat) (c : Chan) : (s.setXend n x c).sids = s.sids := rfl
@[simp] theorem State.setXend_chal (s : State) (n x : Nat) (c : Chan) : (s.setXend n x c).chal = s.chal := rfl
@[simp] theorem State.setXend_bootKem (s : State) (n x : Nat) (c : Chan) : (s.setXend n x c).bootKem = s.bootKem := rfl
@[simp] theorem State.setXend_openBad (s : State) (n x : Nat) (c : Chan) : (s.setXend n x c).openBad = s.openBad := rfl
@[simp] theorem State.setXend_openBar (s : State) (n x : Nat) (c : Chan) : (s.setXend n x c).openBar = s.openBar := rfl
@[simp] theorem State.setXend_taken (s : State) (n x : Nat) (c : Chan) : (s.setXend n x c).taken = s.taken := rfl
@[simp] theorem State.setXend_resp (s : State) (n x : Nat) (c : Chan) : (s.setXend n x c).resp = s.resp := rfl
@[simp] theorem State.setXend_authAt (s : State) (n x : Nat) (c : Chan) : (s.setXend n x c).authAt = s.authAt := rfl
@[simp] theorem State.setXend_authCnt (s : State) (n x : Nat) (c : Chan) : (s.setXend n x c).authCnt = s.authCnt := rfl
@[simp] theorem State.setXend_meas (s : State) (n x : Nat) (c : Chan) : (s.setXend n x c).meas = s.meas := rfl
@[simp] theorem State.setXend_lists (s : State) (n x : Nat) (c : Chan) : (s.setXend n x c).lists = s.lists := rfl
@[simp] theorem State.setXend_fwSvn (s : State) (n x : Nat) (c : Chan) : (s.setXend n x c).fwSvn = s.fwSvn := rfl
@[simp] theorem State.setXend_imgHash (s : State) (n x : Nat) (c : Chan) : (s.setXend n x c).imgHash = s.imgHash := rfl
@[simp] theorem State.setXend_instKeys (s : State) (n x : Nat) (c : Chan) : (s.setXend n x c).instKeys = s.instKeys := rfl
@[simp] theorem State.setXend_instGone (s : State) (n x : Nat) (c : Chan) : (s.setXend n x c).instGone = s.instGone := rfl
@[simp] theorem State.setXend_otp (s : State) (n x : Nat) (c : Chan) : (s.setXend n x c).otp = s.otp := rfl
@[simp] theorem State.setXend_vppOk (s : State) (n x : Nat) (c : Chan) : (s.setXend n x c).vppOk = s.vppOk := rfl
@[simp] theorem State.setXend_bootsDue (s : State) (n x : Nat) (c : Chan) : (s.setXend n x c).bootsDue = s.bootsDue := rfl
@[simp] theorem State.setXend_audFirst (s : State) (n x : Nat) (c : Chan) : (s.setXend n x c).audFirst = s.audFirst := rfl
@[simp] theorem State.setXend_audDue (s : State) (n x : Nat) (c : Chan) : (s.setXend n x c).audDue = s.audDue := rfl
@[simp] theorem State.setXend_dbg (s : State) (n x : Nat) (c : Chan) : (s.setXend n x c).dbg = s.dbg := rfl
@[simp] theorem State.setXend_started (s : State) (n x : Nat) (c : Chan) : (s.setXend n x c).started = s.started := rfl
@[simp] theorem State.setXend_rstCmd (s : State) (n x : Nat) (c : Chan) : (s.setXend n x c).rstCmd = s.rstCmd := rfl
@[simp] theorem State.setXend_romAt (s : State) (n x : Nat) (c : Chan) : (s.setXend n x c).romAt = s.romAt := rfl
@[simp] theorem State.setXend_recovLow (s : State) (n x : Nat) (c : Chan) : (s.setXend n x c).recovLow = s.recovLow := rfl
@[simp] theorem State.setXend_recov (s : State) (n x : Nat) (c : Chan) : (s.setXend n x c).recov = s.recov := rfl
@[simp] theorem State.setXend_supplies (s : State) (n x : Nat) (c : Chan) : (s.setXend n x c).supplies = s.supplies := rfl
@[simp] theorem State.setXend_wdiv (s : State) (n x : Nat) (c : Chan) : (s.setXend n x c).wdiv = s.wdiv := rfl
@[simp] theorem State.setXend_toRun (s : State) (n x : Nat) (c : Chan) : (s.setXend n x c).toRun = s.toRun := rfl
@[simp] theorem State.setXend_cxpOut (s : State) (n x : Nat) (c : Chan) : (s.setXend n x c).cxpOut = s.cxpOut := rfl
@[simp] theorem State.setXend_irqBy (s : State) (n x : Nat) (c : Chan) : (s.setXend n x c).irqBy = s.irqBy := rfl

@[simp] theorem State.modPort_pending (s : State) (p : Nat) (f : Port → Port) : (s.modPort p f).pending = s.pending := rfl
@[simp] theorem State.modPort_cycle (s : State) (p : Nat) (f : Port → Port) : (s.modPort p f).cycle = s.cycle := rfl
@[simp] theorem State.modPort_regs (s : State) (p : Nat) (f : Port → Port) : (s.modPort p f).regs = s.regs := rfl
@[simp] theorem State.modPort_mem (s : State) (p : Nat) (f : Port → Port) : (s.modPort p f).mem = s.mem := rfl
@[simp] theorem State.modPort_syn (s : State) (p : Nat) (f : Port → Port) : (s.modPort p f).syn = s.syn := rfl
@[simp] theorem State.modPort_threads (s : State) (p : Nat) (f : Port → Port) : (s.modPort p f).threads = s.threads := rfl
@[simp] theorem State.modPort_whorls (s : State) (p : Nat) (f : Port → Port) : (s.modPort p f).whorls = s.whorls := rfl
@[simp] theorem State.modPort_chans (s : State) (p : Nat) (f : Port → Port) : (s.modPort p f).chans = s.chans := rfl
@[simp] theorem State.modPort_xchans (s : State) (p : Nat) (f : Port → Port) : (s.modPort p f).xchans = s.xchans := rfl
@[simp] theorem State.modPort_escq (s : State) (p : Nat) (f : Port → Port) : (s.modPort p f).escq = s.escq := rfl
@[simp] theorem State.modPort_quietAt (s : State) (p : Nat) (f : Port → Port) : (s.modPort p f).quietAt = s.quietAt := rfl
@[simp] theorem State.modPort_evNow (s : State) (p : Nat) (f : Port → Port) : (s.modPort p f).evNow = s.evNow := rfl
@[simp] theorem State.modPort_swNow (s : State) (p : Nat) (f : Port → Port) : (s.modPort p f).swNow = s.swNow := rfl
@[simp] theorem State.modPort_uev (s : State) (p : Nat) (f : Port → Port) : (s.modPort p f).uev = s.uev := rfl
@[simp] theorem State.modPort_free (s : State) (p : Nat) (f : Port → Port) : (s.modPort p f).free = s.free := rfl
@[simp] theorem State.modPort_tb (s : State) (p : Nat) (f : Port → Port) : (s.modPort p f).tb = s.tb := rfl
@[simp] theorem State.modPort_shadow (s : State) (p : Nat) (f : Port → Port) : (s.modPort p f).shadow = s.shadow := rfl
@[simp] theorem State.modPort_pulses (s : State) (p : Nat) (f : Port → Port) : (s.modPort p f).pulses = s.pulses := rfl
@[simp] theorem State.modPort_trcThread (s : State) (p : Nat) (f : Port → Port) : (s.modPort p f).trcThread = s.trcThread := rfl
@[simp] theorem State.modPort_trace (s : State) (p : Nat) (f : Port → Port) : (s.modPort p f).trace = s.trace := rfl
@[simp] theorem State.modPort_hap (s : State) (p : Nat) (f : Port → Port) : (s.modPort p f).hap = s.hap := rfl
@[simp] theorem State.modPort_hrspOut (s : State) (p : Nat) (f : Port → Port) : (s.modPort p f).hrspOut = s.hrspOut := rfl
@[simp] theorem State.modPort_dreqOut (s : State) (p : Nat) (f : Port → Port) : (s.modPort p f).dreqOut = s.dreqOut := rfl
@[simp] theorem State.modPort_bobV (s : State) (p : Nat) (f : Port → Port) : (s.modPort p f).bobV = s.bobV := rfl
@[simp] theorem State.modPort_bobDyn (s : State) (p : Nat) (f : Port → Port) : (s.modPort p f).bobDyn = s.bobDyn := rfl
@[simp] theorem State.modPort_bobFree (s : State) (p : Nat) (f : Port → Port) : (s.modPort p f).bobFree = s.bobFree := rfl
@[simp] theorem State.modPort_lwins (s : State) (p : Nat) (f : Port → Port) : (s.modPort p f).lwins = s.lwins := rfl
@[simp] theorem State.modPort_slipWait (s : State) (p : Nat) (f : Port → Port) : (s.modPort p f).slipWait = s.slipWait := rfl
@[simp] theorem State.modPort_txq (s : State) (p : Nat) (f : Port → Port) : (s.modPort p f).txq = s.txq := rfl
@[simp] theorem State.modPort_sends (s : State) (p : Nat) (f : Port → Port) : (s.modPort p f).sends = s.sends := rfl
@[simp] theorem State.modPort_msgids (s : State) (p : Nat) (f : Port → Port) : (s.modPort p f).msgids = s.msgids := rfl
@[simp] theorem State.modPort_rtePend (s : State) (p : Nat) (f : Port → Port) : (s.modPort p f).rtePend = s.rtePend := rfl
@[simp] theorem State.modPort_srcs (s : State) (p : Nat) (f : Port → Port) : (s.modPort p f).srcs = s.srcs := rfl
@[simp] theorem State.modPort_ctxs (s : State) (p : Nat) (f : Port → Port) : (s.modPort p f).ctxs = s.ctxs := rfl
@[simp] theorem State.modPort_ackIn (s : State) (p : Nat) (f : Port → Port) : (s.modPort p f).ackIn = s.ackIn := rfl
@[simp] theorem State.modPort_sknIn (s : State) (p : Nat) (f : Port → Port) : (s.modPort p f).sknIn = s.sknIn := rfl
@[simp] theorem State.modPort_drafts (s : State) (p : Nat) (f : Port → Port) : (s.modPort p f).drafts = s.drafts := rfl
@[simp] theorem State.modPort_plys (s : State) (p : Nat) (f : Port → Port) : (s.modPort p f).plys = s.plys := rfl
@[simp] theorem State.modPort_skns (s : State) (p : Nat) (f : Port → Port) : (s.modPort p f).skns = s.skns := rfl
@[simp] theorem State.modPort_incNew (s : State) (p : Nat) (f : Port → Port) : (s.modPort p f).incNew = s.incNew := rfl
@[simp] theorem State.modPort_stepNew (s : State) (p : Nat) (f : Port → Port) : (s.modPort p f).stepNew = s.stepNew := rfl
@[simp] theorem State.modPort_reelArm (s : State) (p : Nat) (f : Port → Port) : (s.modPort p f).reelArm = s.reelArm := rfl
@[simp] theorem State.modPort_inc (s : State) (p : Nat) (f : Port → Port) : (s.modPort p f).inc = s.inc := rfl
@[simp] theorem State.modPort_slew (s : State) (p : Nat) (f : Port → Port) : (s.modPort p f).slew = s.slew := rfl
@[simp] theorem State.modPort_schLate (s : State) (p : Nat) (f : Port → Port) : (s.modPort p f).schLate = s.schLate := rfl
@[simp] theorem State.modPort_rclk (s : State) (p : Nat) (f : Port → Port) : (s.modPort p f).rclk = s.rclk := rfl
@[simp] theorem State.modPort_aonOld (s : State) (p : Nat) (f : Port → Port) : (s.modPort p f).aonOld = s.aonOld := rfl
@[simp] theorem State.modPort_tcons (s : State) (p : Nat) (f : Port → Port) : (s.modPort p f).tcons = s.tcons := rfl
@[simp] theorem State.modPort_capWait (s : State) (p : Nat) (f : Port → Port) : (s.modPort p f).capWait = s.capWait := rfl
@[simp] theorem State.modPort_pins (s : State) (p : Nat) (f : Port → Port) : (s.modPort p f).pins = s.pins := rfl
@[simp] theorem State.modPort_lx (s : State) (p : Nat) (f : Port → Port) : (s.modPort p f).lx = s.lx := rfl
@[simp] theorem State.modPort_sleepIn (s : State) (p : Nat) (f : Port → Port) : (s.modPort p f).sleepIn = s.sleepIn := rfl
@[simp] theorem State.modPort_slotKeys (s : State) (p : Nat) (f : Port → Port) : (s.modPort p f).slotKeys = s.slotKeys := rfl
@[simp] theorem State.modPort_secq (s : State) (p : Nat) (f : Port → Port) : (s.modPort p f).secq = s.secq := rfl
@[simp] theorem State.modPort_secLast (s : State) (p : Nat) (f : Port → Port) : (s.modPort p f).secLast = s.secLast := rfl
@[simp] theorem State.modPort_keyStore (s : State) (p : Nat) (f : Port → Port) : (s.modPort p f).keyStore = s.keyStore := rfl
@[simp] theorem State.modPort_sessions (s : State) (p : Nat) (f : Port → Port) : (s.modPort p f).sessions = s.sessions := rfl
@[simp] theorem State.modPort_sids (s : State) (p : Nat) (f : Port → Port) : (s.modPort p f).sids = s.sids := rfl
@[simp] theorem State.modPort_chal (s : State) (p : Nat) (f : Port → Port) : (s.modPort p f).chal = s.chal := rfl
@[simp] theorem State.modPort_bootKem (s : State) (p : Nat) (f : Port → Port) : (s.modPort p f).bootKem = s.bootKem := rfl
@[simp] theorem State.modPort_openBad (s : State) (p : Nat) (f : Port → Port) : (s.modPort p f).openBad = s.openBad := rfl
@[simp] theorem State.modPort_openBar (s : State) (p : Nat) (f : Port → Port) : (s.modPort p f).openBar = s.openBar := rfl
@[simp] theorem State.modPort_taken (s : State) (p : Nat) (f : Port → Port) : (s.modPort p f).taken = s.taken := rfl
@[simp] theorem State.modPort_resp (s : State) (p : Nat) (f : Port → Port) : (s.modPort p f).resp = s.resp := rfl
@[simp] theorem State.modPort_authAt (s : State) (p : Nat) (f : Port → Port) : (s.modPort p f).authAt = s.authAt := rfl
@[simp] theorem State.modPort_authCnt (s : State) (p : Nat) (f : Port → Port) : (s.modPort p f).authCnt = s.authCnt := rfl
@[simp] theorem State.modPort_meas (s : State) (p : Nat) (f : Port → Port) : (s.modPort p f).meas = s.meas := rfl
@[simp] theorem State.modPort_lists (s : State) (p : Nat) (f : Port → Port) : (s.modPort p f).lists = s.lists := rfl
@[simp] theorem State.modPort_fwSvn (s : State) (p : Nat) (f : Port → Port) : (s.modPort p f).fwSvn = s.fwSvn := rfl
@[simp] theorem State.modPort_imgHash (s : State) (p : Nat) (f : Port → Port) : (s.modPort p f).imgHash = s.imgHash := rfl
@[simp] theorem State.modPort_instKeys (s : State) (p : Nat) (f : Port → Port) : (s.modPort p f).instKeys = s.instKeys := rfl
@[simp] theorem State.modPort_instGone (s : State) (p : Nat) (f : Port → Port) : (s.modPort p f).instGone = s.instGone := rfl
@[simp] theorem State.modPort_otp (s : State) (p : Nat) (f : Port → Port) : (s.modPort p f).otp = s.otp := rfl
@[simp] theorem State.modPort_vppOk (s : State) (p : Nat) (f : Port → Port) : (s.modPort p f).vppOk = s.vppOk := rfl
@[simp] theorem State.modPort_bootsDue (s : State) (p : Nat) (f : Port → Port) : (s.modPort p f).bootsDue = s.bootsDue := rfl
@[simp] theorem State.modPort_audFirst (s : State) (p : Nat) (f : Port → Port) : (s.modPort p f).audFirst = s.audFirst := rfl
@[simp] theorem State.modPort_audDue (s : State) (p : Nat) (f : Port → Port) : (s.modPort p f).audDue = s.audDue := rfl
@[simp] theorem State.modPort_dbg (s : State) (p : Nat) (f : Port → Port) : (s.modPort p f).dbg = s.dbg := rfl
@[simp] theorem State.modPort_started (s : State) (p : Nat) (f : Port → Port) : (s.modPort p f).started = s.started := rfl
@[simp] theorem State.modPort_rstCmd (s : State) (p : Nat) (f : Port → Port) : (s.modPort p f).rstCmd = s.rstCmd := rfl
@[simp] theorem State.modPort_romAt (s : State) (p : Nat) (f : Port → Port) : (s.modPort p f).romAt = s.romAt := rfl
@[simp] theorem State.modPort_recovLow (s : State) (p : Nat) (f : Port → Port) : (s.modPort p f).recovLow = s.recovLow := rfl
@[simp] theorem State.modPort_recov (s : State) (p : Nat) (f : Port → Port) : (s.modPort p f).recov = s.recov := rfl
@[simp] theorem State.modPort_supplies (s : State) (p : Nat) (f : Port → Port) : (s.modPort p f).supplies = s.supplies := rfl
@[simp] theorem State.modPort_wdiv (s : State) (p : Nat) (f : Port → Port) : (s.modPort p f).wdiv = s.wdiv := rfl
@[simp] theorem State.modPort_toRun (s : State) (p : Nat) (f : Port → Port) : (s.modPort p f).toRun = s.toRun := rfl
@[simp] theorem State.modPort_cxpOut (s : State) (p : Nat) (f : Port → Port) : (s.modPort p f).cxpOut = s.cxpOut := rfl
@[simp] theorem State.modPort_irqBy (s : State) (p : Nat) (f : Port → Port) : (s.modPort p f).irqBy = s.irqBy := rfl

@[simp] theorem State.setHapc_pending (s : State) (c : Nat) (x : HapCh) : (s.setHapc c x).pending = s.pending := rfl
@[simp] theorem State.setHapc_cycle (s : State) (c : Nat) (x : HapCh) : (s.setHapc c x).cycle = s.cycle := rfl
@[simp] theorem State.setHapc_regs (s : State) (c : Nat) (x : HapCh) : (s.setHapc c x).regs = s.regs := rfl
@[simp] theorem State.setHapc_mem (s : State) (c : Nat) (x : HapCh) : (s.setHapc c x).mem = s.mem := rfl
@[simp] theorem State.setHapc_syn (s : State) (c : Nat) (x : HapCh) : (s.setHapc c x).syn = s.syn := rfl
@[simp] theorem State.setHapc_threads (s : State) (c : Nat) (x : HapCh) : (s.setHapc c x).threads = s.threads := rfl
@[simp] theorem State.setHapc_whorls (s : State) (c : Nat) (x : HapCh) : (s.setHapc c x).whorls = s.whorls := rfl
@[simp] theorem State.setHapc_chans (s : State) (c : Nat) (x : HapCh) : (s.setHapc c x).chans = s.chans := rfl
@[simp] theorem State.setHapc_xchans (s : State) (c : Nat) (x : HapCh) : (s.setHapc c x).xchans = s.xchans := rfl
@[simp] theorem State.setHapc_escq (s : State) (c : Nat) (x : HapCh) : (s.setHapc c x).escq = s.escq := rfl
@[simp] theorem State.setHapc_quietAt (s : State) (c : Nat) (x : HapCh) : (s.setHapc c x).quietAt = s.quietAt := rfl
@[simp] theorem State.setHapc_evNow (s : State) (c : Nat) (x : HapCh) : (s.setHapc c x).evNow = s.evNow := rfl
@[simp] theorem State.setHapc_swNow (s : State) (c : Nat) (x : HapCh) : (s.setHapc c x).swNow = s.swNow := rfl
@[simp] theorem State.setHapc_uev (s : State) (c : Nat) (x : HapCh) : (s.setHapc c x).uev = s.uev := rfl
@[simp] theorem State.setHapc_free (s : State) (c : Nat) (x : HapCh) : (s.setHapc c x).free = s.free := rfl
@[simp] theorem State.setHapc_tb (s : State) (c : Nat) (x : HapCh) : (s.setHapc c x).tb = s.tb := rfl
@[simp] theorem State.setHapc_shadow (s : State) (c : Nat) (x : HapCh) : (s.setHapc c x).shadow = s.shadow := rfl
@[simp] theorem State.setHapc_pulses (s : State) (c : Nat) (x : HapCh) : (s.setHapc c x).pulses = s.pulses := rfl
@[simp] theorem State.setHapc_trcThread (s : State) (c : Nat) (x : HapCh) : (s.setHapc c x).trcThread = s.trcThread := rfl
@[simp] theorem State.setHapc_trace (s : State) (c : Nat) (x : HapCh) : (s.setHapc c x).trace = s.trace := rfl
@[simp] theorem State.setHapc_hrspOut (s : State) (c : Nat) (x : HapCh) : (s.setHapc c x).hrspOut = s.hrspOut := rfl
@[simp] theorem State.setHapc_dreqOut (s : State) (c : Nat) (x : HapCh) : (s.setHapc c x).dreqOut = s.dreqOut := rfl
@[simp] theorem State.setHapc_bobV (s : State) (c : Nat) (x : HapCh) : (s.setHapc c x).bobV = s.bobV := rfl
@[simp] theorem State.setHapc_bobDyn (s : State) (c : Nat) (x : HapCh) : (s.setHapc c x).bobDyn = s.bobDyn := rfl
@[simp] theorem State.setHapc_bobFree (s : State) (c : Nat) (x : HapCh) : (s.setHapc c x).bobFree = s.bobFree := rfl
@[simp] theorem State.setHapc_lwins (s : State) (c : Nat) (x : HapCh) : (s.setHapc c x).lwins = s.lwins := rfl
@[simp] theorem State.setHapc_slipWait (s : State) (c : Nat) (x : HapCh) : (s.setHapc c x).slipWait = s.slipWait := rfl
@[simp] theorem State.setHapc_ports (s : State) (c : Nat) (x : HapCh) : (s.setHapc c x).ports = s.ports := rfl
@[simp] theorem State.setHapc_txq (s : State) (c : Nat) (x : HapCh) : (s.setHapc c x).txq = s.txq := rfl
@[simp] theorem State.setHapc_sends (s : State) (c : Nat) (x : HapCh) : (s.setHapc c x).sends = s.sends := rfl
@[simp] theorem State.setHapc_msgids (s : State) (c : Nat) (x : HapCh) : (s.setHapc c x).msgids = s.msgids := rfl
@[simp] theorem State.setHapc_rtePend (s : State) (c : Nat) (x : HapCh) : (s.setHapc c x).rtePend = s.rtePend := rfl
@[simp] theorem State.setHapc_srcs (s : State) (c : Nat) (x : HapCh) : (s.setHapc c x).srcs = s.srcs := rfl
@[simp] theorem State.setHapc_ctxs (s : State) (c : Nat) (x : HapCh) : (s.setHapc c x).ctxs = s.ctxs := rfl
@[simp] theorem State.setHapc_ackIn (s : State) (c : Nat) (x : HapCh) : (s.setHapc c x).ackIn = s.ackIn := rfl
@[simp] theorem State.setHapc_sknIn (s : State) (c : Nat) (x : HapCh) : (s.setHapc c x).sknIn = s.sknIn := rfl
@[simp] theorem State.setHapc_drafts (s : State) (c : Nat) (x : HapCh) : (s.setHapc c x).drafts = s.drafts := rfl
@[simp] theorem State.setHapc_plys (s : State) (c : Nat) (x : HapCh) : (s.setHapc c x).plys = s.plys := rfl
@[simp] theorem State.setHapc_skns (s : State) (c : Nat) (x : HapCh) : (s.setHapc c x).skns = s.skns := rfl
@[simp] theorem State.setHapc_incNew (s : State) (c : Nat) (x : HapCh) : (s.setHapc c x).incNew = s.incNew := rfl
@[simp] theorem State.setHapc_stepNew (s : State) (c : Nat) (x : HapCh) : (s.setHapc c x).stepNew = s.stepNew := rfl
@[simp] theorem State.setHapc_reelArm (s : State) (c : Nat) (x : HapCh) : (s.setHapc c x).reelArm = s.reelArm := rfl
@[simp] theorem State.setHapc_inc (s : State) (c : Nat) (x : HapCh) : (s.setHapc c x).inc = s.inc := rfl
@[simp] theorem State.setHapc_slew (s : State) (c : Nat) (x : HapCh) : (s.setHapc c x).slew = s.slew := rfl
@[simp] theorem State.setHapc_schLate (s : State) (c : Nat) (x : HapCh) : (s.setHapc c x).schLate = s.schLate := rfl
@[simp] theorem State.setHapc_rclk (s : State) (c : Nat) (x : HapCh) : (s.setHapc c x).rclk = s.rclk := rfl
@[simp] theorem State.setHapc_aonOld (s : State) (c : Nat) (x : HapCh) : (s.setHapc c x).aonOld = s.aonOld := rfl
@[simp] theorem State.setHapc_tcons (s : State) (c : Nat) (x : HapCh) : (s.setHapc c x).tcons = s.tcons := rfl
@[simp] theorem State.setHapc_capWait (s : State) (c : Nat) (x : HapCh) : (s.setHapc c x).capWait = s.capWait := rfl
@[simp] theorem State.setHapc_pins (s : State) (c : Nat) (x : HapCh) : (s.setHapc c x).pins = s.pins := rfl
@[simp] theorem State.setHapc_lx (s : State) (c : Nat) (x : HapCh) : (s.setHapc c x).lx = s.lx := rfl
@[simp] theorem State.setHapc_sleepIn (s : State) (c : Nat) (x : HapCh) : (s.setHapc c x).sleepIn = s.sleepIn := rfl
@[simp] theorem State.setHapc_slotKeys (s : State) (c : Nat) (x : HapCh) : (s.setHapc c x).slotKeys = s.slotKeys := rfl
@[simp] theorem State.setHapc_secq (s : State) (c : Nat) (x : HapCh) : (s.setHapc c x).secq = s.secq := rfl
@[simp] theorem State.setHapc_secLast (s : State) (c : Nat) (x : HapCh) : (s.setHapc c x).secLast = s.secLast := rfl
@[simp] theorem State.setHapc_keyStore (s : State) (c : Nat) (x : HapCh) : (s.setHapc c x).keyStore = s.keyStore := rfl
@[simp] theorem State.setHapc_sessions (s : State) (c : Nat) (x : HapCh) : (s.setHapc c x).sessions = s.sessions := rfl
@[simp] theorem State.setHapc_sids (s : State) (c : Nat) (x : HapCh) : (s.setHapc c x).sids = s.sids := rfl
@[simp] theorem State.setHapc_chal (s : State) (c : Nat) (x : HapCh) : (s.setHapc c x).chal = s.chal := rfl
@[simp] theorem State.setHapc_bootKem (s : State) (c : Nat) (x : HapCh) : (s.setHapc c x).bootKem = s.bootKem := rfl
@[simp] theorem State.setHapc_openBad (s : State) (c : Nat) (x : HapCh) : (s.setHapc c x).openBad = s.openBad := rfl
@[simp] theorem State.setHapc_openBar (s : State) (c : Nat) (x : HapCh) : (s.setHapc c x).openBar = s.openBar := rfl
@[simp] theorem State.setHapc_taken (s : State) (c : Nat) (x : HapCh) : (s.setHapc c x).taken = s.taken := rfl
@[simp] theorem State.setHapc_resp (s : State) (c : Nat) (x : HapCh) : (s.setHapc c x).resp = s.resp := rfl
@[simp] theorem State.setHapc_authAt (s : State) (c : Nat) (x : HapCh) : (s.setHapc c x).authAt = s.authAt := rfl
@[simp] theorem State.setHapc_authCnt (s : State) (c : Nat) (x : HapCh) : (s.setHapc c x).authCnt = s.authCnt := rfl
@[simp] theorem State.setHapc_meas (s : State) (c : Nat) (x : HapCh) : (s.setHapc c x).meas = s.meas := rfl
@[simp] theorem State.setHapc_lists (s : State) (c : Nat) (x : HapCh) : (s.setHapc c x).lists = s.lists := rfl
@[simp] theorem State.setHapc_fwSvn (s : State) (c : Nat) (x : HapCh) : (s.setHapc c x).fwSvn = s.fwSvn := rfl
@[simp] theorem State.setHapc_imgHash (s : State) (c : Nat) (x : HapCh) : (s.setHapc c x).imgHash = s.imgHash := rfl
@[simp] theorem State.setHapc_instKeys (s : State) (c : Nat) (x : HapCh) : (s.setHapc c x).instKeys = s.instKeys := rfl
@[simp] theorem State.setHapc_instGone (s : State) (c : Nat) (x : HapCh) : (s.setHapc c x).instGone = s.instGone := rfl
@[simp] theorem State.setHapc_otp (s : State) (c : Nat) (x : HapCh) : (s.setHapc c x).otp = s.otp := rfl
@[simp] theorem State.setHapc_vppOk (s : State) (c : Nat) (x : HapCh) : (s.setHapc c x).vppOk = s.vppOk := rfl
@[simp] theorem State.setHapc_bootsDue (s : State) (c : Nat) (x : HapCh) : (s.setHapc c x).bootsDue = s.bootsDue := rfl
@[simp] theorem State.setHapc_audFirst (s : State) (c : Nat) (x : HapCh) : (s.setHapc c x).audFirst = s.audFirst := rfl
@[simp] theorem State.setHapc_audDue (s : State) (c : Nat) (x : HapCh) : (s.setHapc c x).audDue = s.audDue := rfl
@[simp] theorem State.setHapc_dbg (s : State) (c : Nat) (x : HapCh) : (s.setHapc c x).dbg = s.dbg := rfl
@[simp] theorem State.setHapc_started (s : State) (c : Nat) (x : HapCh) : (s.setHapc c x).started = s.started := rfl
@[simp] theorem State.setHapc_rstCmd (s : State) (c : Nat) (x : HapCh) : (s.setHapc c x).rstCmd = s.rstCmd := rfl
@[simp] theorem State.setHapc_romAt (s : State) (c : Nat) (x : HapCh) : (s.setHapc c x).romAt = s.romAt := rfl
@[simp] theorem State.setHapc_recovLow (s : State) (c : Nat) (x : HapCh) : (s.setHapc c x).recovLow = s.recovLow := rfl
@[simp] theorem State.setHapc_recov (s : State) (c : Nat) (x : HapCh) : (s.setHapc c x).recov = s.recov := rfl
@[simp] theorem State.setHapc_supplies (s : State) (c : Nat) (x : HapCh) : (s.setHapc c x).supplies = s.supplies := rfl
@[simp] theorem State.setHapc_wdiv (s : State) (c : Nat) (x : HapCh) : (s.setHapc c x).wdiv = s.wdiv := rfl
@[simp] theorem State.setHapc_toRun (s : State) (c : Nat) (x : HapCh) : (s.setHapc c x).toRun = s.toRun := rfl
@[simp] theorem State.setHapc_cxpOut (s : State) (c : Nat) (x : HapCh) : (s.setHapc c x).cxpOut = s.cxpOut := rfl
@[simp] theorem State.setHapc_irqBy (s : State) (c : Nat) (x : HapCh) : (s.setHapc c x).irqBy = s.irqBy := rfl

@[simp] theorem State.modDrf_pending (s : State) (e : Nat) (f : Draft → Draft) : (s.modDrf e f).pending = s.pending := rfl
@[simp] theorem State.modDrf_cycle (s : State) (e : Nat) (f : Draft → Draft) : (s.modDrf e f).cycle = s.cycle := rfl
@[simp] theorem State.modDrf_regs (s : State) (e : Nat) (f : Draft → Draft) : (s.modDrf e f).regs = s.regs := rfl
@[simp] theorem State.modDrf_mem (s : State) (e : Nat) (f : Draft → Draft) : (s.modDrf e f).mem = s.mem := rfl
@[simp] theorem State.modDrf_syn (s : State) (e : Nat) (f : Draft → Draft) : (s.modDrf e f).syn = s.syn := rfl
@[simp] theorem State.modDrf_threads (s : State) (e : Nat) (f : Draft → Draft) : (s.modDrf e f).threads = s.threads := rfl
@[simp] theorem State.modDrf_whorls (s : State) (e : Nat) (f : Draft → Draft) : (s.modDrf e f).whorls = s.whorls := rfl
@[simp] theorem State.modDrf_chans (s : State) (e : Nat) (f : Draft → Draft) : (s.modDrf e f).chans = s.chans := rfl
@[simp] theorem State.modDrf_xchans (s : State) (e : Nat) (f : Draft → Draft) : (s.modDrf e f).xchans = s.xchans := rfl
@[simp] theorem State.modDrf_escq (s : State) (e : Nat) (f : Draft → Draft) : (s.modDrf e f).escq = s.escq := rfl
@[simp] theorem State.modDrf_quietAt (s : State) (e : Nat) (f : Draft → Draft) : (s.modDrf e f).quietAt = s.quietAt := rfl
@[simp] theorem State.modDrf_evNow (s : State) (e : Nat) (f : Draft → Draft) : (s.modDrf e f).evNow = s.evNow := rfl
@[simp] theorem State.modDrf_swNow (s : State) (e : Nat) (f : Draft → Draft) : (s.modDrf e f).swNow = s.swNow := rfl
@[simp] theorem State.modDrf_uev (s : State) (e : Nat) (f : Draft → Draft) : (s.modDrf e f).uev = s.uev := rfl
@[simp] theorem State.modDrf_free (s : State) (e : Nat) (f : Draft → Draft) : (s.modDrf e f).free = s.free := rfl
@[simp] theorem State.modDrf_tb (s : State) (e : Nat) (f : Draft → Draft) : (s.modDrf e f).tb = s.tb := rfl
@[simp] theorem State.modDrf_shadow (s : State) (e : Nat) (f : Draft → Draft) : (s.modDrf e f).shadow = s.shadow := rfl
@[simp] theorem State.modDrf_pulses (s : State) (e : Nat) (f : Draft → Draft) : (s.modDrf e f).pulses = s.pulses := rfl
@[simp] theorem State.modDrf_trcThread (s : State) (e : Nat) (f : Draft → Draft) : (s.modDrf e f).trcThread = s.trcThread := rfl
@[simp] theorem State.modDrf_trace (s : State) (e : Nat) (f : Draft → Draft) : (s.modDrf e f).trace = s.trace := rfl
@[simp] theorem State.modDrf_hap (s : State) (e : Nat) (f : Draft → Draft) : (s.modDrf e f).hap = s.hap := rfl
@[simp] theorem State.modDrf_hrspOut (s : State) (e : Nat) (f : Draft → Draft) : (s.modDrf e f).hrspOut = s.hrspOut := rfl
@[simp] theorem State.modDrf_dreqOut (s : State) (e : Nat) (f : Draft → Draft) : (s.modDrf e f).dreqOut = s.dreqOut := rfl
@[simp] theorem State.modDrf_bobV (s : State) (e : Nat) (f : Draft → Draft) : (s.modDrf e f).bobV = s.bobV := rfl
@[simp] theorem State.modDrf_bobDyn (s : State) (e : Nat) (f : Draft → Draft) : (s.modDrf e f).bobDyn = s.bobDyn := rfl
@[simp] theorem State.modDrf_bobFree (s : State) (e : Nat) (f : Draft → Draft) : (s.modDrf e f).bobFree = s.bobFree := rfl
@[simp] theorem State.modDrf_lwins (s : State) (e : Nat) (f : Draft → Draft) : (s.modDrf e f).lwins = s.lwins := rfl
@[simp] theorem State.modDrf_slipWait (s : State) (e : Nat) (f : Draft → Draft) : (s.modDrf e f).slipWait = s.slipWait := rfl
@[simp] theorem State.modDrf_ports (s : State) (e : Nat) (f : Draft → Draft) : (s.modDrf e f).ports = s.ports := rfl
@[simp] theorem State.modDrf_txq (s : State) (e : Nat) (f : Draft → Draft) : (s.modDrf e f).txq = s.txq := rfl
@[simp] theorem State.modDrf_sends (s : State) (e : Nat) (f : Draft → Draft) : (s.modDrf e f).sends = s.sends := rfl
@[simp] theorem State.modDrf_msgids (s : State) (e : Nat) (f : Draft → Draft) : (s.modDrf e f).msgids = s.msgids := rfl
@[simp] theorem State.modDrf_rtePend (s : State) (e : Nat) (f : Draft → Draft) : (s.modDrf e f).rtePend = s.rtePend := rfl
@[simp] theorem State.modDrf_srcs (s : State) (e : Nat) (f : Draft → Draft) : (s.modDrf e f).srcs = s.srcs := rfl
@[simp] theorem State.modDrf_ctxs (s : State) (e : Nat) (f : Draft → Draft) : (s.modDrf e f).ctxs = s.ctxs := rfl
@[simp] theorem State.modDrf_ackIn (s : State) (e : Nat) (f : Draft → Draft) : (s.modDrf e f).ackIn = s.ackIn := rfl
@[simp] theorem State.modDrf_sknIn (s : State) (e : Nat) (f : Draft → Draft) : (s.modDrf e f).sknIn = s.sknIn := rfl
@[simp] theorem State.modDrf_plys (s : State) (e : Nat) (f : Draft → Draft) : (s.modDrf e f).plys = s.plys := rfl
@[simp] theorem State.modDrf_skns (s : State) (e : Nat) (f : Draft → Draft) : (s.modDrf e f).skns = s.skns := rfl
@[simp] theorem State.modDrf_incNew (s : State) (e : Nat) (f : Draft → Draft) : (s.modDrf e f).incNew = s.incNew := rfl
@[simp] theorem State.modDrf_stepNew (s : State) (e : Nat) (f : Draft → Draft) : (s.modDrf e f).stepNew = s.stepNew := rfl
@[simp] theorem State.modDrf_reelArm (s : State) (e : Nat) (f : Draft → Draft) : (s.modDrf e f).reelArm = s.reelArm := rfl
@[simp] theorem State.modDrf_inc (s : State) (e : Nat) (f : Draft → Draft) : (s.modDrf e f).inc = s.inc := rfl
@[simp] theorem State.modDrf_slew (s : State) (e : Nat) (f : Draft → Draft) : (s.modDrf e f).slew = s.slew := rfl
@[simp] theorem State.modDrf_schLate (s : State) (e : Nat) (f : Draft → Draft) : (s.modDrf e f).schLate = s.schLate := rfl
@[simp] theorem State.modDrf_rclk (s : State) (e : Nat) (f : Draft → Draft) : (s.modDrf e f).rclk = s.rclk := rfl
@[simp] theorem State.modDrf_aonOld (s : State) (e : Nat) (f : Draft → Draft) : (s.modDrf e f).aonOld = s.aonOld := rfl
@[simp] theorem State.modDrf_tcons (s : State) (e : Nat) (f : Draft → Draft) : (s.modDrf e f).tcons = s.tcons := rfl
@[simp] theorem State.modDrf_capWait (s : State) (e : Nat) (f : Draft → Draft) : (s.modDrf e f).capWait = s.capWait := rfl
@[simp] theorem State.modDrf_pins (s : State) (e : Nat) (f : Draft → Draft) : (s.modDrf e f).pins = s.pins := rfl
@[simp] theorem State.modDrf_lx (s : State) (e : Nat) (f : Draft → Draft) : (s.modDrf e f).lx = s.lx := rfl
@[simp] theorem State.modDrf_sleepIn (s : State) (e : Nat) (f : Draft → Draft) : (s.modDrf e f).sleepIn = s.sleepIn := rfl
@[simp] theorem State.modDrf_slotKeys (s : State) (e : Nat) (f : Draft → Draft) : (s.modDrf e f).slotKeys = s.slotKeys := rfl
@[simp] theorem State.modDrf_secq (s : State) (e : Nat) (f : Draft → Draft) : (s.modDrf e f).secq = s.secq := rfl
@[simp] theorem State.modDrf_secLast (s : State) (e : Nat) (f : Draft → Draft) : (s.modDrf e f).secLast = s.secLast := rfl
@[simp] theorem State.modDrf_keyStore (s : State) (e : Nat) (f : Draft → Draft) : (s.modDrf e f).keyStore = s.keyStore := rfl
@[simp] theorem State.modDrf_sessions (s : State) (e : Nat) (f : Draft → Draft) : (s.modDrf e f).sessions = s.sessions := rfl
@[simp] theorem State.modDrf_sids (s : State) (e : Nat) (f : Draft → Draft) : (s.modDrf e f).sids = s.sids := rfl
@[simp] theorem State.modDrf_chal (s : State) (e : Nat) (f : Draft → Draft) : (s.modDrf e f).chal = s.chal := rfl
@[simp] theorem State.modDrf_bootKem (s : State) (e : Nat) (f : Draft → Draft) : (s.modDrf e f).bootKem = s.bootKem := rfl
@[simp] theorem State.modDrf_openBad (s : State) (e : Nat) (f : Draft → Draft) : (s.modDrf e f).openBad = s.openBad := rfl
@[simp] theorem State.modDrf_openBar (s : State) (e : Nat) (f : Draft → Draft) : (s.modDrf e f).openBar = s.openBar := rfl
@[simp] theorem State.modDrf_taken (s : State) (e : Nat) (f : Draft → Draft) : (s.modDrf e f).taken = s.taken := rfl
@[simp] theorem State.modDrf_resp (s : State) (e : Nat) (f : Draft → Draft) : (s.modDrf e f).resp = s.resp := rfl
@[simp] theorem State.modDrf_authAt (s : State) (e : Nat) (f : Draft → Draft) : (s.modDrf e f).authAt = s.authAt := rfl
@[simp] theorem State.modDrf_authCnt (s : State) (e : Nat) (f : Draft → Draft) : (s.modDrf e f).authCnt = s.authCnt := rfl
@[simp] theorem State.modDrf_meas (s : State) (e : Nat) (f : Draft → Draft) : (s.modDrf e f).meas = s.meas := rfl
@[simp] theorem State.modDrf_lists (s : State) (e : Nat) (f : Draft → Draft) : (s.modDrf e f).lists = s.lists := rfl
@[simp] theorem State.modDrf_fwSvn (s : State) (e : Nat) (f : Draft → Draft) : (s.modDrf e f).fwSvn = s.fwSvn := rfl
@[simp] theorem State.modDrf_imgHash (s : State) (e : Nat) (f : Draft → Draft) : (s.modDrf e f).imgHash = s.imgHash := rfl
@[simp] theorem State.modDrf_instKeys (s : State) (e : Nat) (f : Draft → Draft) : (s.modDrf e f).instKeys = s.instKeys := rfl
@[simp] theorem State.modDrf_instGone (s : State) (e : Nat) (f : Draft → Draft) : (s.modDrf e f).instGone = s.instGone := rfl
@[simp] theorem State.modDrf_otp (s : State) (e : Nat) (f : Draft → Draft) : (s.modDrf e f).otp = s.otp := rfl
@[simp] theorem State.modDrf_vppOk (s : State) (e : Nat) (f : Draft → Draft) : (s.modDrf e f).vppOk = s.vppOk := rfl
@[simp] theorem State.modDrf_bootsDue (s : State) (e : Nat) (f : Draft → Draft) : (s.modDrf e f).bootsDue = s.bootsDue := rfl
@[simp] theorem State.modDrf_audFirst (s : State) (e : Nat) (f : Draft → Draft) : (s.modDrf e f).audFirst = s.audFirst := rfl
@[simp] theorem State.modDrf_audDue (s : State) (e : Nat) (f : Draft → Draft) : (s.modDrf e f).audDue = s.audDue := rfl
@[simp] theorem State.modDrf_dbg (s : State) (e : Nat) (f : Draft → Draft) : (s.modDrf e f).dbg = s.dbg := rfl
@[simp] theorem State.modDrf_started (s : State) (e : Nat) (f : Draft → Draft) : (s.modDrf e f).started = s.started := rfl
@[simp] theorem State.modDrf_rstCmd (s : State) (e : Nat) (f : Draft → Draft) : (s.modDrf e f).rstCmd = s.rstCmd := rfl
@[simp] theorem State.modDrf_romAt (s : State) (e : Nat) (f : Draft → Draft) : (s.modDrf e f).romAt = s.romAt := rfl
@[simp] theorem State.modDrf_recovLow (s : State) (e : Nat) (f : Draft → Draft) : (s.modDrf e f).recovLow = s.recovLow := rfl
@[simp] theorem State.modDrf_recov (s : State) (e : Nat) (f : Draft → Draft) : (s.modDrf e f).recov = s.recov := rfl
@[simp] theorem State.modDrf_supplies (s : State) (e : Nat) (f : Draft → Draft) : (s.modDrf e f).supplies = s.supplies := rfl
@[simp] theorem State.modDrf_wdiv (s : State) (e : Nat) (f : Draft → Draft) : (s.modDrf e f).wdiv = s.wdiv := rfl
@[simp] theorem State.modDrf_toRun (s : State) (e : Nat) (f : Draft → Draft) : (s.modDrf e f).toRun = s.toRun := rfl
@[simp] theorem State.modDrf_cxpOut (s : State) (e : Nat) (f : Draft → Draft) : (s.modDrf e f).cxpOut = s.cxpOut := rfl
@[simp] theorem State.modDrf_irqBy (s : State) (e : Nat) (f : Draft → Draft) : (s.modDrf e f).irqBy = s.irqBy := rfl

@[simp] theorem State.modPly_pending (s : State) (u : Nat) (f : Ply → Ply) : (s.modPly u f).pending = s.pending := rfl
@[simp] theorem State.modPly_cycle (s : State) (u : Nat) (f : Ply → Ply) : (s.modPly u f).cycle = s.cycle := rfl
@[simp] theorem State.modPly_regs (s : State) (u : Nat) (f : Ply → Ply) : (s.modPly u f).regs = s.regs := rfl
@[simp] theorem State.modPly_mem (s : State) (u : Nat) (f : Ply → Ply) : (s.modPly u f).mem = s.mem := rfl
@[simp] theorem State.modPly_syn (s : State) (u : Nat) (f : Ply → Ply) : (s.modPly u f).syn = s.syn := rfl
@[simp] theorem State.modPly_threads (s : State) (u : Nat) (f : Ply → Ply) : (s.modPly u f).threads = s.threads := rfl
@[simp] theorem State.modPly_whorls (s : State) (u : Nat) (f : Ply → Ply) : (s.modPly u f).whorls = s.whorls := rfl
@[simp] theorem State.modPly_chans (s : State) (u : Nat) (f : Ply → Ply) : (s.modPly u f).chans = s.chans := rfl
@[simp] theorem State.modPly_xchans (s : State) (u : Nat) (f : Ply → Ply) : (s.modPly u f).xchans = s.xchans := rfl
@[simp] theorem State.modPly_escq (s : State) (u : Nat) (f : Ply → Ply) : (s.modPly u f).escq = s.escq := rfl
@[simp] theorem State.modPly_quietAt (s : State) (u : Nat) (f : Ply → Ply) : (s.modPly u f).quietAt = s.quietAt := rfl
@[simp] theorem State.modPly_evNow (s : State) (u : Nat) (f : Ply → Ply) : (s.modPly u f).evNow = s.evNow := rfl
@[simp] theorem State.modPly_swNow (s : State) (u : Nat) (f : Ply → Ply) : (s.modPly u f).swNow = s.swNow := rfl
@[simp] theorem State.modPly_uev (s : State) (u : Nat) (f : Ply → Ply) : (s.modPly u f).uev = s.uev := rfl
@[simp] theorem State.modPly_free (s : State) (u : Nat) (f : Ply → Ply) : (s.modPly u f).free = s.free := rfl
@[simp] theorem State.modPly_tb (s : State) (u : Nat) (f : Ply → Ply) : (s.modPly u f).tb = s.tb := rfl
@[simp] theorem State.modPly_shadow (s : State) (u : Nat) (f : Ply → Ply) : (s.modPly u f).shadow = s.shadow := rfl
@[simp] theorem State.modPly_pulses (s : State) (u : Nat) (f : Ply → Ply) : (s.modPly u f).pulses = s.pulses := rfl
@[simp] theorem State.modPly_trcThread (s : State) (u : Nat) (f : Ply → Ply) : (s.modPly u f).trcThread = s.trcThread := rfl
@[simp] theorem State.modPly_trace (s : State) (u : Nat) (f : Ply → Ply) : (s.modPly u f).trace = s.trace := rfl
@[simp] theorem State.modPly_hap (s : State) (u : Nat) (f : Ply → Ply) : (s.modPly u f).hap = s.hap := rfl
@[simp] theorem State.modPly_hrspOut (s : State) (u : Nat) (f : Ply → Ply) : (s.modPly u f).hrspOut = s.hrspOut := rfl
@[simp] theorem State.modPly_dreqOut (s : State) (u : Nat) (f : Ply → Ply) : (s.modPly u f).dreqOut = s.dreqOut := rfl
@[simp] theorem State.modPly_bobV (s : State) (u : Nat) (f : Ply → Ply) : (s.modPly u f).bobV = s.bobV := rfl
@[simp] theorem State.modPly_bobDyn (s : State) (u : Nat) (f : Ply → Ply) : (s.modPly u f).bobDyn = s.bobDyn := rfl
@[simp] theorem State.modPly_bobFree (s : State) (u : Nat) (f : Ply → Ply) : (s.modPly u f).bobFree = s.bobFree := rfl
@[simp] theorem State.modPly_lwins (s : State) (u : Nat) (f : Ply → Ply) : (s.modPly u f).lwins = s.lwins := rfl
@[simp] theorem State.modPly_slipWait (s : State) (u : Nat) (f : Ply → Ply) : (s.modPly u f).slipWait = s.slipWait := rfl
@[simp] theorem State.modPly_ports (s : State) (u : Nat) (f : Ply → Ply) : (s.modPly u f).ports = s.ports := rfl
@[simp] theorem State.modPly_txq (s : State) (u : Nat) (f : Ply → Ply) : (s.modPly u f).txq = s.txq := rfl
@[simp] theorem State.modPly_sends (s : State) (u : Nat) (f : Ply → Ply) : (s.modPly u f).sends = s.sends := rfl
@[simp] theorem State.modPly_msgids (s : State) (u : Nat) (f : Ply → Ply) : (s.modPly u f).msgids = s.msgids := rfl
@[simp] theorem State.modPly_rtePend (s : State) (u : Nat) (f : Ply → Ply) : (s.modPly u f).rtePend = s.rtePend := rfl
@[simp] theorem State.modPly_srcs (s : State) (u : Nat) (f : Ply → Ply) : (s.modPly u f).srcs = s.srcs := rfl
@[simp] theorem State.modPly_ctxs (s : State) (u : Nat) (f : Ply → Ply) : (s.modPly u f).ctxs = s.ctxs := rfl
@[simp] theorem State.modPly_ackIn (s : State) (u : Nat) (f : Ply → Ply) : (s.modPly u f).ackIn = s.ackIn := rfl
@[simp] theorem State.modPly_sknIn (s : State) (u : Nat) (f : Ply → Ply) : (s.modPly u f).sknIn = s.sknIn := rfl
@[simp] theorem State.modPly_drafts (s : State) (u : Nat) (f : Ply → Ply) : (s.modPly u f).drafts = s.drafts := rfl
@[simp] theorem State.modPly_skns (s : State) (u : Nat) (f : Ply → Ply) : (s.modPly u f).skns = s.skns := rfl
@[simp] theorem State.modPly_incNew (s : State) (u : Nat) (f : Ply → Ply) : (s.modPly u f).incNew = s.incNew := rfl
@[simp] theorem State.modPly_stepNew (s : State) (u : Nat) (f : Ply → Ply) : (s.modPly u f).stepNew = s.stepNew := rfl
@[simp] theorem State.modPly_reelArm (s : State) (u : Nat) (f : Ply → Ply) : (s.modPly u f).reelArm = s.reelArm := rfl
@[simp] theorem State.modPly_inc (s : State) (u : Nat) (f : Ply → Ply) : (s.modPly u f).inc = s.inc := rfl
@[simp] theorem State.modPly_slew (s : State) (u : Nat) (f : Ply → Ply) : (s.modPly u f).slew = s.slew := rfl
@[simp] theorem State.modPly_schLate (s : State) (u : Nat) (f : Ply → Ply) : (s.modPly u f).schLate = s.schLate := rfl
@[simp] theorem State.modPly_rclk (s : State) (u : Nat) (f : Ply → Ply) : (s.modPly u f).rclk = s.rclk := rfl
@[simp] theorem State.modPly_aonOld (s : State) (u : Nat) (f : Ply → Ply) : (s.modPly u f).aonOld = s.aonOld := rfl
@[simp] theorem State.modPly_tcons (s : State) (u : Nat) (f : Ply → Ply) : (s.modPly u f).tcons = s.tcons := rfl
@[simp] theorem State.modPly_capWait (s : State) (u : Nat) (f : Ply → Ply) : (s.modPly u f).capWait = s.capWait := rfl
@[simp] theorem State.modPly_pins (s : State) (u : Nat) (f : Ply → Ply) : (s.modPly u f).pins = s.pins := rfl
@[simp] theorem State.modPly_lx (s : State) (u : Nat) (f : Ply → Ply) : (s.modPly u f).lx = s.lx := rfl
@[simp] theorem State.modPly_sleepIn (s : State) (u : Nat) (f : Ply → Ply) : (s.modPly u f).sleepIn = s.sleepIn := rfl
@[simp] theorem State.modPly_slotKeys (s : State) (u : Nat) (f : Ply → Ply) : (s.modPly u f).slotKeys = s.slotKeys := rfl
@[simp] theorem State.modPly_secq (s : State) (u : Nat) (f : Ply → Ply) : (s.modPly u f).secq = s.secq := rfl
@[simp] theorem State.modPly_secLast (s : State) (u : Nat) (f : Ply → Ply) : (s.modPly u f).secLast = s.secLast := rfl
@[simp] theorem State.modPly_keyStore (s : State) (u : Nat) (f : Ply → Ply) : (s.modPly u f).keyStore = s.keyStore := rfl
@[simp] theorem State.modPly_sessions (s : State) (u : Nat) (f : Ply → Ply) : (s.modPly u f).sessions = s.sessions := rfl
@[simp] theorem State.modPly_sids (s : State) (u : Nat) (f : Ply → Ply) : (s.modPly u f).sids = s.sids := rfl
@[simp] theorem State.modPly_chal (s : State) (u : Nat) (f : Ply → Ply) : (s.modPly u f).chal = s.chal := rfl
@[simp] theorem State.modPly_bootKem (s : State) (u : Nat) (f : Ply → Ply) : (s.modPly u f).bootKem = s.bootKem := rfl
@[simp] theorem State.modPly_openBad (s : State) (u : Nat) (f : Ply → Ply) : (s.modPly u f).openBad = s.openBad := rfl
@[simp] theorem State.modPly_openBar (s : State) (u : Nat) (f : Ply → Ply) : (s.modPly u f).openBar = s.openBar := rfl
@[simp] theorem State.modPly_taken (s : State) (u : Nat) (f : Ply → Ply) : (s.modPly u f).taken = s.taken := rfl
@[simp] theorem State.modPly_resp (s : State) (u : Nat) (f : Ply → Ply) : (s.modPly u f).resp = s.resp := rfl
@[simp] theorem State.modPly_authAt (s : State) (u : Nat) (f : Ply → Ply) : (s.modPly u f).authAt = s.authAt := rfl
@[simp] theorem State.modPly_authCnt (s : State) (u : Nat) (f : Ply → Ply) : (s.modPly u f).authCnt = s.authCnt := rfl
@[simp] theorem State.modPly_meas (s : State) (u : Nat) (f : Ply → Ply) : (s.modPly u f).meas = s.meas := rfl
@[simp] theorem State.modPly_lists (s : State) (u : Nat) (f : Ply → Ply) : (s.modPly u f).lists = s.lists := rfl
@[simp] theorem State.modPly_fwSvn (s : State) (u : Nat) (f : Ply → Ply) : (s.modPly u f).fwSvn = s.fwSvn := rfl
@[simp] theorem State.modPly_imgHash (s : State) (u : Nat) (f : Ply → Ply) : (s.modPly u f).imgHash = s.imgHash := rfl
@[simp] theorem State.modPly_instKeys (s : State) (u : Nat) (f : Ply → Ply) : (s.modPly u f).instKeys = s.instKeys := rfl
@[simp] theorem State.modPly_instGone (s : State) (u : Nat) (f : Ply → Ply) : (s.modPly u f).instGone = s.instGone := rfl
@[simp] theorem State.modPly_otp (s : State) (u : Nat) (f : Ply → Ply) : (s.modPly u f).otp = s.otp := rfl
@[simp] theorem State.modPly_vppOk (s : State) (u : Nat) (f : Ply → Ply) : (s.modPly u f).vppOk = s.vppOk := rfl
@[simp] theorem State.modPly_bootsDue (s : State) (u : Nat) (f : Ply → Ply) : (s.modPly u f).bootsDue = s.bootsDue := rfl
@[simp] theorem State.modPly_audFirst (s : State) (u : Nat) (f : Ply → Ply) : (s.modPly u f).audFirst = s.audFirst := rfl
@[simp] theorem State.modPly_audDue (s : State) (u : Nat) (f : Ply → Ply) : (s.modPly u f).audDue = s.audDue := rfl
@[simp] theorem State.modPly_dbg (s : State) (u : Nat) (f : Ply → Ply) : (s.modPly u f).dbg = s.dbg := rfl
@[simp] theorem State.modPly_started (s : State) (u : Nat) (f : Ply → Ply) : (s.modPly u f).started = s.started := rfl
@[simp] theorem State.modPly_rstCmd (s : State) (u : Nat) (f : Ply → Ply) : (s.modPly u f).rstCmd = s.rstCmd := rfl
@[simp] theorem State.modPly_romAt (s : State) (u : Nat) (f : Ply → Ply) : (s.modPly u f).romAt = s.romAt := rfl
@[simp] theorem State.modPly_recovLow (s : State) (u : Nat) (f : Ply → Ply) : (s.modPly u f).recovLow = s.recovLow := rfl
@[simp] theorem State.modPly_recov (s : State) (u : Nat) (f : Ply → Ply) : (s.modPly u f).recov = s.recov := rfl
@[simp] theorem State.modPly_supplies (s : State) (u : Nat) (f : Ply → Ply) : (s.modPly u f).supplies = s.supplies := rfl
@[simp] theorem State.modPly_wdiv (s : State) (u : Nat) (f : Ply → Ply) : (s.modPly u f).wdiv = s.wdiv := rfl
@[simp] theorem State.modPly_toRun (s : State) (u : Nat) (f : Ply → Ply) : (s.modPly u f).toRun = s.toRun := rfl
@[simp] theorem State.modPly_cxpOut (s : State) (u : Nat) (f : Ply → Ply) : (s.modPly u f).cxpOut = s.cxpOut := rfl
@[simp] theorem State.modPly_irqBy (s : State) (u : Nat) (f : Ply → Ply) : (s.modPly u f).irqBy = s.irqBy := rfl

@[simp] theorem State.modSkn_pending (s : State) (c : Nat) (f : SkCtx → SkCtx) : (s.modSkn c f).pending = s.pending := rfl
@[simp] theorem State.modSkn_cycle (s : State) (c : Nat) (f : SkCtx → SkCtx) : (s.modSkn c f).cycle = s.cycle := rfl
@[simp] theorem State.modSkn_regs (s : State) (c : Nat) (f : SkCtx → SkCtx) : (s.modSkn c f).regs = s.regs := rfl
@[simp] theorem State.modSkn_mem (s : State) (c : Nat) (f : SkCtx → SkCtx) : (s.modSkn c f).mem = s.mem := rfl
@[simp] theorem State.modSkn_syn (s : State) (c : Nat) (f : SkCtx → SkCtx) : (s.modSkn c f).syn = s.syn := rfl
@[simp] theorem State.modSkn_threads (s : State) (c : Nat) (f : SkCtx → SkCtx) : (s.modSkn c f).threads = s.threads := rfl
@[simp] theorem State.modSkn_whorls (s : State) (c : Nat) (f : SkCtx → SkCtx) : (s.modSkn c f).whorls = s.whorls := rfl
@[simp] theorem State.modSkn_chans (s : State) (c : Nat) (f : SkCtx → SkCtx) : (s.modSkn c f).chans = s.chans := rfl
@[simp] theorem State.modSkn_xchans (s : State) (c : Nat) (f : SkCtx → SkCtx) : (s.modSkn c f).xchans = s.xchans := rfl
@[simp] theorem State.modSkn_escq (s : State) (c : Nat) (f : SkCtx → SkCtx) : (s.modSkn c f).escq = s.escq := rfl
@[simp] theorem State.modSkn_quietAt (s : State) (c : Nat) (f : SkCtx → SkCtx) : (s.modSkn c f).quietAt = s.quietAt := rfl
@[simp] theorem State.modSkn_evNow (s : State) (c : Nat) (f : SkCtx → SkCtx) : (s.modSkn c f).evNow = s.evNow := rfl
@[simp] theorem State.modSkn_swNow (s : State) (c : Nat) (f : SkCtx → SkCtx) : (s.modSkn c f).swNow = s.swNow := rfl
@[simp] theorem State.modSkn_uev (s : State) (c : Nat) (f : SkCtx → SkCtx) : (s.modSkn c f).uev = s.uev := rfl
@[simp] theorem State.modSkn_free (s : State) (c : Nat) (f : SkCtx → SkCtx) : (s.modSkn c f).free = s.free := rfl
@[simp] theorem State.modSkn_tb (s : State) (c : Nat) (f : SkCtx → SkCtx) : (s.modSkn c f).tb = s.tb := rfl
@[simp] theorem State.modSkn_shadow (s : State) (c : Nat) (f : SkCtx → SkCtx) : (s.modSkn c f).shadow = s.shadow := rfl
@[simp] theorem State.modSkn_pulses (s : State) (c : Nat) (f : SkCtx → SkCtx) : (s.modSkn c f).pulses = s.pulses := rfl
@[simp] theorem State.modSkn_trcThread (s : State) (c : Nat) (f : SkCtx → SkCtx) : (s.modSkn c f).trcThread = s.trcThread := rfl
@[simp] theorem State.modSkn_trace (s : State) (c : Nat) (f : SkCtx → SkCtx) : (s.modSkn c f).trace = s.trace := rfl
@[simp] theorem State.modSkn_hap (s : State) (c : Nat) (f : SkCtx → SkCtx) : (s.modSkn c f).hap = s.hap := rfl
@[simp] theorem State.modSkn_hrspOut (s : State) (c : Nat) (f : SkCtx → SkCtx) : (s.modSkn c f).hrspOut = s.hrspOut := rfl
@[simp] theorem State.modSkn_dreqOut (s : State) (c : Nat) (f : SkCtx → SkCtx) : (s.modSkn c f).dreqOut = s.dreqOut := rfl
@[simp] theorem State.modSkn_bobV (s : State) (c : Nat) (f : SkCtx → SkCtx) : (s.modSkn c f).bobV = s.bobV := rfl
@[simp] theorem State.modSkn_bobDyn (s : State) (c : Nat) (f : SkCtx → SkCtx) : (s.modSkn c f).bobDyn = s.bobDyn := rfl
@[simp] theorem State.modSkn_bobFree (s : State) (c : Nat) (f : SkCtx → SkCtx) : (s.modSkn c f).bobFree = s.bobFree := rfl
@[simp] theorem State.modSkn_lwins (s : State) (c : Nat) (f : SkCtx → SkCtx) : (s.modSkn c f).lwins = s.lwins := rfl
@[simp] theorem State.modSkn_slipWait (s : State) (c : Nat) (f : SkCtx → SkCtx) : (s.modSkn c f).slipWait = s.slipWait := rfl
@[simp] theorem State.modSkn_ports (s : State) (c : Nat) (f : SkCtx → SkCtx) : (s.modSkn c f).ports = s.ports := rfl
@[simp] theorem State.modSkn_txq (s : State) (c : Nat) (f : SkCtx → SkCtx) : (s.modSkn c f).txq = s.txq := rfl
@[simp] theorem State.modSkn_sends (s : State) (c : Nat) (f : SkCtx → SkCtx) : (s.modSkn c f).sends = s.sends := rfl
@[simp] theorem State.modSkn_msgids (s : State) (c : Nat) (f : SkCtx → SkCtx) : (s.modSkn c f).msgids = s.msgids := rfl
@[simp] theorem State.modSkn_rtePend (s : State) (c : Nat) (f : SkCtx → SkCtx) : (s.modSkn c f).rtePend = s.rtePend := rfl
@[simp] theorem State.modSkn_srcs (s : State) (c : Nat) (f : SkCtx → SkCtx) : (s.modSkn c f).srcs = s.srcs := rfl
@[simp] theorem State.modSkn_ctxs (s : State) (c : Nat) (f : SkCtx → SkCtx) : (s.modSkn c f).ctxs = s.ctxs := rfl
@[simp] theorem State.modSkn_ackIn (s : State) (c : Nat) (f : SkCtx → SkCtx) : (s.modSkn c f).ackIn = s.ackIn := rfl
@[simp] theorem State.modSkn_sknIn (s : State) (c : Nat) (f : SkCtx → SkCtx) : (s.modSkn c f).sknIn = s.sknIn := rfl
@[simp] theorem State.modSkn_drafts (s : State) (c : Nat) (f : SkCtx → SkCtx) : (s.modSkn c f).drafts = s.drafts := rfl
@[simp] theorem State.modSkn_plys (s : State) (c : Nat) (f : SkCtx → SkCtx) : (s.modSkn c f).plys = s.plys := rfl
@[simp] theorem State.modSkn_incNew (s : State) (c : Nat) (f : SkCtx → SkCtx) : (s.modSkn c f).incNew = s.incNew := rfl
@[simp] theorem State.modSkn_stepNew (s : State) (c : Nat) (f : SkCtx → SkCtx) : (s.modSkn c f).stepNew = s.stepNew := rfl
@[simp] theorem State.modSkn_reelArm (s : State) (c : Nat) (f : SkCtx → SkCtx) : (s.modSkn c f).reelArm = s.reelArm := rfl
@[simp] theorem State.modSkn_inc (s : State) (c : Nat) (f : SkCtx → SkCtx) : (s.modSkn c f).inc = s.inc := rfl
@[simp] theorem State.modSkn_slew (s : State) (c : Nat) (f : SkCtx → SkCtx) : (s.modSkn c f).slew = s.slew := rfl
@[simp] theorem State.modSkn_schLate (s : State) (c : Nat) (f : SkCtx → SkCtx) : (s.modSkn c f).schLate = s.schLate := rfl
@[simp] theorem State.modSkn_rclk (s : State) (c : Nat) (f : SkCtx → SkCtx) : (s.modSkn c f).rclk = s.rclk := rfl
@[simp] theorem State.modSkn_aonOld (s : State) (c : Nat) (f : SkCtx → SkCtx) : (s.modSkn c f).aonOld = s.aonOld := rfl
@[simp] theorem State.modSkn_tcons (s : State) (c : Nat) (f : SkCtx → SkCtx) : (s.modSkn c f).tcons = s.tcons := rfl
@[simp] theorem State.modSkn_capWait (s : State) (c : Nat) (f : SkCtx → SkCtx) : (s.modSkn c f).capWait = s.capWait := rfl
@[simp] theorem State.modSkn_pins (s : State) (c : Nat) (f : SkCtx → SkCtx) : (s.modSkn c f).pins = s.pins := rfl
@[simp] theorem State.modSkn_lx (s : State) (c : Nat) (f : SkCtx → SkCtx) : (s.modSkn c f).lx = s.lx := rfl
@[simp] theorem State.modSkn_sleepIn (s : State) (c : Nat) (f : SkCtx → SkCtx) : (s.modSkn c f).sleepIn = s.sleepIn := rfl
@[simp] theorem State.modSkn_slotKeys (s : State) (c : Nat) (f : SkCtx → SkCtx) : (s.modSkn c f).slotKeys = s.slotKeys := rfl
@[simp] theorem State.modSkn_secq (s : State) (c : Nat) (f : SkCtx → SkCtx) : (s.modSkn c f).secq = s.secq := rfl
@[simp] theorem State.modSkn_secLast (s : State) (c : Nat) (f : SkCtx → SkCtx) : (s.modSkn c f).secLast = s.secLast := rfl
@[simp] theorem State.modSkn_keyStore (s : State) (c : Nat) (f : SkCtx → SkCtx) : (s.modSkn c f).keyStore = s.keyStore := rfl
@[simp] theorem State.modSkn_sessions (s : State) (c : Nat) (f : SkCtx → SkCtx) : (s.modSkn c f).sessions = s.sessions := rfl
@[simp] theorem State.modSkn_sids (s : State) (c : Nat) (f : SkCtx → SkCtx) : (s.modSkn c f).sids = s.sids := rfl
@[simp] theorem State.modSkn_chal (s : State) (c : Nat) (f : SkCtx → SkCtx) : (s.modSkn c f).chal = s.chal := rfl
@[simp] theorem State.modSkn_bootKem (s : State) (c : Nat) (f : SkCtx → SkCtx) : (s.modSkn c f).bootKem = s.bootKem := rfl
@[simp] theorem State.modSkn_openBad (s : State) (c : Nat) (f : SkCtx → SkCtx) : (s.modSkn c f).openBad = s.openBad := rfl
@[simp] theorem State.modSkn_openBar (s : State) (c : Nat) (f : SkCtx → SkCtx) : (s.modSkn c f).openBar = s.openBar := rfl
@[simp] theorem State.modSkn_taken (s : State) (c : Nat) (f : SkCtx → SkCtx) : (s.modSkn c f).taken = s.taken := rfl
@[simp] theorem State.modSkn_resp (s : State) (c : Nat) (f : SkCtx → SkCtx) : (s.modSkn c f).resp = s.resp := rfl
@[simp] theorem State.modSkn_authAt (s : State) (c : Nat) (f : SkCtx → SkCtx) : (s.modSkn c f).authAt = s.authAt := rfl
@[simp] theorem State.modSkn_authCnt (s : State) (c : Nat) (f : SkCtx → SkCtx) : (s.modSkn c f).authCnt = s.authCnt := rfl
@[simp] theorem State.modSkn_meas (s : State) (c : Nat) (f : SkCtx → SkCtx) : (s.modSkn c f).meas = s.meas := rfl
@[simp] theorem State.modSkn_lists (s : State) (c : Nat) (f : SkCtx → SkCtx) : (s.modSkn c f).lists = s.lists := rfl
@[simp] theorem State.modSkn_fwSvn (s : State) (c : Nat) (f : SkCtx → SkCtx) : (s.modSkn c f).fwSvn = s.fwSvn := rfl
@[simp] theorem State.modSkn_imgHash (s : State) (c : Nat) (f : SkCtx → SkCtx) : (s.modSkn c f).imgHash = s.imgHash := rfl
@[simp] theorem State.modSkn_instKeys (s : State) (c : Nat) (f : SkCtx → SkCtx) : (s.modSkn c f).instKeys = s.instKeys := rfl
@[simp] theorem State.modSkn_instGone (s : State) (c : Nat) (f : SkCtx → SkCtx) : (s.modSkn c f).instGone = s.instGone := rfl
@[simp] theorem State.modSkn_otp (s : State) (c : Nat) (f : SkCtx → SkCtx) : (s.modSkn c f).otp = s.otp := rfl
@[simp] theorem State.modSkn_vppOk (s : State) (c : Nat) (f : SkCtx → SkCtx) : (s.modSkn c f).vppOk = s.vppOk := rfl
@[simp] theorem State.modSkn_bootsDue (s : State) (c : Nat) (f : SkCtx → SkCtx) : (s.modSkn c f).bootsDue = s.bootsDue := rfl
@[simp] theorem State.modSkn_audFirst (s : State) (c : Nat) (f : SkCtx → SkCtx) : (s.modSkn c f).audFirst = s.audFirst := rfl
@[simp] theorem State.modSkn_audDue (s : State) (c : Nat) (f : SkCtx → SkCtx) : (s.modSkn c f).audDue = s.audDue := rfl
@[simp] theorem State.modSkn_dbg (s : State) (c : Nat) (f : SkCtx → SkCtx) : (s.modSkn c f).dbg = s.dbg := rfl
@[simp] theorem State.modSkn_started (s : State) (c : Nat) (f : SkCtx → SkCtx) : (s.modSkn c f).started = s.started := rfl
@[simp] theorem State.modSkn_rstCmd (s : State) (c : Nat) (f : SkCtx → SkCtx) : (s.modSkn c f).rstCmd = s.rstCmd := rfl
@[simp] theorem State.modSkn_romAt (s : State) (c : Nat) (f : SkCtx → SkCtx) : (s.modSkn c f).romAt = s.romAt := rfl
@[simp] theorem State.modSkn_recovLow (s : State) (c : Nat) (f : SkCtx → SkCtx) : (s.modSkn c f).recovLow = s.recovLow := rfl
@[simp] theorem State.modSkn_recov (s : State) (c : Nat) (f : SkCtx → SkCtx) : (s.modSkn c f).recov = s.recov := rfl
@[simp] theorem State.modSkn_supplies (s : State) (c : Nat) (f : SkCtx → SkCtx) : (s.modSkn c f).supplies = s.supplies := rfl
@[simp] theorem State.modSkn_wdiv (s : State) (c : Nat) (f : SkCtx → SkCtx) : (s.modSkn c f).wdiv = s.wdiv := rfl
@[simp] theorem State.modSkn_toRun (s : State) (c : Nat) (f : SkCtx → SkCtx) : (s.modSkn c f).toRun = s.toRun := rfl
@[simp] theorem State.modSkn_cxpOut (s : State) (c : Nat) (f : SkCtx → SkCtx) : (s.modSkn c f).cxpOut = s.cxpOut := rfl
@[simp] theorem State.modSkn_irqBy (s : State) (c : Nat) (f : SkCtx → SkCtx) : (s.modSkn c f).irqBy = s.irqBy := rfl

@[simp] theorem State.modTcon_pending (s : State) (c : Nat) (f : TCons → TCons) : (s.modTcon c f).pending = s.pending := rfl
@[simp] theorem State.modTcon_cycle (s : State) (c : Nat) (f : TCons → TCons) : (s.modTcon c f).cycle = s.cycle := rfl
@[simp] theorem State.modTcon_regs (s : State) (c : Nat) (f : TCons → TCons) : (s.modTcon c f).regs = s.regs := rfl
@[simp] theorem State.modTcon_mem (s : State) (c : Nat) (f : TCons → TCons) : (s.modTcon c f).mem = s.mem := rfl
@[simp] theorem State.modTcon_syn (s : State) (c : Nat) (f : TCons → TCons) : (s.modTcon c f).syn = s.syn := rfl
@[simp] theorem State.modTcon_threads (s : State) (c : Nat) (f : TCons → TCons) : (s.modTcon c f).threads = s.threads := rfl
@[simp] theorem State.modTcon_whorls (s : State) (c : Nat) (f : TCons → TCons) : (s.modTcon c f).whorls = s.whorls := rfl
@[simp] theorem State.modTcon_chans (s : State) (c : Nat) (f : TCons → TCons) : (s.modTcon c f).chans = s.chans := rfl
@[simp] theorem State.modTcon_xchans (s : State) (c : Nat) (f : TCons → TCons) : (s.modTcon c f).xchans = s.xchans := rfl
@[simp] theorem State.modTcon_escq (s : State) (c : Nat) (f : TCons → TCons) : (s.modTcon c f).escq = s.escq := rfl
@[simp] theorem State.modTcon_quietAt (s : State) (c : Nat) (f : TCons → TCons) : (s.modTcon c f).quietAt = s.quietAt := rfl
@[simp] theorem State.modTcon_evNow (s : State) (c : Nat) (f : TCons → TCons) : (s.modTcon c f).evNow = s.evNow := rfl
@[simp] theorem State.modTcon_swNow (s : State) (c : Nat) (f : TCons → TCons) : (s.modTcon c f).swNow = s.swNow := rfl
@[simp] theorem State.modTcon_uev (s : State) (c : Nat) (f : TCons → TCons) : (s.modTcon c f).uev = s.uev := rfl
@[simp] theorem State.modTcon_free (s : State) (c : Nat) (f : TCons → TCons) : (s.modTcon c f).free = s.free := rfl
@[simp] theorem State.modTcon_tb (s : State) (c : Nat) (f : TCons → TCons) : (s.modTcon c f).tb = s.tb := rfl
@[simp] theorem State.modTcon_shadow (s : State) (c : Nat) (f : TCons → TCons) : (s.modTcon c f).shadow = s.shadow := rfl
@[simp] theorem State.modTcon_pulses (s : State) (c : Nat) (f : TCons → TCons) : (s.modTcon c f).pulses = s.pulses := rfl
@[simp] theorem State.modTcon_trcThread (s : State) (c : Nat) (f : TCons → TCons) : (s.modTcon c f).trcThread = s.trcThread := rfl
@[simp] theorem State.modTcon_trace (s : State) (c : Nat) (f : TCons → TCons) : (s.modTcon c f).trace = s.trace := rfl
@[simp] theorem State.modTcon_hap (s : State) (c : Nat) (f : TCons → TCons) : (s.modTcon c f).hap = s.hap := rfl
@[simp] theorem State.modTcon_hrspOut (s : State) (c : Nat) (f : TCons → TCons) : (s.modTcon c f).hrspOut = s.hrspOut := rfl
@[simp] theorem State.modTcon_dreqOut (s : State) (c : Nat) (f : TCons → TCons) : (s.modTcon c f).dreqOut = s.dreqOut := rfl
@[simp] theorem State.modTcon_bobV (s : State) (c : Nat) (f : TCons → TCons) : (s.modTcon c f).bobV = s.bobV := rfl
@[simp] theorem State.modTcon_bobDyn (s : State) (c : Nat) (f : TCons → TCons) : (s.modTcon c f).bobDyn = s.bobDyn := rfl
@[simp] theorem State.modTcon_bobFree (s : State) (c : Nat) (f : TCons → TCons) : (s.modTcon c f).bobFree = s.bobFree := rfl
@[simp] theorem State.modTcon_lwins (s : State) (c : Nat) (f : TCons → TCons) : (s.modTcon c f).lwins = s.lwins := rfl
@[simp] theorem State.modTcon_slipWait (s : State) (c : Nat) (f : TCons → TCons) : (s.modTcon c f).slipWait = s.slipWait := rfl
@[simp] theorem State.modTcon_ports (s : State) (c : Nat) (f : TCons → TCons) : (s.modTcon c f).ports = s.ports := rfl
@[simp] theorem State.modTcon_txq (s : State) (c : Nat) (f : TCons → TCons) : (s.modTcon c f).txq = s.txq := rfl
@[simp] theorem State.modTcon_sends (s : State) (c : Nat) (f : TCons → TCons) : (s.modTcon c f).sends = s.sends := rfl
@[simp] theorem State.modTcon_msgids (s : State) (c : Nat) (f : TCons → TCons) : (s.modTcon c f).msgids = s.msgids := rfl
@[simp] theorem State.modTcon_rtePend (s : State) (c : Nat) (f : TCons → TCons) : (s.modTcon c f).rtePend = s.rtePend := rfl
@[simp] theorem State.modTcon_srcs (s : State) (c : Nat) (f : TCons → TCons) : (s.modTcon c f).srcs = s.srcs := rfl
@[simp] theorem State.modTcon_ctxs (s : State) (c : Nat) (f : TCons → TCons) : (s.modTcon c f).ctxs = s.ctxs := rfl
@[simp] theorem State.modTcon_ackIn (s : State) (c : Nat) (f : TCons → TCons) : (s.modTcon c f).ackIn = s.ackIn := rfl
@[simp] theorem State.modTcon_sknIn (s : State) (c : Nat) (f : TCons → TCons) : (s.modTcon c f).sknIn = s.sknIn := rfl
@[simp] theorem State.modTcon_drafts (s : State) (c : Nat) (f : TCons → TCons) : (s.modTcon c f).drafts = s.drafts := rfl
@[simp] theorem State.modTcon_plys (s : State) (c : Nat) (f : TCons → TCons) : (s.modTcon c f).plys = s.plys := rfl
@[simp] theorem State.modTcon_skns (s : State) (c : Nat) (f : TCons → TCons) : (s.modTcon c f).skns = s.skns := rfl
@[simp] theorem State.modTcon_incNew (s : State) (c : Nat) (f : TCons → TCons) : (s.modTcon c f).incNew = s.incNew := rfl
@[simp] theorem State.modTcon_stepNew (s : State) (c : Nat) (f : TCons → TCons) : (s.modTcon c f).stepNew = s.stepNew := rfl
@[simp] theorem State.modTcon_reelArm (s : State) (c : Nat) (f : TCons → TCons) : (s.modTcon c f).reelArm = s.reelArm := rfl
@[simp] theorem State.modTcon_inc (s : State) (c : Nat) (f : TCons → TCons) : (s.modTcon c f).inc = s.inc := rfl
@[simp] theorem State.modTcon_slew (s : State) (c : Nat) (f : TCons → TCons) : (s.modTcon c f).slew = s.slew := rfl
@[simp] theorem State.modTcon_schLate (s : State) (c : Nat) (f : TCons → TCons) : (s.modTcon c f).schLate = s.schLate := rfl
@[simp] theorem State.modTcon_rclk (s : State) (c : Nat) (f : TCons → TCons) : (s.modTcon c f).rclk = s.rclk := rfl
@[simp] theorem State.modTcon_aonOld (s : State) (c : Nat) (f : TCons → TCons) : (s.modTcon c f).aonOld = s.aonOld := rfl
@[simp] theorem State.modTcon_capWait (s : State) (c : Nat) (f : TCons → TCons) : (s.modTcon c f).capWait = s.capWait := rfl
@[simp] theorem State.modTcon_pins (s : State) (c : Nat) (f : TCons → TCons) : (s.modTcon c f).pins = s.pins := rfl
@[simp] theorem State.modTcon_lx (s : State) (c : Nat) (f : TCons → TCons) : (s.modTcon c f).lx = s.lx := rfl
@[simp] theorem State.modTcon_sleepIn (s : State) (c : Nat) (f : TCons → TCons) : (s.modTcon c f).sleepIn = s.sleepIn := rfl
@[simp] theorem State.modTcon_slotKeys (s : State) (c : Nat) (f : TCons → TCons) : (s.modTcon c f).slotKeys = s.slotKeys := rfl
@[simp] theorem State.modTcon_secq (s : State) (c : Nat) (f : TCons → TCons) : (s.modTcon c f).secq = s.secq := rfl
@[simp] theorem State.modTcon_secLast (s : State) (c : Nat) (f : TCons → TCons) : (s.modTcon c f).secLast = s.secLast := rfl
@[simp] theorem State.modTcon_keyStore (s : State) (c : Nat) (f : TCons → TCons) : (s.modTcon c f).keyStore = s.keyStore := rfl
@[simp] theorem State.modTcon_sessions (s : State) (c : Nat) (f : TCons → TCons) : (s.modTcon c f).sessions = s.sessions := rfl
@[simp] theorem State.modTcon_sids (s : State) (c : Nat) (f : TCons → TCons) : (s.modTcon c f).sids = s.sids := rfl
@[simp] theorem State.modTcon_chal (s : State) (c : Nat) (f : TCons → TCons) : (s.modTcon c f).chal = s.chal := rfl
@[simp] theorem State.modTcon_bootKem (s : State) (c : Nat) (f : TCons → TCons) : (s.modTcon c f).bootKem = s.bootKem := rfl
@[simp] theorem State.modTcon_openBad (s : State) (c : Nat) (f : TCons → TCons) : (s.modTcon c f).openBad = s.openBad := rfl
@[simp] theorem State.modTcon_openBar (s : State) (c : Nat) (f : TCons → TCons) : (s.modTcon c f).openBar = s.openBar := rfl
@[simp] theorem State.modTcon_taken (s : State) (c : Nat) (f : TCons → TCons) : (s.modTcon c f).taken = s.taken := rfl
@[simp] theorem State.modTcon_resp (s : State) (c : Nat) (f : TCons → TCons) : (s.modTcon c f).resp = s.resp := rfl
@[simp] theorem State.modTcon_authAt (s : State) (c : Nat) (f : TCons → TCons) : (s.modTcon c f).authAt = s.authAt := rfl
@[simp] theorem State.modTcon_authCnt (s : State) (c : Nat) (f : TCons → TCons) : (s.modTcon c f).authCnt = s.authCnt := rfl
@[simp] theorem State.modTcon_meas (s : State) (c : Nat) (f : TCons → TCons) : (s.modTcon c f).meas = s.meas := rfl
@[simp] theorem State.modTcon_lists (s : State) (c : Nat) (f : TCons → TCons) : (s.modTcon c f).lists = s.lists := rfl
@[simp] theorem State.modTcon_fwSvn (s : State) (c : Nat) (f : TCons → TCons) : (s.modTcon c f).fwSvn = s.fwSvn := rfl
@[simp] theorem State.modTcon_imgHash (s : State) (c : Nat) (f : TCons → TCons) : (s.modTcon c f).imgHash = s.imgHash := rfl
@[simp] theorem State.modTcon_instKeys (s : State) (c : Nat) (f : TCons → TCons) : (s.modTcon c f).instKeys = s.instKeys := rfl
@[simp] theorem State.modTcon_instGone (s : State) (c : Nat) (f : TCons → TCons) : (s.modTcon c f).instGone = s.instGone := rfl
@[simp] theorem State.modTcon_otp (s : State) (c : Nat) (f : TCons → TCons) : (s.modTcon c f).otp = s.otp := rfl
@[simp] theorem State.modTcon_vppOk (s : State) (c : Nat) (f : TCons → TCons) : (s.modTcon c f).vppOk = s.vppOk := rfl
@[simp] theorem State.modTcon_bootsDue (s : State) (c : Nat) (f : TCons → TCons) : (s.modTcon c f).bootsDue = s.bootsDue := rfl
@[simp] theorem State.modTcon_audFirst (s : State) (c : Nat) (f : TCons → TCons) : (s.modTcon c f).audFirst = s.audFirst := rfl
@[simp] theorem State.modTcon_audDue (s : State) (c : Nat) (f : TCons → TCons) : (s.modTcon c f).audDue = s.audDue := rfl
@[simp] theorem State.modTcon_dbg (s : State) (c : Nat) (f : TCons → TCons) : (s.modTcon c f).dbg = s.dbg := rfl
@[simp] theorem State.modTcon_started (s : State) (c : Nat) (f : TCons → TCons) : (s.modTcon c f).started = s.started := rfl
@[simp] theorem State.modTcon_rstCmd (s : State) (c : Nat) (f : TCons → TCons) : (s.modTcon c f).rstCmd = s.rstCmd := rfl
@[simp] theorem State.modTcon_romAt (s : State) (c : Nat) (f : TCons → TCons) : (s.modTcon c f).romAt = s.romAt := rfl
@[simp] theorem State.modTcon_recovLow (s : State) (c : Nat) (f : TCons → TCons) : (s.modTcon c f).recovLow = s.recovLow := rfl
@[simp] theorem State.modTcon_recov (s : State) (c : Nat) (f : TCons → TCons) : (s.modTcon c f).recov = s.recov := rfl
@[simp] theorem State.modTcon_supplies (s : State) (c : Nat) (f : TCons → TCons) : (s.modTcon c f).supplies = s.supplies := rfl
@[simp] theorem State.modTcon_wdiv (s : State) (c : Nat) (f : TCons → TCons) : (s.modTcon c f).wdiv = s.wdiv := rfl
@[simp] theorem State.modTcon_toRun (s : State) (c : Nat) (f : TCons → TCons) : (s.modTcon c f).toRun = s.toRun := rfl
@[simp] theorem State.modTcon_cxpOut (s : State) (c : Nat) (f : TCons → TCons) : (s.modTcon c f).cxpOut = s.cxpOut := rfl
@[simp] theorem State.modTcon_irqBy (s : State) (c : Nat) (f : TCons → TCons) : (s.modTcon c f).irqBy = s.irqBy := rfl

@[simp] theorem State.modPin_pending (s : State) (i : Nat) (f : PinSt → PinSt) : (s.modPin i f).pending = s.pending := rfl
@[simp] theorem State.modPin_cycle (s : State) (i : Nat) (f : PinSt → PinSt) : (s.modPin i f).cycle = s.cycle := rfl
@[simp] theorem State.modPin_regs (s : State) (i : Nat) (f : PinSt → PinSt) : (s.modPin i f).regs = s.regs := rfl
@[simp] theorem State.modPin_mem (s : State) (i : Nat) (f : PinSt → PinSt) : (s.modPin i f).mem = s.mem := rfl
@[simp] theorem State.modPin_syn (s : State) (i : Nat) (f : PinSt → PinSt) : (s.modPin i f).syn = s.syn := rfl
@[simp] theorem State.modPin_threads (s : State) (i : Nat) (f : PinSt → PinSt) : (s.modPin i f).threads = s.threads := rfl
@[simp] theorem State.modPin_whorls (s : State) (i : Nat) (f : PinSt → PinSt) : (s.modPin i f).whorls = s.whorls := rfl
@[simp] theorem State.modPin_chans (s : State) (i : Nat) (f : PinSt → PinSt) : (s.modPin i f).chans = s.chans := rfl
@[simp] theorem State.modPin_xchans (s : State) (i : Nat) (f : PinSt → PinSt) : (s.modPin i f).xchans = s.xchans := rfl
@[simp] theorem State.modPin_escq (s : State) (i : Nat) (f : PinSt → PinSt) : (s.modPin i f).escq = s.escq := rfl
@[simp] theorem State.modPin_quietAt (s : State) (i : Nat) (f : PinSt → PinSt) : (s.modPin i f).quietAt = s.quietAt := rfl
@[simp] theorem State.modPin_evNow (s : State) (i : Nat) (f : PinSt → PinSt) : (s.modPin i f).evNow = s.evNow := rfl
@[simp] theorem State.modPin_swNow (s : State) (i : Nat) (f : PinSt → PinSt) : (s.modPin i f).swNow = s.swNow := rfl
@[simp] theorem State.modPin_uev (s : State) (i : Nat) (f : PinSt → PinSt) : (s.modPin i f).uev = s.uev := rfl
@[simp] theorem State.modPin_free (s : State) (i : Nat) (f : PinSt → PinSt) : (s.modPin i f).free = s.free := rfl
@[simp] theorem State.modPin_tb (s : State) (i : Nat) (f : PinSt → PinSt) : (s.modPin i f).tb = s.tb := rfl
@[simp] theorem State.modPin_shadow (s : State) (i : Nat) (f : PinSt → PinSt) : (s.modPin i f).shadow = s.shadow := rfl
@[simp] theorem State.modPin_pulses (s : State) (i : Nat) (f : PinSt → PinSt) : (s.modPin i f).pulses = s.pulses := rfl
@[simp] theorem State.modPin_trcThread (s : State) (i : Nat) (f : PinSt → PinSt) : (s.modPin i f).trcThread = s.trcThread := rfl
@[simp] theorem State.modPin_trace (s : State) (i : Nat) (f : PinSt → PinSt) : (s.modPin i f).trace = s.trace := rfl
@[simp] theorem State.modPin_hap (s : State) (i : Nat) (f : PinSt → PinSt) : (s.modPin i f).hap = s.hap := rfl
@[simp] theorem State.modPin_hrspOut (s : State) (i : Nat) (f : PinSt → PinSt) : (s.modPin i f).hrspOut = s.hrspOut := rfl
@[simp] theorem State.modPin_dreqOut (s : State) (i : Nat) (f : PinSt → PinSt) : (s.modPin i f).dreqOut = s.dreqOut := rfl
@[simp] theorem State.modPin_bobV (s : State) (i : Nat) (f : PinSt → PinSt) : (s.modPin i f).bobV = s.bobV := rfl
@[simp] theorem State.modPin_bobDyn (s : State) (i : Nat) (f : PinSt → PinSt) : (s.modPin i f).bobDyn = s.bobDyn := rfl
@[simp] theorem State.modPin_bobFree (s : State) (i : Nat) (f : PinSt → PinSt) : (s.modPin i f).bobFree = s.bobFree := rfl
@[simp] theorem State.modPin_lwins (s : State) (i : Nat) (f : PinSt → PinSt) : (s.modPin i f).lwins = s.lwins := rfl
@[simp] theorem State.modPin_slipWait (s : State) (i : Nat) (f : PinSt → PinSt) : (s.modPin i f).slipWait = s.slipWait := rfl
@[simp] theorem State.modPin_ports (s : State) (i : Nat) (f : PinSt → PinSt) : (s.modPin i f).ports = s.ports := rfl
@[simp] theorem State.modPin_txq (s : State) (i : Nat) (f : PinSt → PinSt) : (s.modPin i f).txq = s.txq := rfl
@[simp] theorem State.modPin_sends (s : State) (i : Nat) (f : PinSt → PinSt) : (s.modPin i f).sends = s.sends := rfl
@[simp] theorem State.modPin_msgids (s : State) (i : Nat) (f : PinSt → PinSt) : (s.modPin i f).msgids = s.msgids := rfl
@[simp] theorem State.modPin_rtePend (s : State) (i : Nat) (f : PinSt → PinSt) : (s.modPin i f).rtePend = s.rtePend := rfl
@[simp] theorem State.modPin_srcs (s : State) (i : Nat) (f : PinSt → PinSt) : (s.modPin i f).srcs = s.srcs := rfl
@[simp] theorem State.modPin_ctxs (s : State) (i : Nat) (f : PinSt → PinSt) : (s.modPin i f).ctxs = s.ctxs := rfl
@[simp] theorem State.modPin_ackIn (s : State) (i : Nat) (f : PinSt → PinSt) : (s.modPin i f).ackIn = s.ackIn := rfl
@[simp] theorem State.modPin_sknIn (s : State) (i : Nat) (f : PinSt → PinSt) : (s.modPin i f).sknIn = s.sknIn := rfl
@[simp] theorem State.modPin_drafts (s : State) (i : Nat) (f : PinSt → PinSt) : (s.modPin i f).drafts = s.drafts := rfl
@[simp] theorem State.modPin_plys (s : State) (i : Nat) (f : PinSt → PinSt) : (s.modPin i f).plys = s.plys := rfl
@[simp] theorem State.modPin_skns (s : State) (i : Nat) (f : PinSt → PinSt) : (s.modPin i f).skns = s.skns := rfl
@[simp] theorem State.modPin_incNew (s : State) (i : Nat) (f : PinSt → PinSt) : (s.modPin i f).incNew = s.incNew := rfl
@[simp] theorem State.modPin_stepNew (s : State) (i : Nat) (f : PinSt → PinSt) : (s.modPin i f).stepNew = s.stepNew := rfl
@[simp] theorem State.modPin_reelArm (s : State) (i : Nat) (f : PinSt → PinSt) : (s.modPin i f).reelArm = s.reelArm := rfl
@[simp] theorem State.modPin_inc (s : State) (i : Nat) (f : PinSt → PinSt) : (s.modPin i f).inc = s.inc := rfl
@[simp] theorem State.modPin_slew (s : State) (i : Nat) (f : PinSt → PinSt) : (s.modPin i f).slew = s.slew := rfl
@[simp] theorem State.modPin_schLate (s : State) (i : Nat) (f : PinSt → PinSt) : (s.modPin i f).schLate = s.schLate := rfl
@[simp] theorem State.modPin_rclk (s : State) (i : Nat) (f : PinSt → PinSt) : (s.modPin i f).rclk = s.rclk := rfl
@[simp] theorem State.modPin_aonOld (s : State) (i : Nat) (f : PinSt → PinSt) : (s.modPin i f).aonOld = s.aonOld := rfl
@[simp] theorem State.modPin_tcons (s : State) (i : Nat) (f : PinSt → PinSt) : (s.modPin i f).tcons = s.tcons := rfl
@[simp] theorem State.modPin_capWait (s : State) (i : Nat) (f : PinSt → PinSt) : (s.modPin i f).capWait = s.capWait := rfl
@[simp] theorem State.modPin_lx (s : State) (i : Nat) (f : PinSt → PinSt) : (s.modPin i f).lx = s.lx := rfl
@[simp] theorem State.modPin_sleepIn (s : State) (i : Nat) (f : PinSt → PinSt) : (s.modPin i f).sleepIn = s.sleepIn := rfl
@[simp] theorem State.modPin_slotKeys (s : State) (i : Nat) (f : PinSt → PinSt) : (s.modPin i f).slotKeys = s.slotKeys := rfl
@[simp] theorem State.modPin_secq (s : State) (i : Nat) (f : PinSt → PinSt) : (s.modPin i f).secq = s.secq := rfl
@[simp] theorem State.modPin_secLast (s : State) (i : Nat) (f : PinSt → PinSt) : (s.modPin i f).secLast = s.secLast := rfl
@[simp] theorem State.modPin_keyStore (s : State) (i : Nat) (f : PinSt → PinSt) : (s.modPin i f).keyStore = s.keyStore := rfl
@[simp] theorem State.modPin_sessions (s : State) (i : Nat) (f : PinSt → PinSt) : (s.modPin i f).sessions = s.sessions := rfl
@[simp] theorem State.modPin_sids (s : State) (i : Nat) (f : PinSt → PinSt) : (s.modPin i f).sids = s.sids := rfl
@[simp] theorem State.modPin_chal (s : State) (i : Nat) (f : PinSt → PinSt) : (s.modPin i f).chal = s.chal := rfl
@[simp] theorem State.modPin_bootKem (s : State) (i : Nat) (f : PinSt → PinSt) : (s.modPin i f).bootKem = s.bootKem := rfl
@[simp] theorem State.modPin_openBad (s : State) (i : Nat) (f : PinSt → PinSt) : (s.modPin i f).openBad = s.openBad := rfl
@[simp] theorem State.modPin_openBar (s : State) (i : Nat) (f : PinSt → PinSt) : (s.modPin i f).openBar = s.openBar := rfl
@[simp] theorem State.modPin_taken (s : State) (i : Nat) (f : PinSt → PinSt) : (s.modPin i f).taken = s.taken := rfl
@[simp] theorem State.modPin_resp (s : State) (i : Nat) (f : PinSt → PinSt) : (s.modPin i f).resp = s.resp := rfl
@[simp] theorem State.modPin_authAt (s : State) (i : Nat) (f : PinSt → PinSt) : (s.modPin i f).authAt = s.authAt := rfl
@[simp] theorem State.modPin_authCnt (s : State) (i : Nat) (f : PinSt → PinSt) : (s.modPin i f).authCnt = s.authCnt := rfl
@[simp] theorem State.modPin_meas (s : State) (i : Nat) (f : PinSt → PinSt) : (s.modPin i f).meas = s.meas := rfl
@[simp] theorem State.modPin_lists (s : State) (i : Nat) (f : PinSt → PinSt) : (s.modPin i f).lists = s.lists := rfl
@[simp] theorem State.modPin_fwSvn (s : State) (i : Nat) (f : PinSt → PinSt) : (s.modPin i f).fwSvn = s.fwSvn := rfl
@[simp] theorem State.modPin_imgHash (s : State) (i : Nat) (f : PinSt → PinSt) : (s.modPin i f).imgHash = s.imgHash := rfl
@[simp] theorem State.modPin_instKeys (s : State) (i : Nat) (f : PinSt → PinSt) : (s.modPin i f).instKeys = s.instKeys := rfl
@[simp] theorem State.modPin_instGone (s : State) (i : Nat) (f : PinSt → PinSt) : (s.modPin i f).instGone = s.instGone := rfl
@[simp] theorem State.modPin_otp (s : State) (i : Nat) (f : PinSt → PinSt) : (s.modPin i f).otp = s.otp := rfl
@[simp] theorem State.modPin_vppOk (s : State) (i : Nat) (f : PinSt → PinSt) : (s.modPin i f).vppOk = s.vppOk := rfl
@[simp] theorem State.modPin_bootsDue (s : State) (i : Nat) (f : PinSt → PinSt) : (s.modPin i f).bootsDue = s.bootsDue := rfl
@[simp] theorem State.modPin_audFirst (s : State) (i : Nat) (f : PinSt → PinSt) : (s.modPin i f).audFirst = s.audFirst := rfl
@[simp] theorem State.modPin_audDue (s : State) (i : Nat) (f : PinSt → PinSt) : (s.modPin i f).audDue = s.audDue := rfl
@[simp] theorem State.modPin_dbg (s : State) (i : Nat) (f : PinSt → PinSt) : (s.modPin i f).dbg = s.dbg := rfl
@[simp] theorem State.modPin_started (s : State) (i : Nat) (f : PinSt → PinSt) : (s.modPin i f).started = s.started := rfl
@[simp] theorem State.modPin_rstCmd (s : State) (i : Nat) (f : PinSt → PinSt) : (s.modPin i f).rstCmd = s.rstCmd := rfl
@[simp] theorem State.modPin_romAt (s : State) (i : Nat) (f : PinSt → PinSt) : (s.modPin i f).romAt = s.romAt := rfl
@[simp] theorem State.modPin_recovLow (s : State) (i : Nat) (f : PinSt → PinSt) : (s.modPin i f).recovLow = s.recovLow := rfl
@[simp] theorem State.modPin_recov (s : State) (i : Nat) (f : PinSt → PinSt) : (s.modPin i f).recov = s.recov := rfl
@[simp] theorem State.modPin_supplies (s : State) (i : Nat) (f : PinSt → PinSt) : (s.modPin i f).supplies = s.supplies := rfl
@[simp] theorem State.modPin_wdiv (s : State) (i : Nat) (f : PinSt → PinSt) : (s.modPin i f).wdiv = s.wdiv := rfl
@[simp] theorem State.modPin_toRun (s : State) (i : Nat) (f : PinSt → PinSt) : (s.modPin i f).toRun = s.toRun := rfl
@[simp] theorem State.modPin_cxpOut (s : State) (i : Nat) (f : PinSt → PinSt) : (s.modPin i f).cxpOut = s.cxpOut := rfl
@[simp] theorem State.modPin_irqBy (s : State) (i : Nat) (f : PinSt → PinSt) : (s.modPin i f).irqBy = s.irqBy := rfl

@[simp] theorem State.setTx_pending (s : State) (k : Nat) (l : List TxMsg) : (s.setTx k l).pending = s.pending := rfl
@[simp] theorem State.setTx_cycle (s : State) (k : Nat) (l : List TxMsg) : (s.setTx k l).cycle = s.cycle := rfl
@[simp] theorem State.setTx_regs (s : State) (k : Nat) (l : List TxMsg) : (s.setTx k l).regs = s.regs := rfl
@[simp] theorem State.setTx_mem (s : State) (k : Nat) (l : List TxMsg) : (s.setTx k l).mem = s.mem := rfl
@[simp] theorem State.setTx_syn (s : State) (k : Nat) (l : List TxMsg) : (s.setTx k l).syn = s.syn := rfl
@[simp] theorem State.setTx_threads (s : State) (k : Nat) (l : List TxMsg) : (s.setTx k l).threads = s.threads := rfl
@[simp] theorem State.setTx_whorls (s : State) (k : Nat) (l : List TxMsg) : (s.setTx k l).whorls = s.whorls := rfl
@[simp] theorem State.setTx_chans (s : State) (k : Nat) (l : List TxMsg) : (s.setTx k l).chans = s.chans := rfl
@[simp] theorem State.setTx_xchans (s : State) (k : Nat) (l : List TxMsg) : (s.setTx k l).xchans = s.xchans := rfl
@[simp] theorem State.setTx_escq (s : State) (k : Nat) (l : List TxMsg) : (s.setTx k l).escq = s.escq := rfl
@[simp] theorem State.setTx_quietAt (s : State) (k : Nat) (l : List TxMsg) : (s.setTx k l).quietAt = s.quietAt := rfl
@[simp] theorem State.setTx_evNow (s : State) (k : Nat) (l : List TxMsg) : (s.setTx k l).evNow = s.evNow := rfl
@[simp] theorem State.setTx_swNow (s : State) (k : Nat) (l : List TxMsg) : (s.setTx k l).swNow = s.swNow := rfl
@[simp] theorem State.setTx_uev (s : State) (k : Nat) (l : List TxMsg) : (s.setTx k l).uev = s.uev := rfl
@[simp] theorem State.setTx_free (s : State) (k : Nat) (l : List TxMsg) : (s.setTx k l).free = s.free := rfl
@[simp] theorem State.setTx_tb (s : State) (k : Nat) (l : List TxMsg) : (s.setTx k l).tb = s.tb := rfl
@[simp] theorem State.setTx_shadow (s : State) (k : Nat) (l : List TxMsg) : (s.setTx k l).shadow = s.shadow := rfl
@[simp] theorem State.setTx_pulses (s : State) (k : Nat) (l : List TxMsg) : (s.setTx k l).pulses = s.pulses := rfl
@[simp] theorem State.setTx_trcThread (s : State) (k : Nat) (l : List TxMsg) : (s.setTx k l).trcThread = s.trcThread := rfl
@[simp] theorem State.setTx_trace (s : State) (k : Nat) (l : List TxMsg) : (s.setTx k l).trace = s.trace := rfl
@[simp] theorem State.setTx_hap (s : State) (k : Nat) (l : List TxMsg) : (s.setTx k l).hap = s.hap := rfl
@[simp] theorem State.setTx_hrspOut (s : State) (k : Nat) (l : List TxMsg) : (s.setTx k l).hrspOut = s.hrspOut := rfl
@[simp] theorem State.setTx_dreqOut (s : State) (k : Nat) (l : List TxMsg) : (s.setTx k l).dreqOut = s.dreqOut := rfl
@[simp] theorem State.setTx_bobV (s : State) (k : Nat) (l : List TxMsg) : (s.setTx k l).bobV = s.bobV := rfl
@[simp] theorem State.setTx_bobDyn (s : State) (k : Nat) (l : List TxMsg) : (s.setTx k l).bobDyn = s.bobDyn := rfl
@[simp] theorem State.setTx_bobFree (s : State) (k : Nat) (l : List TxMsg) : (s.setTx k l).bobFree = s.bobFree := rfl
@[simp] theorem State.setTx_lwins (s : State) (k : Nat) (l : List TxMsg) : (s.setTx k l).lwins = s.lwins := rfl
@[simp] theorem State.setTx_slipWait (s : State) (k : Nat) (l : List TxMsg) : (s.setTx k l).slipWait = s.slipWait := rfl
@[simp] theorem State.setTx_ports (s : State) (k : Nat) (l : List TxMsg) : (s.setTx k l).ports = s.ports := rfl
@[simp] theorem State.setTx_sends (s : State) (k : Nat) (l : List TxMsg) : (s.setTx k l).sends = s.sends := rfl
@[simp] theorem State.setTx_msgids (s : State) (k : Nat) (l : List TxMsg) : (s.setTx k l).msgids = s.msgids := rfl
@[simp] theorem State.setTx_rtePend (s : State) (k : Nat) (l : List TxMsg) : (s.setTx k l).rtePend = s.rtePend := rfl
@[simp] theorem State.setTx_srcs (s : State) (k : Nat) (l : List TxMsg) : (s.setTx k l).srcs = s.srcs := rfl
@[simp] theorem State.setTx_ctxs (s : State) (k : Nat) (l : List TxMsg) : (s.setTx k l).ctxs = s.ctxs := rfl
@[simp] theorem State.setTx_ackIn (s : State) (k : Nat) (l : List TxMsg) : (s.setTx k l).ackIn = s.ackIn := rfl
@[simp] theorem State.setTx_sknIn (s : State) (k : Nat) (l : List TxMsg) : (s.setTx k l).sknIn = s.sknIn := rfl
@[simp] theorem State.setTx_drafts (s : State) (k : Nat) (l : List TxMsg) : (s.setTx k l).drafts = s.drafts := rfl
@[simp] theorem State.setTx_plys (s : State) (k : Nat) (l : List TxMsg) : (s.setTx k l).plys = s.plys := rfl
@[simp] theorem State.setTx_skns (s : State) (k : Nat) (l : List TxMsg) : (s.setTx k l).skns = s.skns := rfl
@[simp] theorem State.setTx_incNew (s : State) (k : Nat) (l : List TxMsg) : (s.setTx k l).incNew = s.incNew := rfl
@[simp] theorem State.setTx_stepNew (s : State) (k : Nat) (l : List TxMsg) : (s.setTx k l).stepNew = s.stepNew := rfl
@[simp] theorem State.setTx_reelArm (s : State) (k : Nat) (l : List TxMsg) : (s.setTx k l).reelArm = s.reelArm := rfl
@[simp] theorem State.setTx_inc (s : State) (k : Nat) (l : List TxMsg) : (s.setTx k l).inc = s.inc := rfl
@[simp] theorem State.setTx_slew (s : State) (k : Nat) (l : List TxMsg) : (s.setTx k l).slew = s.slew := rfl
@[simp] theorem State.setTx_schLate (s : State) (k : Nat) (l : List TxMsg) : (s.setTx k l).schLate = s.schLate := rfl
@[simp] theorem State.setTx_rclk (s : State) (k : Nat) (l : List TxMsg) : (s.setTx k l).rclk = s.rclk := rfl
@[simp] theorem State.setTx_aonOld (s : State) (k : Nat) (l : List TxMsg) : (s.setTx k l).aonOld = s.aonOld := rfl
@[simp] theorem State.setTx_tcons (s : State) (k : Nat) (l : List TxMsg) : (s.setTx k l).tcons = s.tcons := rfl
@[simp] theorem State.setTx_capWait (s : State) (k : Nat) (l : List TxMsg) : (s.setTx k l).capWait = s.capWait := rfl
@[simp] theorem State.setTx_pins (s : State) (k : Nat) (l : List TxMsg) : (s.setTx k l).pins = s.pins := rfl
@[simp] theorem State.setTx_lx (s : State) (k : Nat) (l : List TxMsg) : (s.setTx k l).lx = s.lx := rfl
@[simp] theorem State.setTx_sleepIn (s : State) (k : Nat) (l : List TxMsg) : (s.setTx k l).sleepIn = s.sleepIn := rfl
@[simp] theorem State.setTx_slotKeys (s : State) (k : Nat) (l : List TxMsg) : (s.setTx k l).slotKeys = s.slotKeys := rfl
@[simp] theorem State.setTx_secq (s : State) (k : Nat) (l : List TxMsg) : (s.setTx k l).secq = s.secq := rfl
@[simp] theorem State.setTx_secLast (s : State) (k : Nat) (l : List TxMsg) : (s.setTx k l).secLast = s.secLast := rfl
@[simp] theorem State.setTx_keyStore (s : State) (k : Nat) (l : List TxMsg) : (s.setTx k l).keyStore = s.keyStore := rfl
@[simp] theorem State.setTx_sessions (s : State) (k : Nat) (l : List TxMsg) : (s.setTx k l).sessions = s.sessions := rfl
@[simp] theorem State.setTx_sids (s : State) (k : Nat) (l : List TxMsg) : (s.setTx k l).sids = s.sids := rfl
@[simp] theorem State.setTx_chal (s : State) (k : Nat) (l : List TxMsg) : (s.setTx k l).chal = s.chal := rfl
@[simp] theorem State.setTx_bootKem (s : State) (k : Nat) (l : List TxMsg) : (s.setTx k l).bootKem = s.bootKem := rfl
@[simp] theorem State.setTx_openBad (s : State) (k : Nat) (l : List TxMsg) : (s.setTx k l).openBad = s.openBad := rfl
@[simp] theorem State.setTx_openBar (s : State) (k : Nat) (l : List TxMsg) : (s.setTx k l).openBar = s.openBar := rfl
@[simp] theorem State.setTx_taken (s : State) (k : Nat) (l : List TxMsg) : (s.setTx k l).taken = s.taken := rfl
@[simp] theorem State.setTx_resp (s : State) (k : Nat) (l : List TxMsg) : (s.setTx k l).resp = s.resp := rfl
@[simp] theorem State.setTx_authAt (s : State) (k : Nat) (l : List TxMsg) : (s.setTx k l).authAt = s.authAt := rfl
@[simp] theorem State.setTx_authCnt (s : State) (k : Nat) (l : List TxMsg) : (s.setTx k l).authCnt = s.authCnt := rfl
@[simp] theorem State.setTx_meas (s : State) (k : Nat) (l : List TxMsg) : (s.setTx k l).meas = s.meas := rfl
@[simp] theorem State.setTx_lists (s : State) (k : Nat) (l : List TxMsg) : (s.setTx k l).lists = s.lists := rfl
@[simp] theorem State.setTx_fwSvn (s : State) (k : Nat) (l : List TxMsg) : (s.setTx k l).fwSvn = s.fwSvn := rfl
@[simp] theorem State.setTx_imgHash (s : State) (k : Nat) (l : List TxMsg) : (s.setTx k l).imgHash = s.imgHash := rfl
@[simp] theorem State.setTx_instKeys (s : State) (k : Nat) (l : List TxMsg) : (s.setTx k l).instKeys = s.instKeys := rfl
@[simp] theorem State.setTx_instGone (s : State) (k : Nat) (l : List TxMsg) : (s.setTx k l).instGone = s.instGone := rfl
@[simp] theorem State.setTx_otp (s : State) (k : Nat) (l : List TxMsg) : (s.setTx k l).otp = s.otp := rfl
@[simp] theorem State.setTx_vppOk (s : State) (k : Nat) (l : List TxMsg) : (s.setTx k l).vppOk = s.vppOk := rfl
@[simp] theorem State.setTx_bootsDue (s : State) (k : Nat) (l : List TxMsg) : (s.setTx k l).bootsDue = s.bootsDue := rfl
@[simp] theorem State.setTx_audFirst (s : State) (k : Nat) (l : List TxMsg) : (s.setTx k l).audFirst = s.audFirst := rfl
@[simp] theorem State.setTx_audDue (s : State) (k : Nat) (l : List TxMsg) : (s.setTx k l).audDue = s.audDue := rfl
@[simp] theorem State.setTx_dbg (s : State) (k : Nat) (l : List TxMsg) : (s.setTx k l).dbg = s.dbg := rfl
@[simp] theorem State.setTx_started (s : State) (k : Nat) (l : List TxMsg) : (s.setTx k l).started = s.started := rfl
@[simp] theorem State.setTx_rstCmd (s : State) (k : Nat) (l : List TxMsg) : (s.setTx k l).rstCmd = s.rstCmd := rfl
@[simp] theorem State.setTx_romAt (s : State) (k : Nat) (l : List TxMsg) : (s.setTx k l).romAt = s.romAt := rfl
@[simp] theorem State.setTx_recovLow (s : State) (k : Nat) (l : List TxMsg) : (s.setTx k l).recovLow = s.recovLow := rfl
@[simp] theorem State.setTx_recov (s : State) (k : Nat) (l : List TxMsg) : (s.setTx k l).recov = s.recov := rfl
@[simp] theorem State.setTx_supplies (s : State) (k : Nat) (l : List TxMsg) : (s.setTx k l).supplies = s.supplies := rfl
@[simp] theorem State.setTx_wdiv (s : State) (k : Nat) (l : List TxMsg) : (s.setTx k l).wdiv = s.wdiv := rfl
@[simp] theorem State.setTx_toRun (s : State) (k : Nat) (l : List TxMsg) : (s.setTx k l).toRun = s.toRun := rfl
@[simp] theorem State.setTx_cxpOut (s : State) (k : Nat) (l : List TxMsg) : (s.setTx k l).cxpOut = s.cxpOut := rfl
@[simp] theorem State.setTx_irqBy (s : State) (k : Nat) (l : List TxMsg) : (s.setTx k l).irqBy = s.irqBy := rfl

@[simp] theorem State.setSession_pending (s : State) (r : Nat) (x : Session) : (s.setSession r x).pending = s.pending := rfl
@[simp] theorem State.setSession_cycle (s : State) (r : Nat) (x : Session) : (s.setSession r x).cycle = s.cycle := rfl
@[simp] theorem State.setSession_regs (s : State) (r : Nat) (x : Session) : (s.setSession r x).regs = s.regs := rfl
@[simp] theorem State.setSession_mem (s : State) (r : Nat) (x : Session) : (s.setSession r x).mem = s.mem := rfl
@[simp] theorem State.setSession_syn (s : State) (r : Nat) (x : Session) : (s.setSession r x).syn = s.syn := rfl
@[simp] theorem State.setSession_threads (s : State) (r : Nat) (x : Session) : (s.setSession r x).threads = s.threads := rfl
@[simp] theorem State.setSession_whorls (s : State) (r : Nat) (x : Session) : (s.setSession r x).whorls = s.whorls := rfl
@[simp] theorem State.setSession_chans (s : State) (r : Nat) (x : Session) : (s.setSession r x).chans = s.chans := rfl
@[simp] theorem State.setSession_xchans (s : State) (r : Nat) (x : Session) : (s.setSession r x).xchans = s.xchans := rfl
@[simp] theorem State.setSession_escq (s : State) (r : Nat) (x : Session) : (s.setSession r x).escq = s.escq := rfl
@[simp] theorem State.setSession_quietAt (s : State) (r : Nat) (x : Session) : (s.setSession r x).quietAt = s.quietAt := rfl
@[simp] theorem State.setSession_evNow (s : State) (r : Nat) (x : Session) : (s.setSession r x).evNow = s.evNow := rfl
@[simp] theorem State.setSession_swNow (s : State) (r : Nat) (x : Session) : (s.setSession r x).swNow = s.swNow := rfl
@[simp] theorem State.setSession_uev (s : State) (r : Nat) (x : Session) : (s.setSession r x).uev = s.uev := rfl
@[simp] theorem State.setSession_free (s : State) (r : Nat) (x : Session) : (s.setSession r x).free = s.free := rfl
@[simp] theorem State.setSession_tb (s : State) (r : Nat) (x : Session) : (s.setSession r x).tb = s.tb := rfl
@[simp] theorem State.setSession_shadow (s : State) (r : Nat) (x : Session) : (s.setSession r x).shadow = s.shadow := rfl
@[simp] theorem State.setSession_pulses (s : State) (r : Nat) (x : Session) : (s.setSession r x).pulses = s.pulses := rfl
@[simp] theorem State.setSession_trcThread (s : State) (r : Nat) (x : Session) : (s.setSession r x).trcThread = s.trcThread := rfl
@[simp] theorem State.setSession_trace (s : State) (r : Nat) (x : Session) : (s.setSession r x).trace = s.trace := rfl
@[simp] theorem State.setSession_hap (s : State) (r : Nat) (x : Session) : (s.setSession r x).hap = s.hap := rfl
@[simp] theorem State.setSession_hrspOut (s : State) (r : Nat) (x : Session) : (s.setSession r x).hrspOut = s.hrspOut := rfl
@[simp] theorem State.setSession_dreqOut (s : State) (r : Nat) (x : Session) : (s.setSession r x).dreqOut = s.dreqOut := rfl
@[simp] theorem State.setSession_bobV (s : State) (r : Nat) (x : Session) : (s.setSession r x).bobV = s.bobV := rfl
@[simp] theorem State.setSession_bobDyn (s : State) (r : Nat) (x : Session) : (s.setSession r x).bobDyn = s.bobDyn := rfl
@[simp] theorem State.setSession_bobFree (s : State) (r : Nat) (x : Session) : (s.setSession r x).bobFree = s.bobFree := rfl
@[simp] theorem State.setSession_lwins (s : State) (r : Nat) (x : Session) : (s.setSession r x).lwins = s.lwins := rfl
@[simp] theorem State.setSession_slipWait (s : State) (r : Nat) (x : Session) : (s.setSession r x).slipWait = s.slipWait := rfl
@[simp] theorem State.setSession_ports (s : State) (r : Nat) (x : Session) : (s.setSession r x).ports = s.ports := rfl
@[simp] theorem State.setSession_txq (s : State) (r : Nat) (x : Session) : (s.setSession r x).txq = s.txq := rfl
@[simp] theorem State.setSession_sends (s : State) (r : Nat) (x : Session) : (s.setSession r x).sends = s.sends := rfl
@[simp] theorem State.setSession_msgids (s : State) (r : Nat) (x : Session) : (s.setSession r x).msgids = s.msgids := rfl
@[simp] theorem State.setSession_rtePend (s : State) (r : Nat) (x : Session) : (s.setSession r x).rtePend = s.rtePend := rfl
@[simp] theorem State.setSession_srcs (s : State) (r : Nat) (x : Session) : (s.setSession r x).srcs = s.srcs := rfl
@[simp] theorem State.setSession_ctxs (s : State) (r : Nat) (x : Session) : (s.setSession r x).ctxs = s.ctxs := rfl
@[simp] theorem State.setSession_ackIn (s : State) (r : Nat) (x : Session) : (s.setSession r x).ackIn = s.ackIn := rfl
@[simp] theorem State.setSession_sknIn (s : State) (r : Nat) (x : Session) : (s.setSession r x).sknIn = s.sknIn := rfl
@[simp] theorem State.setSession_drafts (s : State) (r : Nat) (x : Session) : (s.setSession r x).drafts = s.drafts := rfl
@[simp] theorem State.setSession_plys (s : State) (r : Nat) (x : Session) : (s.setSession r x).plys = s.plys := rfl
@[simp] theorem State.setSession_skns (s : State) (r : Nat) (x : Session) : (s.setSession r x).skns = s.skns := rfl
@[simp] theorem State.setSession_incNew (s : State) (r : Nat) (x : Session) : (s.setSession r x).incNew = s.incNew := rfl
@[simp] theorem State.setSession_stepNew (s : State) (r : Nat) (x : Session) : (s.setSession r x).stepNew = s.stepNew := rfl
@[simp] theorem State.setSession_reelArm (s : State) (r : Nat) (x : Session) : (s.setSession r x).reelArm = s.reelArm := rfl
@[simp] theorem State.setSession_inc (s : State) (r : Nat) (x : Session) : (s.setSession r x).inc = s.inc := rfl
@[simp] theorem State.setSession_slew (s : State) (r : Nat) (x : Session) : (s.setSession r x).slew = s.slew := rfl
@[simp] theorem State.setSession_schLate (s : State) (r : Nat) (x : Session) : (s.setSession r x).schLate = s.schLate := rfl
@[simp] theorem State.setSession_rclk (s : State) (r : Nat) (x : Session) : (s.setSession r x).rclk = s.rclk := rfl
@[simp] theorem State.setSession_aonOld (s : State) (r : Nat) (x : Session) : (s.setSession r x).aonOld = s.aonOld := rfl
@[simp] theorem State.setSession_tcons (s : State) (r : Nat) (x : Session) : (s.setSession r x).tcons = s.tcons := rfl
@[simp] theorem State.setSession_capWait (s : State) (r : Nat) (x : Session) : (s.setSession r x).capWait = s.capWait := rfl
@[simp] theorem State.setSession_pins (s : State) (r : Nat) (x : Session) : (s.setSession r x).pins = s.pins := rfl
@[simp] theorem State.setSession_lx (s : State) (r : Nat) (x : Session) : (s.setSession r x).lx = s.lx := rfl
@[simp] theorem State.setSession_sleepIn (s : State) (r : Nat) (x : Session) : (s.setSession r x).sleepIn = s.sleepIn := rfl
@[simp] theorem State.setSession_slotKeys (s : State) (r : Nat) (x : Session) : (s.setSession r x).slotKeys = s.slotKeys := rfl
@[simp] theorem State.setSession_secq (s : State) (r : Nat) (x : Session) : (s.setSession r x).secq = s.secq := rfl
@[simp] theorem State.setSession_secLast (s : State) (r : Nat) (x : Session) : (s.setSession r x).secLast = s.secLast := rfl
@[simp] theorem State.setSession_keyStore (s : State) (r : Nat) (x : Session) : (s.setSession r x).keyStore = s.keyStore := rfl
@[simp] theorem State.setSession_sids (s : State) (r : Nat) (x : Session) : (s.setSession r x).sids = s.sids := rfl
@[simp] theorem State.setSession_chal (s : State) (r : Nat) (x : Session) : (s.setSession r x).chal = s.chal := rfl
@[simp] theorem State.setSession_bootKem (s : State) (r : Nat) (x : Session) : (s.setSession r x).bootKem = s.bootKem := rfl
@[simp] theorem State.setSession_openBad (s : State) (r : Nat) (x : Session) : (s.setSession r x).openBad = s.openBad := rfl
@[simp] theorem State.setSession_openBar (s : State) (r : Nat) (x : Session) : (s.setSession r x).openBar = s.openBar := rfl
@[simp] theorem State.setSession_taken (s : State) (r : Nat) (x : Session) : (s.setSession r x).taken = s.taken := rfl
@[simp] theorem State.setSession_resp (s : State) (r : Nat) (x : Session) : (s.setSession r x).resp = s.resp := rfl
@[simp] theorem State.setSession_authAt (s : State) (r : Nat) (x : Session) : (s.setSession r x).authAt = s.authAt := rfl
@[simp] theorem State.setSession_authCnt (s : State) (r : Nat) (x : Session) : (s.setSession r x).authCnt = s.authCnt := rfl
@[simp] theorem State.setSession_meas (s : State) (r : Nat) (x : Session) : (s.setSession r x).meas = s.meas := rfl
@[simp] theorem State.setSession_lists (s : State) (r : Nat) (x : Session) : (s.setSession r x).lists = s.lists := rfl
@[simp] theorem State.setSession_fwSvn (s : State) (r : Nat) (x : Session) : (s.setSession r x).fwSvn = s.fwSvn := rfl
@[simp] theorem State.setSession_imgHash (s : State) (r : Nat) (x : Session) : (s.setSession r x).imgHash = s.imgHash := rfl
@[simp] theorem State.setSession_instKeys (s : State) (r : Nat) (x : Session) : (s.setSession r x).instKeys = s.instKeys := rfl
@[simp] theorem State.setSession_instGone (s : State) (r : Nat) (x : Session) : (s.setSession r x).instGone = s.instGone := rfl
@[simp] theorem State.setSession_otp (s : State) (r : Nat) (x : Session) : (s.setSession r x).otp = s.otp := rfl
@[simp] theorem State.setSession_vppOk (s : State) (r : Nat) (x : Session) : (s.setSession r x).vppOk = s.vppOk := rfl
@[simp] theorem State.setSession_bootsDue (s : State) (r : Nat) (x : Session) : (s.setSession r x).bootsDue = s.bootsDue := rfl
@[simp] theorem State.setSession_audFirst (s : State) (r : Nat) (x : Session) : (s.setSession r x).audFirst = s.audFirst := rfl
@[simp] theorem State.setSession_audDue (s : State) (r : Nat) (x : Session) : (s.setSession r x).audDue = s.audDue := rfl
@[simp] theorem State.setSession_dbg (s : State) (r : Nat) (x : Session) : (s.setSession r x).dbg = s.dbg := rfl
@[simp] theorem State.setSession_started (s : State) (r : Nat) (x : Session) : (s.setSession r x).started = s.started := rfl
@[simp] theorem State.setSession_rstCmd (s : State) (r : Nat) (x : Session) : (s.setSession r x).rstCmd = s.rstCmd := rfl
@[simp] theorem State.setSession_romAt (s : State) (r : Nat) (x : Session) : (s.setSession r x).romAt = s.romAt := rfl
@[simp] theorem State.setSession_recovLow (s : State) (r : Nat) (x : Session) : (s.setSession r x).recovLow = s.recovLow := rfl
@[simp] theorem State.setSession_recov (s : State) (r : Nat) (x : Session) : (s.setSession r x).recov = s.recov := rfl
@[simp] theorem State.setSession_supplies (s : State) (r : Nat) (x : Session) : (s.setSession r x).supplies = s.supplies := rfl
@[simp] theorem State.setSession_wdiv (s : State) (r : Nat) (x : Session) : (s.setSession r x).wdiv = s.wdiv := rfl
@[simp] theorem State.setSession_toRun (s : State) (r : Nat) (x : Session) : (s.setSession r x).toRun = s.toRun := rfl
@[simp] theorem State.setSession_cxpOut (s : State) (r : Nat) (x : Session) : (s.setSession r x).cxpOut = s.cxpOut := rfl
@[simp] theorem State.setSession_irqBy (s : State) (r : Nat) (x : Session) : (s.setSession r x).irqBy = s.irqBy := rfl

@[simp] theorem State.mark_regs (s : State) (a : Nat) (m : Word) : (s.mark a m).regs = s.regs := by
  unfold State.mark; split <;> rfl
@[simp] theorem State.mark_pending (s : State) (a : Nat) (m : Word) : (s.mark a m).pending = s.pending := by
  unfold State.mark; split <;> rfl
@[simp] theorem State.mark_cycle (s : State) (a : Nat) (m : Word) : (s.mark a m).cycle = s.cycle := by
  unfold State.mark; split <;> rfl
@[simp] theorem State.mark_mem (s : State) (a : Nat) (m : Word) : (s.mark a m).mem = s.mem := by
  unfold State.mark; split <;> rfl
@[simp] theorem State.mark_syn (s : State) (a : Nat) (m : Word) : (s.mark a m).syn = s.syn := by
  unfold State.mark; split <;> rfl
@[simp] theorem State.mark_threads (s : State) (a : Nat) (m : Word) : (s.mark a m).threads = s.threads := by
  unfold State.mark; split <;> rfl
@[simp] theorem State.mark_whorls (s : State) (a : Nat) (m : Word) : (s.mark a m).whorls = s.whorls := by
  unfold State.mark; split <;> rfl
@[simp] theorem State.mark_chans (s : State) (a : Nat) (m : Word) : (s.mark a m).chans = s.chans := by
  unfold State.mark; split <;> rfl
@[simp] theorem State.mark_xchans (s : State) (a : Nat) (m : Word) : (s.mark a m).xchans = s.xchans := by
  unfold State.mark; split <;> rfl
@[simp] theorem State.mark_escq (s : State) (a : Nat) (m : Word) : (s.mark a m).escq = s.escq := by
  unfold State.mark; split <;> rfl
@[simp] theorem State.mark_quietAt (s : State) (a : Nat) (m : Word) : (s.mark a m).quietAt = s.quietAt := by
  unfold State.mark; split <;> rfl
@[simp] theorem State.mark_swNow (s : State) (a : Nat) (m : Word) : (s.mark a m).swNow = s.swNow := by
  unfold State.mark; split <;> rfl
@[simp] theorem State.mark_uev (s : State) (a : Nat) (m : Word) : (s.mark a m).uev = s.uev := by
  unfold State.mark; split <;> rfl
@[simp] theorem State.mark_free (s : State) (a : Nat) (m : Word) : (s.mark a m).free = s.free := by
  unfold State.mark; split <;> rfl
@[simp] theorem State.mark_tb (s : State) (a : Nat) (m : Word) : (s.mark a m).tb = s.tb := by
  unfold State.mark; split <;> rfl
@[simp] theorem State.mark_shadow (s : State) (a : Nat) (m : Word) : (s.mark a m).shadow = s.shadow := by
  unfold State.mark; split <;> rfl
@[simp] theorem State.mark_pulses (s : State) (a : Nat) (m : Word) : (s.mark a m).pulses = s.pulses := by
  unfold State.mark; split <;> rfl
@[simp] theorem State.mark_trcThread (s : State) (a : Nat) (m : Word) : (s.mark a m).trcThread = s.trcThread := by
  unfold State.mark; split <;> rfl
@[simp] theorem State.mark_trace (s : State) (a : Nat) (m : Word) : (s.mark a m).trace = s.trace := by
  unfold State.mark; split <;> rfl
@[simp] theorem State.mark_hap (s : State) (a : Nat) (m : Word) : (s.mark a m).hap = s.hap := by
  unfold State.mark; split <;> rfl
@[simp] theorem State.mark_hrspOut (s : State) (a : Nat) (m : Word) : (s.mark a m).hrspOut = s.hrspOut := by
  unfold State.mark; split <;> rfl
@[simp] theorem State.mark_dreqOut (s : State) (a : Nat) (m : Word) : (s.mark a m).dreqOut = s.dreqOut := by
  unfold State.mark; split <;> rfl
@[simp] theorem State.mark_bobV (s : State) (a : Nat) (m : Word) : (s.mark a m).bobV = s.bobV := by
  unfold State.mark; split <;> rfl
@[simp] theorem State.mark_bobDyn (s : State) (a : Nat) (m : Word) : (s.mark a m).bobDyn = s.bobDyn := by
  unfold State.mark; split <;> rfl
@[simp] theorem State.mark_bobFree (s : State) (a : Nat) (m : Word) : (s.mark a m).bobFree = s.bobFree := by
  unfold State.mark; split <;> rfl
@[simp] theorem State.mark_lwins (s : State) (a : Nat) (m : Word) : (s.mark a m).lwins = s.lwins := by
  unfold State.mark; split <;> rfl
@[simp] theorem State.mark_slipWait (s : State) (a : Nat) (m : Word) : (s.mark a m).slipWait = s.slipWait := by
  unfold State.mark; split <;> rfl
@[simp] theorem State.mark_ports (s : State) (a : Nat) (m : Word) : (s.mark a m).ports = s.ports := by
  unfold State.mark; split <;> rfl
@[simp] theorem State.mark_txq (s : State) (a : Nat) (m : Word) : (s.mark a m).txq = s.txq := by
  unfold State.mark; split <;> rfl
@[simp] theorem State.mark_sends (s : State) (a : Nat) (m : Word) : (s.mark a m).sends = s.sends := by
  unfold State.mark; split <;> rfl
@[simp] theorem State.mark_msgids (s : State) (a : Nat) (m : Word) : (s.mark a m).msgids = s.msgids := by
  unfold State.mark; split <;> rfl
@[simp] theorem State.mark_rtePend (s : State) (a : Nat) (m : Word) : (s.mark a m).rtePend = s.rtePend := by
  unfold State.mark; split <;> rfl
@[simp] theorem State.mark_srcs (s : State) (a : Nat) (m : Word) : (s.mark a m).srcs = s.srcs := by
  unfold State.mark; split <;> rfl
@[simp] theorem State.mark_ctxs (s : State) (a : Nat) (m : Word) : (s.mark a m).ctxs = s.ctxs := by
  unfold State.mark; split <;> rfl
@[simp] theorem State.mark_ackIn (s : State) (a : Nat) (m : Word) : (s.mark a m).ackIn = s.ackIn := by
  unfold State.mark; split <;> rfl
@[simp] theorem State.mark_sknIn (s : State) (a : Nat) (m : Word) : (s.mark a m).sknIn = s.sknIn := by
  unfold State.mark; split <;> rfl
@[simp] theorem State.mark_drafts (s : State) (a : Nat) (m : Word) : (s.mark a m).drafts = s.drafts := by
  unfold State.mark; split <;> rfl
@[simp] theorem State.mark_plys (s : State) (a : Nat) (m : Word) : (s.mark a m).plys = s.plys := by
  unfold State.mark; split <;> rfl
@[simp] theorem State.mark_skns (s : State) (a : Nat) (m : Word) : (s.mark a m).skns = s.skns := by
  unfold State.mark; split <;> rfl
@[simp] theorem State.mark_incNew (s : State) (a : Nat) (m : Word) : (s.mark a m).incNew = s.incNew := by
  unfold State.mark; split <;> rfl
@[simp] theorem State.mark_stepNew (s : State) (a : Nat) (m : Word) : (s.mark a m).stepNew = s.stepNew := by
  unfold State.mark; split <;> rfl
@[simp] theorem State.mark_reelArm (s : State) (a : Nat) (m : Word) : (s.mark a m).reelArm = s.reelArm := by
  unfold State.mark; split <;> rfl
@[simp] theorem State.mark_inc (s : State) (a : Nat) (m : Word) : (s.mark a m).inc = s.inc := by
  unfold State.mark; split <;> rfl
@[simp] theorem State.mark_slew (s : State) (a : Nat) (m : Word) : (s.mark a m).slew = s.slew := by
  unfold State.mark; split <;> rfl
@[simp] theorem State.mark_schLate (s : State) (a : Nat) (m : Word) : (s.mark a m).schLate = s.schLate := by
  unfold State.mark; split <;> rfl
@[simp] theorem State.mark_rclk (s : State) (a : Nat) (m : Word) : (s.mark a m).rclk = s.rclk := by
  unfold State.mark; split <;> rfl
@[simp] theorem State.mark_aonOld (s : State) (a : Nat) (m : Word) : (s.mark a m).aonOld = s.aonOld := by
  unfold State.mark; split <;> rfl
@[simp] theorem State.mark_tcons (s : State) (a : Nat) (m : Word) : (s.mark a m).tcons = s.tcons := by
  unfold State.mark; split <;> rfl
@[simp] theorem State.mark_capWait (s : State) (a : Nat) (m : Word) : (s.mark a m).capWait = s.capWait := by
  unfold State.mark; split <;> rfl
@[simp] theorem State.mark_pins (s : State) (a : Nat) (m : Word) : (s.mark a m).pins = s.pins := by
  unfold State.mark; split <;> rfl
@[simp] theorem State.mark_lx (s : State) (a : Nat) (m : Word) : (s.mark a m).lx = s.lx := by
  unfold State.mark; split <;> rfl
@[simp] theorem State.mark_sleepIn (s : State) (a : Nat) (m : Word) : (s.mark a m).sleepIn = s.sleepIn := by
  unfold State.mark; split <;> rfl
@[simp] theorem State.mark_slotKeys (s : State) (a : Nat) (m : Word) : (s.mark a m).slotKeys = s.slotKeys := by
  unfold State.mark; split <;> rfl
@[simp] theorem State.mark_secq (s : State) (a : Nat) (m : Word) : (s.mark a m).secq = s.secq := by
  unfold State.mark; split <;> rfl
@[simp] theorem State.mark_secLast (s : State) (a : Nat) (m : Word) : (s.mark a m).secLast = s.secLast := by
  unfold State.mark; split <;> rfl
@[simp] theorem State.mark_keyStore (s : State) (a : Nat) (m : Word) : (s.mark a m).keyStore = s.keyStore := by
  unfold State.mark; split <;> rfl
@[simp] theorem State.mark_sessions (s : State) (a : Nat) (m : Word) : (s.mark a m).sessions = s.sessions := by
  unfold State.mark; split <;> rfl
@[simp] theorem State.mark_sids (s : State) (a : Nat) (m : Word) : (s.mark a m).sids = s.sids := by
  unfold State.mark; split <;> rfl
@[simp] theorem State.mark_chal (s : State) (a : Nat) (m : Word) : (s.mark a m).chal = s.chal := by
  unfold State.mark; split <;> rfl
@[simp] theorem State.mark_bootKem (s : State) (a : Nat) (m : Word) : (s.mark a m).bootKem = s.bootKem := by
  unfold State.mark; split <;> rfl
@[simp] theorem State.mark_openBad (s : State) (a : Nat) (m : Word) : (s.mark a m).openBad = s.openBad := by
  unfold State.mark; split <;> rfl
@[simp] theorem State.mark_openBar (s : State) (a : Nat) (m : Word) : (s.mark a m).openBar = s.openBar := by
  unfold State.mark; split <;> rfl
@[simp] theorem State.mark_taken (s : State) (a : Nat) (m : Word) : (s.mark a m).taken = s.taken := by
  unfold State.mark; split <;> rfl
@[simp] theorem State.mark_resp (s : State) (a : Nat) (m : Word) : (s.mark a m).resp = s.resp := by
  unfold State.mark; split <;> rfl
@[simp] theorem State.mark_authAt (s : State) (a : Nat) (m : Word) : (s.mark a m).authAt = s.authAt := by
  unfold State.mark; split <;> rfl
@[simp] theorem State.mark_authCnt (s : State) (a : Nat) (m : Word) : (s.mark a m).authCnt = s.authCnt := by
  unfold State.mark; split <;> rfl
@[simp] theorem State.mark_meas (s : State) (a : Nat) (m : Word) : (s.mark a m).meas = s.meas := by
  unfold State.mark; split <;> rfl
@[simp] theorem State.mark_lists (s : State) (a : Nat) (m : Word) : (s.mark a m).lists = s.lists := by
  unfold State.mark; split <;> rfl
@[simp] theorem State.mark_fwSvn (s : State) (a : Nat) (m : Word) : (s.mark a m).fwSvn = s.fwSvn := by
  unfold State.mark; split <;> rfl
@[simp] theorem State.mark_imgHash (s : State) (a : Nat) (m : Word) : (s.mark a m).imgHash = s.imgHash := by
  unfold State.mark; split <;> rfl
@[simp] theorem State.mark_instKeys (s : State) (a : Nat) (m : Word) : (s.mark a m).instKeys = s.instKeys := by
  unfold State.mark; split <;> rfl
@[simp] theorem State.mark_instGone (s : State) (a : Nat) (m : Word) : (s.mark a m).instGone = s.instGone := by
  unfold State.mark; split <;> rfl
@[simp] theorem State.mark_otp (s : State) (a : Nat) (m : Word) : (s.mark a m).otp = s.otp := by
  unfold State.mark; split <;> rfl
@[simp] theorem State.mark_vppOk (s : State) (a : Nat) (m : Word) : (s.mark a m).vppOk = s.vppOk := by
  unfold State.mark; split <;> rfl
@[simp] theorem State.mark_bootsDue (s : State) (a : Nat) (m : Word) : (s.mark a m).bootsDue = s.bootsDue := by
  unfold State.mark; split <;> rfl
@[simp] theorem State.mark_audFirst (s : State) (a : Nat) (m : Word) : (s.mark a m).audFirst = s.audFirst := by
  unfold State.mark; split <;> rfl
@[simp] theorem State.mark_audDue (s : State) (a : Nat) (m : Word) : (s.mark a m).audDue = s.audDue := by
  unfold State.mark; split <;> rfl
@[simp] theorem State.mark_dbg (s : State) (a : Nat) (m : Word) : (s.mark a m).dbg = s.dbg := by
  unfold State.mark; split <;> rfl
@[simp] theorem State.mark_started (s : State) (a : Nat) (m : Word) : (s.mark a m).started = s.started := by
  unfold State.mark; split <;> rfl
@[simp] theorem State.mark_rstCmd (s : State) (a : Nat) (m : Word) : (s.mark a m).rstCmd = s.rstCmd := by
  unfold State.mark; split <;> rfl
@[simp] theorem State.mark_romAt (s : State) (a : Nat) (m : Word) : (s.mark a m).romAt = s.romAt := by
  unfold State.mark; split <;> rfl
@[simp] theorem State.mark_recovLow (s : State) (a : Nat) (m : Word) : (s.mark a m).recovLow = s.recovLow := by
  unfold State.mark; split <;> rfl
@[simp] theorem State.mark_recov (s : State) (a : Nat) (m : Word) : (s.mark a m).recov = s.recov := by
  unfold State.mark; split <;> rfl
@[simp] theorem State.mark_supplies (s : State) (a : Nat) (m : Word) : (s.mark a m).supplies = s.supplies := by
  unfold State.mark; split <;> rfl
@[simp] theorem State.mark_wdiv (s : State) (a : Nat) (m : Word) : (s.mark a m).wdiv = s.wdiv := by
  unfold State.mark; split <;> rfl
@[simp] theorem State.mark_toRun (s : State) (a : Nat) (m : Word) : (s.mark a m).toRun = s.toRun := by
  unfold State.mark; split <;> rfl
@[simp] theorem State.mark_cxpOut (s : State) (a : Nat) (m : Word) : (s.mark a m).cxpOut = s.cxpOut := by
  unfold State.mark; split <;> rfl
@[simp] theorem State.mark_irqBy (s : State) (a : Nat) (m : Word) : (s.mark a m).irqBy = s.irqBy := by
  unfold State.mark; split <;> rfl

@[simp] theorem State.setFld_pending (s : State) (a : Nat) (b : Bits) (v : Nat) : (s.setFld a b v).pending = s.pending := State.mark_pending _ _ _
@[simp] theorem State.setFld_cycle (s : State) (a : Nat) (b : Bits) (v : Nat) : (s.setFld a b v).cycle = s.cycle := State.mark_cycle _ _ _
@[simp] theorem State.setFld_mem (s : State) (a : Nat) (b : Bits) (v : Nat) : (s.setFld a b v).mem = s.mem := State.mark_mem _ _ _
@[simp] theorem State.setFld_syn (s : State) (a : Nat) (b : Bits) (v : Nat) : (s.setFld a b v).syn = s.syn := State.mark_syn _ _ _
@[simp] theorem State.setFld_threads (s : State) (a : Nat) (b : Bits) (v : Nat) : (s.setFld a b v).threads = s.threads := State.mark_threads _ _ _
@[simp] theorem State.setFld_whorls (s : State) (a : Nat) (b : Bits) (v : Nat) : (s.setFld a b v).whorls = s.whorls := State.mark_whorls _ _ _
@[simp] theorem State.setFld_chans (s : State) (a : Nat) (b : Bits) (v : Nat) : (s.setFld a b v).chans = s.chans := State.mark_chans _ _ _
@[simp] theorem State.setFld_xchans (s : State) (a : Nat) (b : Bits) (v : Nat) : (s.setFld a b v).xchans = s.xchans := State.mark_xchans _ _ _
@[simp] theorem State.setFld_escq (s : State) (a : Nat) (b : Bits) (v : Nat) : (s.setFld a b v).escq = s.escq := State.mark_escq _ _ _
@[simp] theorem State.setFld_quietAt (s : State) (a : Nat) (b : Bits) (v : Nat) : (s.setFld a b v).quietAt = s.quietAt := State.mark_quietAt _ _ _
@[simp] theorem State.setFld_swNow (s : State) (a : Nat) (b : Bits) (v : Nat) : (s.setFld a b v).swNow = s.swNow := State.mark_swNow _ _ _
@[simp] theorem State.setFld_uev (s : State) (a : Nat) (b : Bits) (v : Nat) : (s.setFld a b v).uev = s.uev := State.mark_uev _ _ _
@[simp] theorem State.setFld_free (s : State) (a : Nat) (b : Bits) (v : Nat) : (s.setFld a b v).free = s.free := State.mark_free _ _ _
@[simp] theorem State.setFld_tb (s : State) (a : Nat) (b : Bits) (v : Nat) : (s.setFld a b v).tb = s.tb := State.mark_tb _ _ _
@[simp] theorem State.setFld_shadow (s : State) (a : Nat) (b : Bits) (v : Nat) : (s.setFld a b v).shadow = s.shadow := State.mark_shadow _ _ _
@[simp] theorem State.setFld_pulses (s : State) (a : Nat) (b : Bits) (v : Nat) : (s.setFld a b v).pulses = s.pulses := State.mark_pulses _ _ _
@[simp] theorem State.setFld_trcThread (s : State) (a : Nat) (b : Bits) (v : Nat) : (s.setFld a b v).trcThread = s.trcThread := State.mark_trcThread _ _ _
@[simp] theorem State.setFld_trace (s : State) (a : Nat) (b : Bits) (v : Nat) : (s.setFld a b v).trace = s.trace := State.mark_trace _ _ _
@[simp] theorem State.setFld_hap (s : State) (a : Nat) (b : Bits) (v : Nat) : (s.setFld a b v).hap = s.hap := State.mark_hap _ _ _
@[simp] theorem State.setFld_hrspOut (s : State) (a : Nat) (b : Bits) (v : Nat) : (s.setFld a b v).hrspOut = s.hrspOut := State.mark_hrspOut _ _ _
@[simp] theorem State.setFld_dreqOut (s : State) (a : Nat) (b : Bits) (v : Nat) : (s.setFld a b v).dreqOut = s.dreqOut := State.mark_dreqOut _ _ _
@[simp] theorem State.setFld_bobV (s : State) (a : Nat) (b : Bits) (v : Nat) : (s.setFld a b v).bobV = s.bobV := State.mark_bobV _ _ _
@[simp] theorem State.setFld_bobDyn (s : State) (a : Nat) (b : Bits) (v : Nat) : (s.setFld a b v).bobDyn = s.bobDyn := State.mark_bobDyn _ _ _
@[simp] theorem State.setFld_bobFree (s : State) (a : Nat) (b : Bits) (v : Nat) : (s.setFld a b v).bobFree = s.bobFree := State.mark_bobFree _ _ _
@[simp] theorem State.setFld_lwins (s : State) (a : Nat) (b : Bits) (v : Nat) : (s.setFld a b v).lwins = s.lwins := State.mark_lwins _ _ _
@[simp] theorem State.setFld_slipWait (s : State) (a : Nat) (b : Bits) (v : Nat) : (s.setFld a b v).slipWait = s.slipWait := State.mark_slipWait _ _ _
@[simp] theorem State.setFld_ports (s : State) (a : Nat) (b : Bits) (v : Nat) : (s.setFld a b v).ports = s.ports := State.mark_ports _ _ _
@[simp] theorem State.setFld_txq (s : State) (a : Nat) (b : Bits) (v : Nat) : (s.setFld a b v).txq = s.txq := State.mark_txq _ _ _
@[simp] theorem State.setFld_sends (s : State) (a : Nat) (b : Bits) (v : Nat) : (s.setFld a b v).sends = s.sends := State.mark_sends _ _ _
@[simp] theorem State.setFld_msgids (s : State) (a : Nat) (b : Bits) (v : Nat) : (s.setFld a b v).msgids = s.msgids := State.mark_msgids _ _ _
@[simp] theorem State.setFld_rtePend (s : State) (a : Nat) (b : Bits) (v : Nat) : (s.setFld a b v).rtePend = s.rtePend := State.mark_rtePend _ _ _
@[simp] theorem State.setFld_srcs (s : State) (a : Nat) (b : Bits) (v : Nat) : (s.setFld a b v).srcs = s.srcs := State.mark_srcs _ _ _
@[simp] theorem State.setFld_ctxs (s : State) (a : Nat) (b : Bits) (v : Nat) : (s.setFld a b v).ctxs = s.ctxs := State.mark_ctxs _ _ _
@[simp] theorem State.setFld_ackIn (s : State) (a : Nat) (b : Bits) (v : Nat) : (s.setFld a b v).ackIn = s.ackIn := State.mark_ackIn _ _ _
@[simp] theorem State.setFld_sknIn (s : State) (a : Nat) (b : Bits) (v : Nat) : (s.setFld a b v).sknIn = s.sknIn := State.mark_sknIn _ _ _
@[simp] theorem State.setFld_drafts (s : State) (a : Nat) (b : Bits) (v : Nat) : (s.setFld a b v).drafts = s.drafts := State.mark_drafts _ _ _
@[simp] theorem State.setFld_plys (s : State) (a : Nat) (b : Bits) (v : Nat) : (s.setFld a b v).plys = s.plys := State.mark_plys _ _ _
@[simp] theorem State.setFld_skns (s : State) (a : Nat) (b : Bits) (v : Nat) : (s.setFld a b v).skns = s.skns := State.mark_skns _ _ _
@[simp] theorem State.setFld_incNew (s : State) (a : Nat) (b : Bits) (v : Nat) : (s.setFld a b v).incNew = s.incNew := State.mark_incNew _ _ _
@[simp] theorem State.setFld_stepNew (s : State) (a : Nat) (b : Bits) (v : Nat) : (s.setFld a b v).stepNew = s.stepNew := State.mark_stepNew _ _ _
@[simp] theorem State.setFld_reelArm (s : State) (a : Nat) (b : Bits) (v : Nat) : (s.setFld a b v).reelArm = s.reelArm := State.mark_reelArm _ _ _
@[simp] theorem State.setFld_inc (s : State) (a : Nat) (b : Bits) (v : Nat) : (s.setFld a b v).inc = s.inc := State.mark_inc _ _ _
@[simp] theorem State.setFld_slew (s : State) (a : Nat) (b : Bits) (v : Nat) : (s.setFld a b v).slew = s.slew := State.mark_slew _ _ _
@[simp] theorem State.setFld_schLate (s : State) (a : Nat) (b : Bits) (v : Nat) : (s.setFld a b v).schLate = s.schLate := State.mark_schLate _ _ _
@[simp] theorem State.setFld_rclk (s : State) (a : Nat) (b : Bits) (v : Nat) : (s.setFld a b v).rclk = s.rclk := State.mark_rclk _ _ _
@[simp] theorem State.setFld_aonOld (s : State) (a : Nat) (b : Bits) (v : Nat) : (s.setFld a b v).aonOld = s.aonOld := State.mark_aonOld _ _ _
@[simp] theorem State.setFld_tcons (s : State) (a : Nat) (b : Bits) (v : Nat) : (s.setFld a b v).tcons = s.tcons := State.mark_tcons _ _ _
@[simp] theorem State.setFld_capWait (s : State) (a : Nat) (b : Bits) (v : Nat) : (s.setFld a b v).capWait = s.capWait := State.mark_capWait _ _ _
@[simp] theorem State.setFld_pins (s : State) (a : Nat) (b : Bits) (v : Nat) : (s.setFld a b v).pins = s.pins := State.mark_pins _ _ _
@[simp] theorem State.setFld_lx (s : State) (a : Nat) (b : Bits) (v : Nat) : (s.setFld a b v).lx = s.lx := State.mark_lx _ _ _
@[simp] theorem State.setFld_sleepIn (s : State) (a : Nat) (b : Bits) (v : Nat) : (s.setFld a b v).sleepIn = s.sleepIn := State.mark_sleepIn _ _ _
@[simp] theorem State.setFld_slotKeys (s : State) (a : Nat) (b : Bits) (v : Nat) : (s.setFld a b v).slotKeys = s.slotKeys := State.mark_slotKeys _ _ _
@[simp] theorem State.setFld_secq (s : State) (a : Nat) (b : Bits) (v : Nat) : (s.setFld a b v).secq = s.secq := State.mark_secq _ _ _
@[simp] theorem State.setFld_secLast (s : State) (a : Nat) (b : Bits) (v : Nat) : (s.setFld a b v).secLast = s.secLast := State.mark_secLast _ _ _
@[simp] theorem State.setFld_keyStore (s : State) (a : Nat) (b : Bits) (v : Nat) : (s.setFld a b v).keyStore = s.keyStore := State.mark_keyStore _ _ _
@[simp] theorem State.setFld_sessions (s : State) (a : Nat) (b : Bits) (v : Nat) : (s.setFld a b v).sessions = s.sessions := State.mark_sessions _ _ _
@[simp] theorem State.setFld_sids (s : State) (a : Nat) (b : Bits) (v : Nat) : (s.setFld a b v).sids = s.sids := State.mark_sids _ _ _
@[simp] theorem State.setFld_chal (s : State) (a : Nat) (b : Bits) (v : Nat) : (s.setFld a b v).chal = s.chal := State.mark_chal _ _ _
@[simp] theorem State.setFld_bootKem (s : State) (a : Nat) (b : Bits) (v : Nat) : (s.setFld a b v).bootKem = s.bootKem := State.mark_bootKem _ _ _
@[simp] theorem State.setFld_openBad (s : State) (a : Nat) (b : Bits) (v : Nat) : (s.setFld a b v).openBad = s.openBad := State.mark_openBad _ _ _
@[simp] theorem State.setFld_openBar (s : State) (a : Nat) (b : Bits) (v : Nat) : (s.setFld a b v).openBar = s.openBar := State.mark_openBar _ _ _
@[simp] theorem State.setFld_taken (s : State) (a : Nat) (b : Bits) (v : Nat) : (s.setFld a b v).taken = s.taken := State.mark_taken _ _ _
@[simp] theorem State.setFld_resp (s : State) (a : Nat) (b : Bits) (v : Nat) : (s.setFld a b v).resp = s.resp := State.mark_resp _ _ _
@[simp] theorem State.setFld_authAt (s : State) (a : Nat) (b : Bits) (v : Nat) : (s.setFld a b v).authAt = s.authAt := State.mark_authAt _ _ _
@[simp] theorem State.setFld_authCnt (s : State) (a : Nat) (b : Bits) (v : Nat) : (s.setFld a b v).authCnt = s.authCnt := State.mark_authCnt _ _ _
@[simp] theorem State.setFld_meas (s : State) (a : Nat) (b : Bits) (v : Nat) : (s.setFld a b v).meas = s.meas := State.mark_meas _ _ _
@[simp] theorem State.setFld_lists (s : State) (a : Nat) (b : Bits) (v : Nat) : (s.setFld a b v).lists = s.lists := State.mark_lists _ _ _
@[simp] theorem State.setFld_fwSvn (s : State) (a : Nat) (b : Bits) (v : Nat) : (s.setFld a b v).fwSvn = s.fwSvn := State.mark_fwSvn _ _ _
@[simp] theorem State.setFld_imgHash (s : State) (a : Nat) (b : Bits) (v : Nat) : (s.setFld a b v).imgHash = s.imgHash := State.mark_imgHash _ _ _
@[simp] theorem State.setFld_instKeys (s : State) (a : Nat) (b : Bits) (v : Nat) : (s.setFld a b v).instKeys = s.instKeys := State.mark_instKeys _ _ _
@[simp] theorem State.setFld_instGone (s : State) (a : Nat) (b : Bits) (v : Nat) : (s.setFld a b v).instGone = s.instGone := State.mark_instGone _ _ _
@[simp] theorem State.setFld_otp (s : State) (a : Nat) (b : Bits) (v : Nat) : (s.setFld a b v).otp = s.otp := State.mark_otp _ _ _
@[simp] theorem State.setFld_vppOk (s : State) (a : Nat) (b : Bits) (v : Nat) : (s.setFld a b v).vppOk = s.vppOk := State.mark_vppOk _ _ _
@[simp] theorem State.setFld_bootsDue (s : State) (a : Nat) (b : Bits) (v : Nat) : (s.setFld a b v).bootsDue = s.bootsDue := State.mark_bootsDue _ _ _
@[simp] theorem State.setFld_audFirst (s : State) (a : Nat) (b : Bits) (v : Nat) : (s.setFld a b v).audFirst = s.audFirst := State.mark_audFirst _ _ _
@[simp] theorem State.setFld_audDue (s : State) (a : Nat) (b : Bits) (v : Nat) : (s.setFld a b v).audDue = s.audDue := State.mark_audDue _ _ _
@[simp] theorem State.setFld_dbg (s : State) (a : Nat) (b : Bits) (v : Nat) : (s.setFld a b v).dbg = s.dbg := State.mark_dbg _ _ _
@[simp] theorem State.setFld_started (s : State) (a : Nat) (b : Bits) (v : Nat) : (s.setFld a b v).started = s.started := State.mark_started _ _ _
@[simp] theorem State.setFld_rstCmd (s : State) (a : Nat) (b : Bits) (v : Nat) : (s.setFld a b v).rstCmd = s.rstCmd := State.mark_rstCmd _ _ _
@[simp] theorem State.setFld_romAt (s : State) (a : Nat) (b : Bits) (v : Nat) : (s.setFld a b v).romAt = s.romAt := State.mark_romAt _ _ _
@[simp] theorem State.setFld_recovLow (s : State) (a : Nat) (b : Bits) (v : Nat) : (s.setFld a b v).recovLow = s.recovLow := State.mark_recovLow _ _ _
@[simp] theorem State.setFld_recov (s : State) (a : Nat) (b : Bits) (v : Nat) : (s.setFld a b v).recov = s.recov := State.mark_recov _ _ _
@[simp] theorem State.setFld_supplies (s : State) (a : Nat) (b : Bits) (v : Nat) : (s.setFld a b v).supplies = s.supplies := State.mark_supplies _ _ _
@[simp] theorem State.setFld_wdiv (s : State) (a : Nat) (b : Bits) (v : Nat) : (s.setFld a b v).wdiv = s.wdiv := State.mark_wdiv _ _ _
@[simp] theorem State.setFld_toRun (s : State) (a : Nat) (b : Bits) (v : Nat) : (s.setFld a b v).toRun = s.toRun := State.mark_toRun _ _ _
@[simp] theorem State.setFld_cxpOut (s : State) (a : Nat) (b : Bits) (v : Nat) : (s.setFld a b v).cxpOut = s.cxpOut := State.mark_cxpOut _ _ _
@[simp] theorem State.setFld_irqBy (s : State) (a : Nat) (b : Bits) (v : Nat) : (s.setFld a b v).irqBy = s.irqBy := State.mark_irqBy _ _ _

@[simp] theorem State.setBits_pending (s : State) (a : Nat) (m : Word) : (s.setBits a m).pending = s.pending := State.mark_pending _ _ _
@[simp] theorem State.setBits_cycle (s : State) (a : Nat) (m : Word) : (s.setBits a m).cycle = s.cycle := State.mark_cycle _ _ _
@[simp] theorem State.setBits_mem (s : State) (a : Nat) (m : Word) : (s.setBits a m).mem = s.mem := State.mark_mem _ _ _
@[simp] theorem State.setBits_syn (s : State) (a : Nat) (m : Word) : (s.setBits a m).syn = s.syn := State.mark_syn _ _ _
@[simp] theorem State.setBits_threads (s : State) (a : Nat) (m : Word) : (s.setBits a m).threads = s.threads := State.mark_threads _ _ _
@[simp] theorem State.setBits_whorls (s : State) (a : Nat) (m : Word) : (s.setBits a m).whorls = s.whorls := State.mark_whorls _ _ _
@[simp] theorem State.setBits_chans (s : State) (a : Nat) (m : Word) : (s.setBits a m).chans = s.chans := State.mark_chans _ _ _
@[simp] theorem State.setBits_xchans (s : State) (a : Nat) (m : Word) : (s.setBits a m).xchans = s.xchans := State.mark_xchans _ _ _
@[simp] theorem State.setBits_escq (s : State) (a : Nat) (m : Word) : (s.setBits a m).escq = s.escq := State.mark_escq _ _ _
@[simp] theorem State.setBits_quietAt (s : State) (a : Nat) (m : Word) : (s.setBits a m).quietAt = s.quietAt := State.mark_quietAt _ _ _
@[simp] theorem State.setBits_swNow (s : State) (a : Nat) (m : Word) : (s.setBits a m).swNow = s.swNow := State.mark_swNow _ _ _
@[simp] theorem State.setBits_uev (s : State) (a : Nat) (m : Word) : (s.setBits a m).uev = s.uev := State.mark_uev _ _ _
@[simp] theorem State.setBits_free (s : State) (a : Nat) (m : Word) : (s.setBits a m).free = s.free := State.mark_free _ _ _
@[simp] theorem State.setBits_tb (s : State) (a : Nat) (m : Word) : (s.setBits a m).tb = s.tb := State.mark_tb _ _ _
@[simp] theorem State.setBits_shadow (s : State) (a : Nat) (m : Word) : (s.setBits a m).shadow = s.shadow := State.mark_shadow _ _ _
@[simp] theorem State.setBits_pulses (s : State) (a : Nat) (m : Word) : (s.setBits a m).pulses = s.pulses := State.mark_pulses _ _ _
@[simp] theorem State.setBits_trcThread (s : State) (a : Nat) (m : Word) : (s.setBits a m).trcThread = s.trcThread := State.mark_trcThread _ _ _
@[simp] theorem State.setBits_trace (s : State) (a : Nat) (m : Word) : (s.setBits a m).trace = s.trace := State.mark_trace _ _ _
@[simp] theorem State.setBits_hap (s : State) (a : Nat) (m : Word) : (s.setBits a m).hap = s.hap := State.mark_hap _ _ _
@[simp] theorem State.setBits_hrspOut (s : State) (a : Nat) (m : Word) : (s.setBits a m).hrspOut = s.hrspOut := State.mark_hrspOut _ _ _
@[simp] theorem State.setBits_dreqOut (s : State) (a : Nat) (m : Word) : (s.setBits a m).dreqOut = s.dreqOut := State.mark_dreqOut _ _ _
@[simp] theorem State.setBits_bobV (s : State) (a : Nat) (m : Word) : (s.setBits a m).bobV = s.bobV := State.mark_bobV _ _ _
@[simp] theorem State.setBits_bobDyn (s : State) (a : Nat) (m : Word) : (s.setBits a m).bobDyn = s.bobDyn := State.mark_bobDyn _ _ _
@[simp] theorem State.setBits_bobFree (s : State) (a : Nat) (m : Word) : (s.setBits a m).bobFree = s.bobFree := State.mark_bobFree _ _ _
@[simp] theorem State.setBits_lwins (s : State) (a : Nat) (m : Word) : (s.setBits a m).lwins = s.lwins := State.mark_lwins _ _ _
@[simp] theorem State.setBits_slipWait (s : State) (a : Nat) (m : Word) : (s.setBits a m).slipWait = s.slipWait := State.mark_slipWait _ _ _
@[simp] theorem State.setBits_ports (s : State) (a : Nat) (m : Word) : (s.setBits a m).ports = s.ports := State.mark_ports _ _ _
@[simp] theorem State.setBits_txq (s : State) (a : Nat) (m : Word) : (s.setBits a m).txq = s.txq := State.mark_txq _ _ _
@[simp] theorem State.setBits_sends (s : State) (a : Nat) (m : Word) : (s.setBits a m).sends = s.sends := State.mark_sends _ _ _
@[simp] theorem State.setBits_msgids (s : State) (a : Nat) (m : Word) : (s.setBits a m).msgids = s.msgids := State.mark_msgids _ _ _
@[simp] theorem State.setBits_rtePend (s : State) (a : Nat) (m : Word) : (s.setBits a m).rtePend = s.rtePend := State.mark_rtePend _ _ _
@[simp] theorem State.setBits_srcs (s : State) (a : Nat) (m : Word) : (s.setBits a m).srcs = s.srcs := State.mark_srcs _ _ _
@[simp] theorem State.setBits_ctxs (s : State) (a : Nat) (m : Word) : (s.setBits a m).ctxs = s.ctxs := State.mark_ctxs _ _ _
@[simp] theorem State.setBits_ackIn (s : State) (a : Nat) (m : Word) : (s.setBits a m).ackIn = s.ackIn := State.mark_ackIn _ _ _
@[simp] theorem State.setBits_sknIn (s : State) (a : Nat) (m : Word) : (s.setBits a m).sknIn = s.sknIn := State.mark_sknIn _ _ _
@[simp] theorem State.setBits_drafts (s : State) (a : Nat) (m : Word) : (s.setBits a m).drafts = s.drafts := State.mark_drafts _ _ _
@[simp] theorem State.setBits_plys (s : State) (a : Nat) (m : Word) : (s.setBits a m).plys = s.plys := State.mark_plys _ _ _
@[simp] theorem State.setBits_skns (s : State) (a : Nat) (m : Word) : (s.setBits a m).skns = s.skns := State.mark_skns _ _ _
@[simp] theorem State.setBits_incNew (s : State) (a : Nat) (m : Word) : (s.setBits a m).incNew = s.incNew := State.mark_incNew _ _ _
@[simp] theorem State.setBits_stepNew (s : State) (a : Nat) (m : Word) : (s.setBits a m).stepNew = s.stepNew := State.mark_stepNew _ _ _
@[simp] theorem State.setBits_reelArm (s : State) (a : Nat) (m : Word) : (s.setBits a m).reelArm = s.reelArm := State.mark_reelArm _ _ _
@[simp] theorem State.setBits_inc (s : State) (a : Nat) (m : Word) : (s.setBits a m).inc = s.inc := State.mark_inc _ _ _
@[simp] theorem State.setBits_slew (s : State) (a : Nat) (m : Word) : (s.setBits a m).slew = s.slew := State.mark_slew _ _ _
@[simp] theorem State.setBits_schLate (s : State) (a : Nat) (m : Word) : (s.setBits a m).schLate = s.schLate := State.mark_schLate _ _ _
@[simp] theorem State.setBits_rclk (s : State) (a : Nat) (m : Word) : (s.setBits a m).rclk = s.rclk := State.mark_rclk _ _ _
@[simp] theorem State.setBits_aonOld (s : State) (a : Nat) (m : Word) : (s.setBits a m).aonOld = s.aonOld := State.mark_aonOld _ _ _
@[simp] theorem State.setBits_tcons (s : State) (a : Nat) (m : Word) : (s.setBits a m).tcons = s.tcons := State.mark_tcons _ _ _
@[simp] theorem State.setBits_capWait (s : State) (a : Nat) (m : Word) : (s.setBits a m).capWait = s.capWait := State.mark_capWait _ _ _
@[simp] theorem State.setBits_pins (s : State) (a : Nat) (m : Word) : (s.setBits a m).pins = s.pins := State.mark_pins _ _ _
@[simp] theorem State.setBits_lx (s : State) (a : Nat) (m : Word) : (s.setBits a m).lx = s.lx := State.mark_lx _ _ _
@[simp] theorem State.setBits_sleepIn (s : State) (a : Nat) (m : Word) : (s.setBits a m).sleepIn = s.sleepIn := State.mark_sleepIn _ _ _
@[simp] theorem State.setBits_slotKeys (s : State) (a : Nat) (m : Word) : (s.setBits a m).slotKeys = s.slotKeys := State.mark_slotKeys _ _ _
@[simp] theorem State.setBits_secq (s : State) (a : Nat) (m : Word) : (s.setBits a m).secq = s.secq := State.mark_secq _ _ _
@[simp] theorem State.setBits_secLast (s : State) (a : Nat) (m : Word) : (s.setBits a m).secLast = s.secLast := State.mark_secLast _ _ _
@[simp] theorem State.setBits_keyStore (s : State) (a : Nat) (m : Word) : (s.setBits a m).keyStore = s.keyStore := State.mark_keyStore _ _ _
@[simp] theorem State.setBits_sessions (s : State) (a : Nat) (m : Word) : (s.setBits a m).sessions = s.sessions := State.mark_sessions _ _ _
@[simp] theorem State.setBits_sids (s : State) (a : Nat) (m : Word) : (s.setBits a m).sids = s.sids := State.mark_sids _ _ _
@[simp] theorem State.setBits_chal (s : State) (a : Nat) (m : Word) : (s.setBits a m).chal = s.chal := State.mark_chal _ _ _
@[simp] theorem State.setBits_bootKem (s : State) (a : Nat) (m : Word) : (s.setBits a m).bootKem = s.bootKem := State.mark_bootKem _ _ _
@[simp] theorem State.setBits_openBad (s : State) (a : Nat) (m : Word) : (s.setBits a m).openBad = s.openBad := State.mark_openBad _ _ _
@[simp] theorem State.setBits_openBar (s : State) (a : Nat) (m : Word) : (s.setBits a m).openBar = s.openBar := State.mark_openBar _ _ _
@[simp] theorem State.setBits_taken (s : State) (a : Nat) (m : Word) : (s.setBits a m).taken = s.taken := State.mark_taken _ _ _
@[simp] theorem State.setBits_resp (s : State) (a : Nat) (m : Word) : (s.setBits a m).resp = s.resp := State.mark_resp _ _ _
@[simp] theorem State.setBits_authAt (s : State) (a : Nat) (m : Word) : (s.setBits a m).authAt = s.authAt := State.mark_authAt _ _ _
@[simp] theorem State.setBits_authCnt (s : State) (a : Nat) (m : Word) : (s.setBits a m).authCnt = s.authCnt := State.mark_authCnt _ _ _
@[simp] theorem State.setBits_meas (s : State) (a : Nat) (m : Word) : (s.setBits a m).meas = s.meas := State.mark_meas _ _ _
@[simp] theorem State.setBits_lists (s : State) (a : Nat) (m : Word) : (s.setBits a m).lists = s.lists := State.mark_lists _ _ _
@[simp] theorem State.setBits_fwSvn (s : State) (a : Nat) (m : Word) : (s.setBits a m).fwSvn = s.fwSvn := State.mark_fwSvn _ _ _
@[simp] theorem State.setBits_imgHash (s : State) (a : Nat) (m : Word) : (s.setBits a m).imgHash = s.imgHash := State.mark_imgHash _ _ _
@[simp] theorem State.setBits_instKeys (s : State) (a : Nat) (m : Word) : (s.setBits a m).instKeys = s.instKeys := State.mark_instKeys _ _ _
@[simp] theorem State.setBits_instGone (s : State) (a : Nat) (m : Word) : (s.setBits a m).instGone = s.instGone := State.mark_instGone _ _ _
@[simp] theorem State.setBits_otp (s : State) (a : Nat) (m : Word) : (s.setBits a m).otp = s.otp := State.mark_otp _ _ _
@[simp] theorem State.setBits_vppOk (s : State) (a : Nat) (m : Word) : (s.setBits a m).vppOk = s.vppOk := State.mark_vppOk _ _ _
@[simp] theorem State.setBits_bootsDue (s : State) (a : Nat) (m : Word) : (s.setBits a m).bootsDue = s.bootsDue := State.mark_bootsDue _ _ _
@[simp] theorem State.setBits_audFirst (s : State) (a : Nat) (m : Word) : (s.setBits a m).audFirst = s.audFirst := State.mark_audFirst _ _ _
@[simp] theorem State.setBits_audDue (s : State) (a : Nat) (m : Word) : (s.setBits a m).audDue = s.audDue := State.mark_audDue _ _ _
@[simp] theorem State.setBits_dbg (s : State) (a : Nat) (m : Word) : (s.setBits a m).dbg = s.dbg := State.mark_dbg _ _ _
@[simp] theorem State.setBits_started (s : State) (a : Nat) (m : Word) : (s.setBits a m).started = s.started := State.mark_started _ _ _
@[simp] theorem State.setBits_rstCmd (s : State) (a : Nat) (m : Word) : (s.setBits a m).rstCmd = s.rstCmd := State.mark_rstCmd _ _ _
@[simp] theorem State.setBits_romAt (s : State) (a : Nat) (m : Word) : (s.setBits a m).romAt = s.romAt := State.mark_romAt _ _ _
@[simp] theorem State.setBits_recovLow (s : State) (a : Nat) (m : Word) : (s.setBits a m).recovLow = s.recovLow := State.mark_recovLow _ _ _
@[simp] theorem State.setBits_recov (s : State) (a : Nat) (m : Word) : (s.setBits a m).recov = s.recov := State.mark_recov _ _ _
@[simp] theorem State.setBits_supplies (s : State) (a : Nat) (m : Word) : (s.setBits a m).supplies = s.supplies := State.mark_supplies _ _ _
@[simp] theorem State.setBits_wdiv (s : State) (a : Nat) (m : Word) : (s.setBits a m).wdiv = s.wdiv := State.mark_wdiv _ _ _
@[simp] theorem State.setBits_toRun (s : State) (a : Nat) (m : Word) : (s.setBits a m).toRun = s.toRun := State.mark_toRun _ _ _
@[simp] theorem State.setBits_cxpOut (s : State) (a : Nat) (m : Word) : (s.setBits a m).cxpOut = s.cxpOut := State.mark_cxpOut _ _ _
@[simp] theorem State.setBits_irqBy (s : State) (a : Nat) (m : Word) : (s.setBits a m).irqBy = s.irqBy := State.mark_irqBy _ _ _

@[simp] theorem State.bump_pending (s : State) (a : Nat) (b : Bits) (d : Nat) : (s.bump a b d).pending = s.pending := State.setFld_pending _ _ _ _
@[simp] theorem State.bump_cycle (s : State) (a : Nat) (b : Bits) (d : Nat) : (s.bump a b d).cycle = s.cycle := State.setFld_cycle _ _ _ _
@[simp] theorem State.bump_mem (s : State) (a : Nat) (b : Bits) (d : Nat) : (s.bump a b d).mem = s.mem := State.setFld_mem _ _ _ _
@[simp] theorem State.bump_syn (s : State) (a : Nat) (b : Bits) (d : Nat) : (s.bump a b d).syn = s.syn := State.setFld_syn _ _ _ _
@[simp] theorem State.bump_threads (s : State) (a : Nat) (b : Bits) (d : Nat) : (s.bump a b d).threads = s.threads := State.setFld_threads _ _ _ _
@[simp] theorem State.bump_whorls (s : State) (a : Nat) (b : Bits) (d : Nat) : (s.bump a b d).whorls = s.whorls := State.setFld_whorls _ _ _ _
@[simp] theorem State.bump_chans (s : State) (a : Nat) (b : Bits) (d : Nat) : (s.bump a b d).chans = s.chans := State.setFld_chans _ _ _ _
@[simp] theorem State.bump_xchans (s : State) (a : Nat) (b : Bits) (d : Nat) : (s.bump a b d).xchans = s.xchans := State.setFld_xchans _ _ _ _
@[simp] theorem State.bump_escq (s : State) (a : Nat) (b : Bits) (d : Nat) : (s.bump a b d).escq = s.escq := State.setFld_escq _ _ _ _
@[simp] theorem State.bump_quietAt (s : State) (a : Nat) (b : Bits) (d : Nat) : (s.bump a b d).quietAt = s.quietAt := State.setFld_quietAt _ _ _ _
@[simp] theorem State.bump_swNow (s : State) (a : Nat) (b : Bits) (d : Nat) : (s.bump a b d).swNow = s.swNow := State.setFld_swNow _ _ _ _
@[simp] theorem State.bump_uev (s : State) (a : Nat) (b : Bits) (d : Nat) : (s.bump a b d).uev = s.uev := State.setFld_uev _ _ _ _
@[simp] theorem State.bump_free (s : State) (a : Nat) (b : Bits) (d : Nat) : (s.bump a b d).free = s.free := State.setFld_free _ _ _ _
@[simp] theorem State.bump_tb (s : State) (a : Nat) (b : Bits) (d : Nat) : (s.bump a b d).tb = s.tb := State.setFld_tb _ _ _ _
@[simp] theorem State.bump_shadow (s : State) (a : Nat) (b : Bits) (d : Nat) : (s.bump a b d).shadow = s.shadow := State.setFld_shadow _ _ _ _
@[simp] theorem State.bump_pulses (s : State) (a : Nat) (b : Bits) (d : Nat) : (s.bump a b d).pulses = s.pulses := State.setFld_pulses _ _ _ _
@[simp] theorem State.bump_trcThread (s : State) (a : Nat) (b : Bits) (d : Nat) : (s.bump a b d).trcThread = s.trcThread := State.setFld_trcThread _ _ _ _
@[simp] theorem State.bump_trace (s : State) (a : Nat) (b : Bits) (d : Nat) : (s.bump a b d).trace = s.trace := State.setFld_trace _ _ _ _
@[simp] theorem State.bump_hap (s : State) (a : Nat) (b : Bits) (d : Nat) : (s.bump a b d).hap = s.hap := State.setFld_hap _ _ _ _
@[simp] theorem State.bump_hrspOut (s : State) (a : Nat) (b : Bits) (d : Nat) : (s.bump a b d).hrspOut = s.hrspOut := State.setFld_hrspOut _ _ _ _
@[simp] theorem State.bump_dreqOut (s : State) (a : Nat) (b : Bits) (d : Nat) : (s.bump a b d).dreqOut = s.dreqOut := State.setFld_dreqOut _ _ _ _
@[simp] theorem State.bump_bobV (s : State) (a : Nat) (b : Bits) (d : Nat) : (s.bump a b d).bobV = s.bobV := State.setFld_bobV _ _ _ _
@[simp] theorem State.bump_bobDyn (s : State) (a : Nat) (b : Bits) (d : Nat) : (s.bump a b d).bobDyn = s.bobDyn := State.setFld_bobDyn _ _ _ _
@[simp] theorem State.bump_bobFree (s : State) (a : Nat) (b : Bits) (d : Nat) : (s.bump a b d).bobFree = s.bobFree := State.setFld_bobFree _ _ _ _
@[simp] theorem State.bump_lwins (s : State) (a : Nat) (b : Bits) (d : Nat) : (s.bump a b d).lwins = s.lwins := State.setFld_lwins _ _ _ _
@[simp] theorem State.bump_slipWait (s : State) (a : Nat) (b : Bits) (d : Nat) : (s.bump a b d).slipWait = s.slipWait := State.setFld_slipWait _ _ _ _
@[simp] theorem State.bump_ports (s : State) (a : Nat) (b : Bits) (d : Nat) : (s.bump a b d).ports = s.ports := State.setFld_ports _ _ _ _
@[simp] theorem State.bump_txq (s : State) (a : Nat) (b : Bits) (d : Nat) : (s.bump a b d).txq = s.txq := State.setFld_txq _ _ _ _
@[simp] theorem State.bump_sends (s : State) (a : Nat) (b : Bits) (d : Nat) : (s.bump a b d).sends = s.sends := State.setFld_sends _ _ _ _
@[simp] theorem State.bump_msgids (s : State) (a : Nat) (b : Bits) (d : Nat) : (s.bump a b d).msgids = s.msgids := State.setFld_msgids _ _ _ _
@[simp] theorem State.bump_rtePend (s : State) (a : Nat) (b : Bits) (d : Nat) : (s.bump a b d).rtePend = s.rtePend := State.setFld_rtePend _ _ _ _
@[simp] theorem State.bump_srcs (s : State) (a : Nat) (b : Bits) (d : Nat) : (s.bump a b d).srcs = s.srcs := State.setFld_srcs _ _ _ _
@[simp] theorem State.bump_ctxs (s : State) (a : Nat) (b : Bits) (d : Nat) : (s.bump a b d).ctxs = s.ctxs := State.setFld_ctxs _ _ _ _
@[simp] theorem State.bump_ackIn (s : State) (a : Nat) (b : Bits) (d : Nat) : (s.bump a b d).ackIn = s.ackIn := State.setFld_ackIn _ _ _ _
@[simp] theorem State.bump_sknIn (s : State) (a : Nat) (b : Bits) (d : Nat) : (s.bump a b d).sknIn = s.sknIn := State.setFld_sknIn _ _ _ _
@[simp] theorem State.bump_drafts (s : State) (a : Nat) (b : Bits) (d : Nat) : (s.bump a b d).drafts = s.drafts := State.setFld_drafts _ _ _ _
@[simp] theorem State.bump_plys (s : State) (a : Nat) (b : Bits) (d : Nat) : (s.bump a b d).plys = s.plys := State.setFld_plys _ _ _ _
@[simp] theorem State.bump_skns (s : State) (a : Nat) (b : Bits) (d : Nat) : (s.bump a b d).skns = s.skns := State.setFld_skns _ _ _ _
@[simp] theorem State.bump_incNew (s : State) (a : Nat) (b : Bits) (d : Nat) : (s.bump a b d).incNew = s.incNew := State.setFld_incNew _ _ _ _
@[simp] theorem State.bump_stepNew (s : State) (a : Nat) (b : Bits) (d : Nat) : (s.bump a b d).stepNew = s.stepNew := State.setFld_stepNew _ _ _ _
@[simp] theorem State.bump_reelArm (s : State) (a : Nat) (b : Bits) (d : Nat) : (s.bump a b d).reelArm = s.reelArm := State.setFld_reelArm _ _ _ _
@[simp] theorem State.bump_inc (s : State) (a : Nat) (b : Bits) (d : Nat) : (s.bump a b d).inc = s.inc := State.setFld_inc _ _ _ _
@[simp] theorem State.bump_slew (s : State) (a : Nat) (b : Bits) (d : Nat) : (s.bump a b d).slew = s.slew := State.setFld_slew _ _ _ _
@[simp] theorem State.bump_schLate (s : State) (a : Nat) (b : Bits) (d : Nat) : (s.bump a b d).schLate = s.schLate := State.setFld_schLate _ _ _ _
@[simp] theorem State.bump_rclk (s : State) (a : Nat) (b : Bits) (d : Nat) : (s.bump a b d).rclk = s.rclk := State.setFld_rclk _ _ _ _
@[simp] theorem State.bump_aonOld (s : State) (a : Nat) (b : Bits) (d : Nat) : (s.bump a b d).aonOld = s.aonOld := State.setFld_aonOld _ _ _ _
@[simp] theorem State.bump_tcons (s : State) (a : Nat) (b : Bits) (d : Nat) : (s.bump a b d).tcons = s.tcons := State.setFld_tcons _ _ _ _
@[simp] theorem State.bump_capWait (s : State) (a : Nat) (b : Bits) (d : Nat) : (s.bump a b d).capWait = s.capWait := State.setFld_capWait _ _ _ _
@[simp] theorem State.bump_pins (s : State) (a : Nat) (b : Bits) (d : Nat) : (s.bump a b d).pins = s.pins := State.setFld_pins _ _ _ _
@[simp] theorem State.bump_lx (s : State) (a : Nat) (b : Bits) (d : Nat) : (s.bump a b d).lx = s.lx := State.setFld_lx _ _ _ _
@[simp] theorem State.bump_sleepIn (s : State) (a : Nat) (b : Bits) (d : Nat) : (s.bump a b d).sleepIn = s.sleepIn := State.setFld_sleepIn _ _ _ _
@[simp] theorem State.bump_slotKeys (s : State) (a : Nat) (b : Bits) (d : Nat) : (s.bump a b d).slotKeys = s.slotKeys := State.setFld_slotKeys _ _ _ _
@[simp] theorem State.bump_secq (s : State) (a : Nat) (b : Bits) (d : Nat) : (s.bump a b d).secq = s.secq := State.setFld_secq _ _ _ _
@[simp] theorem State.bump_secLast (s : State) (a : Nat) (b : Bits) (d : Nat) : (s.bump a b d).secLast = s.secLast := State.setFld_secLast _ _ _ _
@[simp] theorem State.bump_keyStore (s : State) (a : Nat) (b : Bits) (d : Nat) : (s.bump a b d).keyStore = s.keyStore := State.setFld_keyStore _ _ _ _
@[simp] theorem State.bump_sessions (s : State) (a : Nat) (b : Bits) (d : Nat) : (s.bump a b d).sessions = s.sessions := State.setFld_sessions _ _ _ _
@[simp] theorem State.bump_sids (s : State) (a : Nat) (b : Bits) (d : Nat) : (s.bump a b d).sids = s.sids := State.setFld_sids _ _ _ _
@[simp] theorem State.bump_chal (s : State) (a : Nat) (b : Bits) (d : Nat) : (s.bump a b d).chal = s.chal := State.setFld_chal _ _ _ _
@[simp] theorem State.bump_bootKem (s : State) (a : Nat) (b : Bits) (d : Nat) : (s.bump a b d).bootKem = s.bootKem := State.setFld_bootKem _ _ _ _
@[simp] theorem State.bump_openBad (s : State) (a : Nat) (b : Bits) (d : Nat) : (s.bump a b d).openBad = s.openBad := State.setFld_openBad _ _ _ _
@[simp] theorem State.bump_openBar (s : State) (a : Nat) (b : Bits) (d : Nat) : (s.bump a b d).openBar = s.openBar := State.setFld_openBar _ _ _ _
@[simp] theorem State.bump_taken (s : State) (a : Nat) (b : Bits) (d : Nat) : (s.bump a b d).taken = s.taken := State.setFld_taken _ _ _ _
@[simp] theorem State.bump_resp (s : State) (a : Nat) (b : Bits) (d : Nat) : (s.bump a b d).resp = s.resp := State.setFld_resp _ _ _ _
@[simp] theorem State.bump_authAt (s : State) (a : Nat) (b : Bits) (d : Nat) : (s.bump a b d).authAt = s.authAt := State.setFld_authAt _ _ _ _
@[simp] theorem State.bump_authCnt (s : State) (a : Nat) (b : Bits) (d : Nat) : (s.bump a b d).authCnt = s.authCnt := State.setFld_authCnt _ _ _ _
@[simp] theorem State.bump_meas (s : State) (a : Nat) (b : Bits) (d : Nat) : (s.bump a b d).meas = s.meas := State.setFld_meas _ _ _ _
@[simp] theorem State.bump_lists (s : State) (a : Nat) (b : Bits) (d : Nat) : (s.bump a b d).lists = s.lists := State.setFld_lists _ _ _ _
@[simp] theorem State.bump_fwSvn (s : State) (a : Nat) (b : Bits) (d : Nat) : (s.bump a b d).fwSvn = s.fwSvn := State.setFld_fwSvn _ _ _ _
@[simp] theorem State.bump_imgHash (s : State) (a : Nat) (b : Bits) (d : Nat) : (s.bump a b d).imgHash = s.imgHash := State.setFld_imgHash _ _ _ _
@[simp] theorem State.bump_instKeys (s : State) (a : Nat) (b : Bits) (d : Nat) : (s.bump a b d).instKeys = s.instKeys := State.setFld_instKeys _ _ _ _
@[simp] theorem State.bump_instGone (s : State) (a : Nat) (b : Bits) (d : Nat) : (s.bump a b d).instGone = s.instGone := State.setFld_instGone _ _ _ _
@[simp] theorem State.bump_otp (s : State) (a : Nat) (b : Bits) (d : Nat) : (s.bump a b d).otp = s.otp := State.setFld_otp _ _ _ _
@[simp] theorem State.bump_vppOk (s : State) (a : Nat) (b : Bits) (d : Nat) : (s.bump a b d).vppOk = s.vppOk := State.setFld_vppOk _ _ _ _
@[simp] theorem State.bump_bootsDue (s : State) (a : Nat) (b : Bits) (d : Nat) : (s.bump a b d).bootsDue = s.bootsDue := State.setFld_bootsDue _ _ _ _
@[simp] theorem State.bump_audFirst (s : State) (a : Nat) (b : Bits) (d : Nat) : (s.bump a b d).audFirst = s.audFirst := State.setFld_audFirst _ _ _ _
@[simp] theorem State.bump_audDue (s : State) (a : Nat) (b : Bits) (d : Nat) : (s.bump a b d).audDue = s.audDue := State.setFld_audDue _ _ _ _
@[simp] theorem State.bump_dbg (s : State) (a : Nat) (b : Bits) (d : Nat) : (s.bump a b d).dbg = s.dbg := State.setFld_dbg _ _ _ _
@[simp] theorem State.bump_started (s : State) (a : Nat) (b : Bits) (d : Nat) : (s.bump a b d).started = s.started := State.setFld_started _ _ _ _
@[simp] theorem State.bump_rstCmd (s : State) (a : Nat) (b : Bits) (d : Nat) : (s.bump a b d).rstCmd = s.rstCmd := State.setFld_rstCmd _ _ _ _
@[simp] theorem State.bump_romAt (s : State) (a : Nat) (b : Bits) (d : Nat) : (s.bump a b d).romAt = s.romAt := State.setFld_romAt _ _ _ _
@[simp] theorem State.bump_recovLow (s : State) (a : Nat) (b : Bits) (d : Nat) : (s.bump a b d).recovLow = s.recovLow := State.setFld_recovLow _ _ _ _
@[simp] theorem State.bump_recov (s : State) (a : Nat) (b : Bits) (d : Nat) : (s.bump a b d).recov = s.recov := State.setFld_recov _ _ _ _
@[simp] theorem State.bump_supplies (s : State) (a : Nat) (b : Bits) (d : Nat) : (s.bump a b d).supplies = s.supplies := State.setFld_supplies _ _ _ _
@[simp] theorem State.bump_wdiv (s : State) (a : Nat) (b : Bits) (d : Nat) : (s.bump a b d).wdiv = s.wdiv := State.setFld_wdiv _ _ _ _
@[simp] theorem State.bump_toRun (s : State) (a : Nat) (b : Bits) (d : Nat) : (s.bump a b d).toRun = s.toRun := State.setFld_toRun _ _ _ _
@[simp] theorem State.bump_cxpOut (s : State) (a : Nat) (b : Bits) (d : Nat) : (s.bump a b d).cxpOut = s.cxpOut := State.setFld_cxpOut _ _ _ _
@[simp] theorem State.bump_irqBy (s : State) (a : Nat) (b : Bits) (d : Nat) : (s.bump a b d).irqBy = s.irqBy := State.setFld_irqBy _ _ _ _

@[simp] theorem State.count_pending (s : State) (a : Nat) (b : Bits) (d : Nat) : (s.count a b d).pending = s.pending := State.setFld_pending _ _ _ _
@[simp] theorem State.count_cycle (s : State) (a : Nat) (b : Bits) (d : Nat) : (s.count a b d).cycle = s.cycle := State.setFld_cycle _ _ _ _
@[simp] theorem State.count_mem (s : State) (a : Nat) (b : Bits) (d : Nat) : (s.count a b d).mem = s.mem := State.setFld_mem _ _ _ _
@[simp] theorem State.count_syn (s : State) (a : Nat) (b : Bits) (d : Nat) : (s.count a b d).syn = s.syn := State.setFld_syn _ _ _ _
@[simp] theorem State.count_threads (s : State) (a : Nat) (b : Bits) (d : Nat) : (s.count a b d).threads = s.threads := State.setFld_threads _ _ _ _
@[simp] theorem State.count_whorls (s : State) (a : Nat) (b : Bits) (d : Nat) : (s.count a b d).whorls = s.whorls := State.setFld_whorls _ _ _ _
@[simp] theorem State.count_chans (s : State) (a : Nat) (b : Bits) (d : Nat) : (s.count a b d).chans = s.chans := State.setFld_chans _ _ _ _
@[simp] theorem State.count_xchans (s : State) (a : Nat) (b : Bits) (d : Nat) : (s.count a b d).xchans = s.xchans := State.setFld_xchans _ _ _ _
@[simp] theorem State.count_escq (s : State) (a : Nat) (b : Bits) (d : Nat) : (s.count a b d).escq = s.escq := State.setFld_escq _ _ _ _
@[simp] theorem State.count_quietAt (s : State) (a : Nat) (b : Bits) (d : Nat) : (s.count a b d).quietAt = s.quietAt := State.setFld_quietAt _ _ _ _
@[simp] theorem State.count_swNow (s : State) (a : Nat) (b : Bits) (d : Nat) : (s.count a b d).swNow = s.swNow := State.setFld_swNow _ _ _ _
@[simp] theorem State.count_uev (s : State) (a : Nat) (b : Bits) (d : Nat) : (s.count a b d).uev = s.uev := State.setFld_uev _ _ _ _
@[simp] theorem State.count_free (s : State) (a : Nat) (b : Bits) (d : Nat) : (s.count a b d).free = s.free := State.setFld_free _ _ _ _
@[simp] theorem State.count_tb (s : State) (a : Nat) (b : Bits) (d : Nat) : (s.count a b d).tb = s.tb := State.setFld_tb _ _ _ _
@[simp] theorem State.count_shadow (s : State) (a : Nat) (b : Bits) (d : Nat) : (s.count a b d).shadow = s.shadow := State.setFld_shadow _ _ _ _
@[simp] theorem State.count_pulses (s : State) (a : Nat) (b : Bits) (d : Nat) : (s.count a b d).pulses = s.pulses := State.setFld_pulses _ _ _ _
@[simp] theorem State.count_trcThread (s : State) (a : Nat) (b : Bits) (d : Nat) : (s.count a b d).trcThread = s.trcThread := State.setFld_trcThread _ _ _ _
@[simp] theorem State.count_trace (s : State) (a : Nat) (b : Bits) (d : Nat) : (s.count a b d).trace = s.trace := State.setFld_trace _ _ _ _
@[simp] theorem State.count_hap (s : State) (a : Nat) (b : Bits) (d : Nat) : (s.count a b d).hap = s.hap := State.setFld_hap _ _ _ _
@[simp] theorem State.count_hrspOut (s : State) (a : Nat) (b : Bits) (d : Nat) : (s.count a b d).hrspOut = s.hrspOut := State.setFld_hrspOut _ _ _ _
@[simp] theorem State.count_dreqOut (s : State) (a : Nat) (b : Bits) (d : Nat) : (s.count a b d).dreqOut = s.dreqOut := State.setFld_dreqOut _ _ _ _
@[simp] theorem State.count_bobV (s : State) (a : Nat) (b : Bits) (d : Nat) : (s.count a b d).bobV = s.bobV := State.setFld_bobV _ _ _ _
@[simp] theorem State.count_bobDyn (s : State) (a : Nat) (b : Bits) (d : Nat) : (s.count a b d).bobDyn = s.bobDyn := State.setFld_bobDyn _ _ _ _
@[simp] theorem State.count_bobFree (s : State) (a : Nat) (b : Bits) (d : Nat) : (s.count a b d).bobFree = s.bobFree := State.setFld_bobFree _ _ _ _
@[simp] theorem State.count_lwins (s : State) (a : Nat) (b : Bits) (d : Nat) : (s.count a b d).lwins = s.lwins := State.setFld_lwins _ _ _ _
@[simp] theorem State.count_slipWait (s : State) (a : Nat) (b : Bits) (d : Nat) : (s.count a b d).slipWait = s.slipWait := State.setFld_slipWait _ _ _ _
@[simp] theorem State.count_ports (s : State) (a : Nat) (b : Bits) (d : Nat) : (s.count a b d).ports = s.ports := State.setFld_ports _ _ _ _
@[simp] theorem State.count_txq (s : State) (a : Nat) (b : Bits) (d : Nat) : (s.count a b d).txq = s.txq := State.setFld_txq _ _ _ _
@[simp] theorem State.count_sends (s : State) (a : Nat) (b : Bits) (d : Nat) : (s.count a b d).sends = s.sends := State.setFld_sends _ _ _ _
@[simp] theorem State.count_msgids (s : State) (a : Nat) (b : Bits) (d : Nat) : (s.count a b d).msgids = s.msgids := State.setFld_msgids _ _ _ _
@[simp] theorem State.count_rtePend (s : State) (a : Nat) (b : Bits) (d : Nat) : (s.count a b d).rtePend = s.rtePend := State.setFld_rtePend _ _ _ _
@[simp] theorem State.count_srcs (s : State) (a : Nat) (b : Bits) (d : Nat) : (s.count a b d).srcs = s.srcs := State.setFld_srcs _ _ _ _
@[simp] theorem State.count_ctxs (s : State) (a : Nat) (b : Bits) (d : Nat) : (s.count a b d).ctxs = s.ctxs := State.setFld_ctxs _ _ _ _
@[simp] theorem State.count_ackIn (s : State) (a : Nat) (b : Bits) (d : Nat) : (s.count a b d).ackIn = s.ackIn := State.setFld_ackIn _ _ _ _
@[simp] theorem State.count_sknIn (s : State) (a : Nat) (b : Bits) (d : Nat) : (s.count a b d).sknIn = s.sknIn := State.setFld_sknIn _ _ _ _
@[simp] theorem State.count_drafts (s : State) (a : Nat) (b : Bits) (d : Nat) : (s.count a b d).drafts = s.drafts := State.setFld_drafts _ _ _ _
@[simp] theorem State.count_plys (s : State) (a : Nat) (b : Bits) (d : Nat) : (s.count a b d).plys = s.plys := State.setFld_plys _ _ _ _
@[simp] theorem State.count_skns (s : State) (a : Nat) (b : Bits) (d : Nat) : (s.count a b d).skns = s.skns := State.setFld_skns _ _ _ _
@[simp] theorem State.count_incNew (s : State) (a : Nat) (b : Bits) (d : Nat) : (s.count a b d).incNew = s.incNew := State.setFld_incNew _ _ _ _
@[simp] theorem State.count_stepNew (s : State) (a : Nat) (b : Bits) (d : Nat) : (s.count a b d).stepNew = s.stepNew := State.setFld_stepNew _ _ _ _
@[simp] theorem State.count_reelArm (s : State) (a : Nat) (b : Bits) (d : Nat) : (s.count a b d).reelArm = s.reelArm := State.setFld_reelArm _ _ _ _
@[simp] theorem State.count_inc (s : State) (a : Nat) (b : Bits) (d : Nat) : (s.count a b d).inc = s.inc := State.setFld_inc _ _ _ _
@[simp] theorem State.count_slew (s : State) (a : Nat) (b : Bits) (d : Nat) : (s.count a b d).slew = s.slew := State.setFld_slew _ _ _ _
@[simp] theorem State.count_schLate (s : State) (a : Nat) (b : Bits) (d : Nat) : (s.count a b d).schLate = s.schLate := State.setFld_schLate _ _ _ _
@[simp] theorem State.count_rclk (s : State) (a : Nat) (b : Bits) (d : Nat) : (s.count a b d).rclk = s.rclk := State.setFld_rclk _ _ _ _
@[simp] theorem State.count_aonOld (s : State) (a : Nat) (b : Bits) (d : Nat) : (s.count a b d).aonOld = s.aonOld := State.setFld_aonOld _ _ _ _
@[simp] theorem State.count_tcons (s : State) (a : Nat) (b : Bits) (d : Nat) : (s.count a b d).tcons = s.tcons := State.setFld_tcons _ _ _ _
@[simp] theorem State.count_capWait (s : State) (a : Nat) (b : Bits) (d : Nat) : (s.count a b d).capWait = s.capWait := State.setFld_capWait _ _ _ _
@[simp] theorem State.count_pins (s : State) (a : Nat) (b : Bits) (d : Nat) : (s.count a b d).pins = s.pins := State.setFld_pins _ _ _ _
@[simp] theorem State.count_lx (s : State) (a : Nat) (b : Bits) (d : Nat) : (s.count a b d).lx = s.lx := State.setFld_lx _ _ _ _
@[simp] theorem State.count_sleepIn (s : State) (a : Nat) (b : Bits) (d : Nat) : (s.count a b d).sleepIn = s.sleepIn := State.setFld_sleepIn _ _ _ _
@[simp] theorem State.count_slotKeys (s : State) (a : Nat) (b : Bits) (d : Nat) : (s.count a b d).slotKeys = s.slotKeys := State.setFld_slotKeys _ _ _ _
@[simp] theorem State.count_secq (s : State) (a : Nat) (b : Bits) (d : Nat) : (s.count a b d).secq = s.secq := State.setFld_secq _ _ _ _
@[simp] theorem State.count_secLast (s : State) (a : Nat) (b : Bits) (d : Nat) : (s.count a b d).secLast = s.secLast := State.setFld_secLast _ _ _ _
@[simp] theorem State.count_keyStore (s : State) (a : Nat) (b : Bits) (d : Nat) : (s.count a b d).keyStore = s.keyStore := State.setFld_keyStore _ _ _ _
@[simp] theorem State.count_sessions (s : State) (a : Nat) (b : Bits) (d : Nat) : (s.count a b d).sessions = s.sessions := State.setFld_sessions _ _ _ _
@[simp] theorem State.count_sids (s : State) (a : Nat) (b : Bits) (d : Nat) : (s.count a b d).sids = s.sids := State.setFld_sids _ _ _ _
@[simp] theorem State.count_chal (s : State) (a : Nat) (b : Bits) (d : Nat) : (s.count a b d).chal = s.chal := State.setFld_chal _ _ _ _
@[simp] theorem State.count_bootKem (s : State) (a : Nat) (b : Bits) (d : Nat) : (s.count a b d).bootKem = s.bootKem := State.setFld_bootKem _ _ _ _
@[simp] theorem State.count_openBad (s : State) (a : Nat) (b : Bits) (d : Nat) : (s.count a b d).openBad = s.openBad := State.setFld_openBad _ _ _ _
@[simp] theorem State.count_openBar (s : State) (a : Nat) (b : Bits) (d : Nat) : (s.count a b d).openBar = s.openBar := State.setFld_openBar _ _ _ _
@[simp] theorem State.count_taken (s : State) (a : Nat) (b : Bits) (d : Nat) : (s.count a b d).taken = s.taken := State.setFld_taken _ _ _ _
@[simp] theorem State.count_resp (s : State) (a : Nat) (b : Bits) (d : Nat) : (s.count a b d).resp = s.resp := State.setFld_resp _ _ _ _
@[simp] theorem State.count_authAt (s : State) (a : Nat) (b : Bits) (d : Nat) : (s.count a b d).authAt = s.authAt := State.setFld_authAt _ _ _ _
@[simp] theorem State.count_authCnt (s : State) (a : Nat) (b : Bits) (d : Nat) : (s.count a b d).authCnt = s.authCnt := State.setFld_authCnt _ _ _ _
@[simp] theorem State.count_meas (s : State) (a : Nat) (b : Bits) (d : Nat) : (s.count a b d).meas = s.meas := State.setFld_meas _ _ _ _
@[simp] theorem State.count_lists (s : State) (a : Nat) (b : Bits) (d : Nat) : (s.count a b d).lists = s.lists := State.setFld_lists _ _ _ _
@[simp] theorem State.count_fwSvn (s : State) (a : Nat) (b : Bits) (d : Nat) : (s.count a b d).fwSvn = s.fwSvn := State.setFld_fwSvn _ _ _ _
@[simp] theorem State.count_imgHash (s : State) (a : Nat) (b : Bits) (d : Nat) : (s.count a b d).imgHash = s.imgHash := State.setFld_imgHash _ _ _ _
@[simp] theorem State.count_instKeys (s : State) (a : Nat) (b : Bits) (d : Nat) : (s.count a b d).instKeys = s.instKeys := State.setFld_instKeys _ _ _ _
@[simp] theorem State.count_instGone (s : State) (a : Nat) (b : Bits) (d : Nat) : (s.count a b d).instGone = s.instGone := State.setFld_instGone _ _ _ _
@[simp] theorem State.count_otp (s : State) (a : Nat) (b : Bits) (d : Nat) : (s.count a b d).otp = s.otp := State.setFld_otp _ _ _ _
@[simp] theorem State.count_vppOk (s : State) (a : Nat) (b : Bits) (d : Nat) : (s.count a b d).vppOk = s.vppOk := State.setFld_vppOk _ _ _ _
@[simp] theorem State.count_bootsDue (s : State) (a : Nat) (b : Bits) (d : Nat) : (s.count a b d).bootsDue = s.bootsDue := State.setFld_bootsDue _ _ _ _
@[simp] theorem State.count_audFirst (s : State) (a : Nat) (b : Bits) (d : Nat) : (s.count a b d).audFirst = s.audFirst := State.setFld_audFirst _ _ _ _
@[simp] theorem State.count_audDue (s : State) (a : Nat) (b : Bits) (d : Nat) : (s.count a b d).audDue = s.audDue := State.setFld_audDue _ _ _ _
@[simp] theorem State.count_dbg (s : State) (a : Nat) (b : Bits) (d : Nat) : (s.count a b d).dbg = s.dbg := State.setFld_dbg _ _ _ _
@[simp] theorem State.count_started (s : State) (a : Nat) (b : Bits) (d : Nat) : (s.count a b d).started = s.started := State.setFld_started _ _ _ _
@[simp] theorem State.count_rstCmd (s : State) (a : Nat) (b : Bits) (d : Nat) : (s.count a b d).rstCmd = s.rstCmd := State.setFld_rstCmd _ _ _ _
@[simp] theorem State.count_romAt (s : State) (a : Nat) (b : Bits) (d : Nat) : (s.count a b d).romAt = s.romAt := State.setFld_romAt _ _ _ _
@[simp] theorem State.count_recovLow (s : State) (a : Nat) (b : Bits) (d : Nat) : (s.count a b d).recovLow = s.recovLow := State.setFld_recovLow _ _ _ _
@[simp] theorem State.count_recov (s : State) (a : Nat) (b : Bits) (d : Nat) : (s.count a b d).recov = s.recov := State.setFld_recov _ _ _ _
@[simp] theorem State.count_supplies (s : State) (a : Nat) (b : Bits) (d : Nat) : (s.count a b d).supplies = s.supplies := State.setFld_supplies _ _ _ _
@[simp] theorem State.count_wdiv (s : State) (a : Nat) (b : Bits) (d : Nat) : (s.count a b d).wdiv = s.wdiv := State.setFld_wdiv _ _ _ _
@[simp] theorem State.count_toRun (s : State) (a : Nat) (b : Bits) (d : Nat) : (s.count a b d).toRun = s.toRun := State.setFld_toRun _ _ _ _
@[simp] theorem State.count_cxpOut (s : State) (a : Nat) (b : Bits) (d : Nat) : (s.count a b d).cxpOut = s.cxpOut := State.setFld_cxpOut _ _ _ _
@[simp] theorem State.count_irqBy (s : State) (a : Nat) (b : Bits) (d : Nat) : (s.count a b d).irqBy = s.irqBy := State.setFld_irqBy _ _ _ _

@[simp] theorem State.hwClear_evNow (s : State) (a : Nat) (b : Bits) : (s.hwClear a b).evNow = s.evNow := by
  unfold State.hwClear; split <;> rfl
@[simp] theorem State.hwClear_pending (s : State) (a : Nat) (b : Bits) : (s.hwClear a b).pending = s.pending := by
  unfold State.hwClear; split <;> rfl
@[simp] theorem State.hwClear_cycle (s : State) (a : Nat) (b : Bits) : (s.hwClear a b).cycle = s.cycle := by
  unfold State.hwClear; split <;> rfl
@[simp] theorem State.hwClear_mem (s : State) (a : Nat) (b : Bits) : (s.hwClear a b).mem = s.mem := by
  unfold State.hwClear; split <;> rfl
@[simp] theorem State.hwClear_syn (s : State) (a : Nat) (b : Bits) : (s.hwClear a b).syn = s.syn := by
  unfold State.hwClear; split <;> rfl
@[simp] theorem State.hwClear_threads (s : State) (a : Nat) (b : Bits) : (s.hwClear a b).threads = s.threads := by
  unfold State.hwClear; split <;> rfl
@[simp] theorem State.hwClear_whorls (s : State) (a : Nat) (b : Bits) : (s.hwClear a b).whorls = s.whorls := by
  unfold State.hwClear; split <;> rfl
@[simp] theorem State.hwClear_chans (s : State) (a : Nat) (b : Bits) : (s.hwClear a b).chans = s.chans := by
  unfold State.hwClear; split <;> rfl
@[simp] theorem State.hwClear_xchans (s : State) (a : Nat) (b : Bits) : (s.hwClear a b).xchans = s.xchans := by
  unfold State.hwClear; split <;> rfl
@[simp] theorem State.hwClear_escq (s : State) (a : Nat) (b : Bits) : (s.hwClear a b).escq = s.escq := by
  unfold State.hwClear; split <;> rfl
@[simp] theorem State.hwClear_quietAt (s : State) (a : Nat) (b : Bits) : (s.hwClear a b).quietAt = s.quietAt := by
  unfold State.hwClear; split <;> rfl
@[simp] theorem State.hwClear_swNow (s : State) (a : Nat) (b : Bits) : (s.hwClear a b).swNow = s.swNow := by
  unfold State.hwClear; split <;> rfl
@[simp] theorem State.hwClear_uev (s : State) (a : Nat) (b : Bits) : (s.hwClear a b).uev = s.uev := by
  unfold State.hwClear; split <;> rfl
@[simp] theorem State.hwClear_free (s : State) (a : Nat) (b : Bits) : (s.hwClear a b).free = s.free := by
  unfold State.hwClear; split <;> rfl
@[simp] theorem State.hwClear_tb (s : State) (a : Nat) (b : Bits) : (s.hwClear a b).tb = s.tb := by
  unfold State.hwClear; split <;> rfl
@[simp] theorem State.hwClear_shadow (s : State) (a : Nat) (b : Bits) : (s.hwClear a b).shadow = s.shadow := by
  unfold State.hwClear; split <;> rfl
@[simp] theorem State.hwClear_pulses (s : State) (a : Nat) (b : Bits) : (s.hwClear a b).pulses = s.pulses := by
  unfold State.hwClear; split <;> rfl
@[simp] theorem State.hwClear_trcThread (s : State) (a : Nat) (b : Bits) : (s.hwClear a b).trcThread = s.trcThread := by
  unfold State.hwClear; split <;> rfl
@[simp] theorem State.hwClear_trace (s : State) (a : Nat) (b : Bits) : (s.hwClear a b).trace = s.trace := by
  unfold State.hwClear; split <;> rfl
@[simp] theorem State.hwClear_hap (s : State) (a : Nat) (b : Bits) : (s.hwClear a b).hap = s.hap := by
  unfold State.hwClear; split <;> rfl
@[simp] theorem State.hwClear_hrspOut (s : State) (a : Nat) (b : Bits) : (s.hwClear a b).hrspOut = s.hrspOut := by
  unfold State.hwClear; split <;> rfl
@[simp] theorem State.hwClear_dreqOut (s : State) (a : Nat) (b : Bits) : (s.hwClear a b).dreqOut = s.dreqOut := by
  unfold State.hwClear; split <;> rfl
@[simp] theorem State.hwClear_bobV (s : State) (a : Nat) (b : Bits) : (s.hwClear a b).bobV = s.bobV := by
  unfold State.hwClear; split <;> rfl
@[simp] theorem State.hwClear_bobDyn (s : State) (a : Nat) (b : Bits) : (s.hwClear a b).bobDyn = s.bobDyn := by
  unfold State.hwClear; split <;> rfl
@[simp] theorem State.hwClear_bobFree (s : State) (a : Nat) (b : Bits) : (s.hwClear a b).bobFree = s.bobFree := by
  unfold State.hwClear; split <;> rfl
@[simp] theorem State.hwClear_lwins (s : State) (a : Nat) (b : Bits) : (s.hwClear a b).lwins = s.lwins := by
  unfold State.hwClear; split <;> rfl
@[simp] theorem State.hwClear_slipWait (s : State) (a : Nat) (b : Bits) : (s.hwClear a b).slipWait = s.slipWait := by
  unfold State.hwClear; split <;> rfl
@[simp] theorem State.hwClear_ports (s : State) (a : Nat) (b : Bits) : (s.hwClear a b).ports = s.ports := by
  unfold State.hwClear; split <;> rfl
@[simp] theorem State.hwClear_txq (s : State) (a : Nat) (b : Bits) : (s.hwClear a b).txq = s.txq := by
  unfold State.hwClear; split <;> rfl
@[simp] theorem State.hwClear_sends (s : State) (a : Nat) (b : Bits) : (s.hwClear a b).sends = s.sends := by
  unfold State.hwClear; split <;> rfl
@[simp] theorem State.hwClear_msgids (s : State) (a : Nat) (b : Bits) : (s.hwClear a b).msgids = s.msgids := by
  unfold State.hwClear; split <;> rfl
@[simp] theorem State.hwClear_rtePend (s : State) (a : Nat) (b : Bits) : (s.hwClear a b).rtePend = s.rtePend := by
  unfold State.hwClear; split <;> rfl
@[simp] theorem State.hwClear_srcs (s : State) (a : Nat) (b : Bits) : (s.hwClear a b).srcs = s.srcs := by
  unfold State.hwClear; split <;> rfl
@[simp] theorem State.hwClear_ctxs (s : State) (a : Nat) (b : Bits) : (s.hwClear a b).ctxs = s.ctxs := by
  unfold State.hwClear; split <;> rfl
@[simp] theorem State.hwClear_ackIn (s : State) (a : Nat) (b : Bits) : (s.hwClear a b).ackIn = s.ackIn := by
  unfold State.hwClear; split <;> rfl
@[simp] theorem State.hwClear_sknIn (s : State) (a : Nat) (b : Bits) : (s.hwClear a b).sknIn = s.sknIn := by
  unfold State.hwClear; split <;> rfl
@[simp] theorem State.hwClear_drafts (s : State) (a : Nat) (b : Bits) : (s.hwClear a b).drafts = s.drafts := by
  unfold State.hwClear; split <;> rfl
@[simp] theorem State.hwClear_plys (s : State) (a : Nat) (b : Bits) : (s.hwClear a b).plys = s.plys := by
  unfold State.hwClear; split <;> rfl
@[simp] theorem State.hwClear_skns (s : State) (a : Nat) (b : Bits) : (s.hwClear a b).skns = s.skns := by
  unfold State.hwClear; split <;> rfl
@[simp] theorem State.hwClear_incNew (s : State) (a : Nat) (b : Bits) : (s.hwClear a b).incNew = s.incNew := by
  unfold State.hwClear; split <;> rfl
@[simp] theorem State.hwClear_stepNew (s : State) (a : Nat) (b : Bits) : (s.hwClear a b).stepNew = s.stepNew := by
  unfold State.hwClear; split <;> rfl
@[simp] theorem State.hwClear_reelArm (s : State) (a : Nat) (b : Bits) : (s.hwClear a b).reelArm = s.reelArm := by
  unfold State.hwClear; split <;> rfl
@[simp] theorem State.hwClear_inc (s : State) (a : Nat) (b : Bits) : (s.hwClear a b).inc = s.inc := by
  unfold State.hwClear; split <;> rfl
@[simp] theorem State.hwClear_slew (s : State) (a : Nat) (b : Bits) : (s.hwClear a b).slew = s.slew := by
  unfold State.hwClear; split <;> rfl
@[simp] theorem State.hwClear_schLate (s : State) (a : Nat) (b : Bits) : (s.hwClear a b).schLate = s.schLate := by
  unfold State.hwClear; split <;> rfl
@[simp] theorem State.hwClear_rclk (s : State) (a : Nat) (b : Bits) : (s.hwClear a b).rclk = s.rclk := by
  unfold State.hwClear; split <;> rfl
@[simp] theorem State.hwClear_aonOld (s : State) (a : Nat) (b : Bits) : (s.hwClear a b).aonOld = s.aonOld := by
  unfold State.hwClear; split <;> rfl
@[simp] theorem State.hwClear_tcons (s : State) (a : Nat) (b : Bits) : (s.hwClear a b).tcons = s.tcons := by
  unfold State.hwClear; split <;> rfl
@[simp] theorem State.hwClear_capWait (s : State) (a : Nat) (b : Bits) : (s.hwClear a b).capWait = s.capWait := by
  unfold State.hwClear; split <;> rfl
@[simp] theorem State.hwClear_pins (s : State) (a : Nat) (b : Bits) : (s.hwClear a b).pins = s.pins := by
  unfold State.hwClear; split <;> rfl
@[simp] theorem State.hwClear_lx (s : State) (a : Nat) (b : Bits) : (s.hwClear a b).lx = s.lx := by
  unfold State.hwClear; split <;> rfl
@[simp] theorem State.hwClear_sleepIn (s : State) (a : Nat) (b : Bits) : (s.hwClear a b).sleepIn = s.sleepIn := by
  unfold State.hwClear; split <;> rfl
@[simp] theorem State.hwClear_slotKeys (s : State) (a : Nat) (b : Bits) : (s.hwClear a b).slotKeys = s.slotKeys := by
  unfold State.hwClear; split <;> rfl
@[simp] theorem State.hwClear_secq (s : State) (a : Nat) (b : Bits) : (s.hwClear a b).secq = s.secq := by
  unfold State.hwClear; split <;> rfl
@[simp] theorem State.hwClear_secLast (s : State) (a : Nat) (b : Bits) : (s.hwClear a b).secLast = s.secLast := by
  unfold State.hwClear; split <;> rfl
@[simp] theorem State.hwClear_keyStore (s : State) (a : Nat) (b : Bits) : (s.hwClear a b).keyStore = s.keyStore := by
  unfold State.hwClear; split <;> rfl
@[simp] theorem State.hwClear_sessions (s : State) (a : Nat) (b : Bits) : (s.hwClear a b).sessions = s.sessions := by
  unfold State.hwClear; split <;> rfl
@[simp] theorem State.hwClear_sids (s : State) (a : Nat) (b : Bits) : (s.hwClear a b).sids = s.sids := by
  unfold State.hwClear; split <;> rfl
@[simp] theorem State.hwClear_chal (s : State) (a : Nat) (b : Bits) : (s.hwClear a b).chal = s.chal := by
  unfold State.hwClear; split <;> rfl
@[simp] theorem State.hwClear_bootKem (s : State) (a : Nat) (b : Bits) : (s.hwClear a b).bootKem = s.bootKem := by
  unfold State.hwClear; split <;> rfl
@[simp] theorem State.hwClear_openBad (s : State) (a : Nat) (b : Bits) : (s.hwClear a b).openBad = s.openBad := by
  unfold State.hwClear; split <;> rfl
@[simp] theorem State.hwClear_openBar (s : State) (a : Nat) (b : Bits) : (s.hwClear a b).openBar = s.openBar := by
  unfold State.hwClear; split <;> rfl
@[simp] theorem State.hwClear_taken (s : State) (a : Nat) (b : Bits) : (s.hwClear a b).taken = s.taken := by
  unfold State.hwClear; split <;> rfl
@[simp] theorem State.hwClear_resp (s : State) (a : Nat) (b : Bits) : (s.hwClear a b).resp = s.resp := by
  unfold State.hwClear; split <;> rfl
@[simp] theorem State.hwClear_authAt (s : State) (a : Nat) (b : Bits) : (s.hwClear a b).authAt = s.authAt := by
  unfold State.hwClear; split <;> rfl
@[simp] theorem State.hwClear_authCnt (s : State) (a : Nat) (b : Bits) : (s.hwClear a b).authCnt = s.authCnt := by
  unfold State.hwClear; split <;> rfl
@[simp] theorem State.hwClear_meas (s : State) (a : Nat) (b : Bits) : (s.hwClear a b).meas = s.meas := by
  unfold State.hwClear; split <;> rfl
@[simp] theorem State.hwClear_lists (s : State) (a : Nat) (b : Bits) : (s.hwClear a b).lists = s.lists := by
  unfold State.hwClear; split <;> rfl
@[simp] theorem State.hwClear_fwSvn (s : State) (a : Nat) (b : Bits) : (s.hwClear a b).fwSvn = s.fwSvn := by
  unfold State.hwClear; split <;> rfl
@[simp] theorem State.hwClear_imgHash (s : State) (a : Nat) (b : Bits) : (s.hwClear a b).imgHash = s.imgHash := by
  unfold State.hwClear; split <;> rfl
@[simp] theorem State.hwClear_instKeys (s : State) (a : Nat) (b : Bits) : (s.hwClear a b).instKeys = s.instKeys := by
  unfold State.hwClear; split <;> rfl
@[simp] theorem State.hwClear_instGone (s : State) (a : Nat) (b : Bits) : (s.hwClear a b).instGone = s.instGone := by
  unfold State.hwClear; split <;> rfl
@[simp] theorem State.hwClear_otp (s : State) (a : Nat) (b : Bits) : (s.hwClear a b).otp = s.otp := by
  unfold State.hwClear; split <;> rfl
@[simp] theorem State.hwClear_vppOk (s : State) (a : Nat) (b : Bits) : (s.hwClear a b).vppOk = s.vppOk := by
  unfold State.hwClear; split <;> rfl
@[simp] theorem State.hwClear_bootsDue (s : State) (a : Nat) (b : Bits) : (s.hwClear a b).bootsDue = s.bootsDue := by
  unfold State.hwClear; split <;> rfl
@[simp] theorem State.hwClear_audFirst (s : State) (a : Nat) (b : Bits) : (s.hwClear a b).audFirst = s.audFirst := by
  unfold State.hwClear; split <;> rfl
@[simp] theorem State.hwClear_audDue (s : State) (a : Nat) (b : Bits) : (s.hwClear a b).audDue = s.audDue := by
  unfold State.hwClear; split <;> rfl
@[simp] theorem State.hwClear_dbg (s : State) (a : Nat) (b : Bits) : (s.hwClear a b).dbg = s.dbg := by
  unfold State.hwClear; split <;> rfl
@[simp] theorem State.hwClear_started (s : State) (a : Nat) (b : Bits) : (s.hwClear a b).started = s.started := by
  unfold State.hwClear; split <;> rfl
@[simp] theorem State.hwClear_rstCmd (s : State) (a : Nat) (b : Bits) : (s.hwClear a b).rstCmd = s.rstCmd := by
  unfold State.hwClear; split <;> rfl
@[simp] theorem State.hwClear_romAt (s : State) (a : Nat) (b : Bits) : (s.hwClear a b).romAt = s.romAt := by
  unfold State.hwClear; split <;> rfl
@[simp] theorem State.hwClear_recovLow (s : State) (a : Nat) (b : Bits) : (s.hwClear a b).recovLow = s.recovLow := by
  unfold State.hwClear; split <;> rfl
@[simp] theorem State.hwClear_recov (s : State) (a : Nat) (b : Bits) : (s.hwClear a b).recov = s.recov := by
  unfold State.hwClear; split <;> rfl
@[simp] theorem State.hwClear_supplies (s : State) (a : Nat) (b : Bits) : (s.hwClear a b).supplies = s.supplies := by
  unfold State.hwClear; split <;> rfl
@[simp] theorem State.hwClear_wdiv (s : State) (a : Nat) (b : Bits) : (s.hwClear a b).wdiv = s.wdiv := by
  unfold State.hwClear; split <;> rfl
@[simp] theorem State.hwClear_toRun (s : State) (a : Nat) (b : Bits) : (s.hwClear a b).toRun = s.toRun := by
  unfold State.hwClear; split <;> rfl
@[simp] theorem State.hwClear_cxpOut (s : State) (a : Nat) (b : Bits) : (s.hwClear a b).cxpOut = s.cxpOut := by
  unfold State.hwClear; split <;> rfl
@[simp] theorem State.hwClear_irqBy (s : State) (a : Nat) (b : Bits) : (s.hwClear a b).irqBy = s.irqBy := by
  unfold State.hwClear; split <;> rfl

/-- A register read after a register is set. -/
theorem State.rd_wr (s : State) (a b : Nat) (w : Word) : (s.wr a w).rd b = if b = a then w else s.rd b :=
  tget_tset resetWord s.regs a b w
@[simp] theorem State.rd_wr_self (s : State) (a : Nat) (w : Word) : (s.wr a w).rd a = w := by simp [State.rd_wr]
theorem State.rd_wr_ne (s : State) {a b : Nat} (w : Word) (h : b ≠ a) : (s.wr a w).rd b = s.rd b := by simp [State.rd_wr, h]

/-- A thread read after a thread is set. -/
theorem State.thr_setThr (s : State) (g h : Nat) (x : Thread) : (s.setThr g x).thr h = if h = g then x else s.thr h :=
  tget_tset _ s.threads g h x
@[simp] theorem State.thr_setThr_self (s : State) (g : Nat) (x : Thread) : (s.setThr g x).thr g = x := by
  simp [State.thr_setThr]
theorem State.thr_setThr_ne (s : State) {g h : Nat} (x : Thread) (e : h ≠ g) : (s.setThr g x).thr h = s.thr h := by
  simp [State.thr_setThr, e]
@[simp] theorem State.thr_modThr_self (s : State) (g : Nat) (f : Thread → Thread) : (s.modThr g f).thr g = f (s.thr g) := by
  simp [State.modThr]
theorem State.thr_modThr_ne (s : State) {g h : Nat} (f : Thread → Thread) (e : h ≠ g) : (s.modThr g f).thr h = s.thr h :=
  s.thr_setThr_ne _ e
@[simp] theorem State.thr_wr (s : State) (a : Nat) (w : Word) (g : Nat) : (s.wr a w).thr g = s.thr g := rfl
@[simp] theorem State.rd_setThr (s : State) (g : Nat) (x : Thread) (a : Nat) : (s.setThr g x).rd a = s.rd a := rfl
@[simp] theorem State.rd_modThr (s : State) (g : Nat) (f : Thread → Thread) (a : Nat) : (s.modThr g f).rd a = s.rd a := rfl

/-- A whorl read after a whorl is changed. -/
theorem State.whl_modWhl (s : State) (n m : Nat) (f : Whorl → Whorl) :
    (s.modWhl n f).whl m = if m = n then f (s.whl n) else s.whl m := tget_tset _ s.whorls n m _
/-- A port read after a port is changed. -/
theorem State.port_modPort (s : State) (p q : Nat) (f : Port → Port) :
    (s.modPort p f).port q = if q = p then f (s.port p) else s.port q := tget_tset _ s.ports p q _
/-- A draft engine read after one is changed. -/
theorem State.drf_modDrf (s : State) (e k : Nat) (f : Draft → Draft) :
    (s.modDrf e f).drf k = if k = e then f (s.drf e) else s.drf k := tget_tset _ s.drafts e k _

end Sys2Proof.Machine
end

