-- ==== Sys2Proof/Laws/Memory.lean ====
section
/-! SUPPORT. Laws of memory: every memory operation keeps the canonical form, and what a byte reads as after a write. -/

namespace Sys2Proof.Machine

/-- A byte read after a byte is stored. -/
theorem memByte_memPut (m : List Host.Cell) (a b : Nat) (x : Byte) :
    memByte (memPut m a x) b = if b = a then x else memByte m b := tget_tput _ m a b x

/-- A byte outside the bytes stored reads as before. -/
theorem memByte_memPuts_out (d : List Byte) : ∀ (m : List Host.Cell) (a b : Nat), (b < a ∨ a + d.length ≤ b) →
    memByte (memPuts m a d) b = memByte m b := by
  induction d with
  | nil => intros; rfl
  | cons x r ih =>
    intro m a b h
    simp only [List.length_cons] at h
    rw [memPuts, ih _ _ _ (by omega), memByte_memPut, if_neg (by omega)]

/-- A byte among those stored reads as stored. -/
theorem memByte_memPuts_in (d : List Byte) : ∀ (m : List Host.Cell) (a i : Nat) (h : i < d.length),
    memByte (memPuts m a d) (a + i) = d[i] := by
  induction d with
  | nil => intro _ _ _ h; simp at h
  | cons x r ih =>
    intro m a i h
    cases i with
    | zero => rw [memPuts, memByte_memPuts_out _ _ _ _ (by omega), memByte_memPut]; simp
    | succ i =>
      rw [memPuts, show a + (i + 1) = a + 1 + i by omega, ih _ _ _ (by simpa using h)]
      simp

/-- Storing a byte keeps the canonical form. -/
theorem memPut_wf {m : List Host.Cell} (a : Nat) (x : Byte) (h : Memory.wf m = true) : Memory.wf (memPut m a x) = true :=
  twf_tput _ m a x h

/-- Storing bytes keeps the canonical form. -/
theorem memPuts_wf (d : List Byte) : ∀ {m : List Host.Cell} (a : Nat), Memory.wf m = true → Memory.wf (memPuts m a d) = true := by
  induction d with
  | nil => intro m a h; exact h
  | cons x r ih => intro m a h; exact ih _ (memPut_wf a x h)

/-- A fold whose steps leave memory as it is does so too. -/
theorem foldl_mem {α : Type} (f : State → α → State) (h : ∀ s x, (f s x).mem = s.mem) (l : List α) (s : State) :
    (l.foldl f s).mem = s.mem := by
  induction l generalizing s with
  | nil => rfl
  | cons x r ih => rw [List.foldl_cons, ih, h]

/-- A fold whose steps keep the canonical form does so too. -/
theorem foldl_wf {α : Type} (f : State → α → State) (h : ∀ s x, Memory.wf s.mem = true → Memory.wf (f s x).mem = true)
    (l : List α) (s : State) (hs : Memory.wf s.mem = true) : Memory.wf (l.foldl f s).mem = true := by
  induction l generalizing s with
  | nil => exact hs
  | cons x r ih => exact ih _ (h s x hs)

theorem setCapt_mem (s : State) (a : Nat) (b : Bits) (v : Nat) : (s.setCapt a b v).mem = s.mem := by
  unfold State.setCapt; split <;> simp

theorem ite_mem {c : Prop} [Decidable c] {a b : State} (m : List Host.Cell) (ha : a.mem = m) (hb : b.mem = m) :
    (if c then a else b).mem = m := by split <;> assumption

/-- A producer's emission leaves memory as it is. -/
theorem fireProd_mem (s : State) (p : Nat) : (s.fireProd p).mem = s.mem := by
  have pulse : ∀ s : State, (s.groupPulse p).mem = s.mem := fun s => by
    unfold State.groupPulse
    refine foldl_mem _ (fun s g => ?_) _ _
    dsimp only
    repeat' split
    all_goals first | exact setCapt_mem _ _ _ _ | rfl
  unfold State.fireProd
  dsimp only
  rw [pulse]
  split <;> simp

/-- So do the records of a correctable and of an uncorrectable error. -/
theorem logCE_mem (s : State) (wb : Nat) : (s.logCE wb).mem = s.mem :=
  (State.setFld_mem _ _ _ _).trans (State.bump_mem _ _ _ _)
theorem logUE_mem (s : State) (m wb : Nat) : (s.logUE m wb).mem = s.mem := by
  have count : (s.bump addrMemEccst fldMemEccst_UECNT).mem = s.mem := State.bump_mem _ _ _ _
  have cons : ∀ t : State, (((t.setFld addrMemEccst fldMemEccst_CONS 1).setFld addrLgrGstat fldLgrGstat_UE 1).setFld
      addrLgrGstat fldLgrGstat_GUAR 0).mem = t.mem := fun t =>
    ((State.setFld_mem _ _ _ _).trans (State.setFld_mem _ _ _ _)).trans (State.setFld_mem _ _ _ _)
  have told : ∀ t : State, (((((t.setFld addrMemEccst fldMemEccst_UE 1).wr addrMemUelog (wordOf wb)).wr addrMemUemst
      (wordOf (m % 256))).raise 0x0E00).fireProd 450).mem = t.mem := fun t =>
    (fireProd_mem _ _).trans (State.setFld_mem _ _ _ _)
  unfold State.logUE
  exact ite_mem _ ((State.setFld_mem _ _ _ _).trans (ite_mem _ ((cons _).trans count) count))
    ((told _).trans (ite_mem _ ((cons _).trans count) count))

/-- Noting the errors of a read leaves memory as it is. -/
theorem readCheck_mem (m : Nat) : ∀ (l : List Nat) (s : State), (s.readCheck m l).1.mem = s.mem := by
  intro l
  induction l with
  | nil => intro s; rfl
  | cons wb r ih =>
    intro s
    unfold State.readCheck
    split
    · exact ih s
    · simpa [logUE_mem] using ih (s.logUE m wb)
    · simpa [logCE_mem] using ih (s.logCE wb)

/-- A read leaves memory as it is. -/
theorem memRead_mem (s : State) (m a n : Nat) : (s.memRead m a n).1.mem = s.mem := by
  unfold State.memRead
  exact readCheck_mem m _ s

theorem mendWord_wf (s : State) (wb : Nat) (h : Memory.wf s.mem = true) : Memory.wf (s.mendWord wb).mem = true :=
  memPuts_wf _ _ h

/-- A write of a word's part keeps the canonical form. -/
theorem wordWrite_wf (s : State) (m wb a : Nat) (d : List Byte) (h : Memory.wf s.mem = true) :
    Memory.wf (s.wordWrite m wb a d).1.mem = true := by
  unfold State.wordWrite
  dsimp only
  split
  · exact memPuts_wf _ _ h
  · split
    · exact memPuts_wf _ _ h
    · rw [logUE_mem]; exact h
    · exact memPuts_wf _ _ (mendWord_wf _ _ (by rw [logCE_mem]; exact h))

theorem wordsWrite_wf (m a : Nat) (d : List Byte) : ∀ (l : List Nat) (s : State), Memory.wf s.mem = true →
    Memory.wf (s.wordsWrite m a d l).1.mem = true := by
  intro l
  induction l with
  | nil => intro s h; exact h
  | cons wb r ih => intro s h; exact ih _ (wordWrite_wf s m wb a d h)

/-- A write by a master keeps the canonical form. -/
theorem memWrite_wf (s : State) (m a : Nat) (d : List Byte) (h : Memory.wf s.mem = true) :
    Memory.wf (s.memWrite m a d).1.mem = true := wordsWrite_wf m a d _ s h

/-- So does a word of a unit's own structure. -/
theorem memLay_wf (s : State) (a : Nat) (d : List Byte) (h : Memory.wf s.mem = true) : Memory.wf (s.memLay a d).mem = true := by
  unfold State.memLay
  refine memPuts_wf _ _ (foldl_wf _ (fun s wb h => ?_) _ _ h)
  split
  · exact h
  · exact mendWord_wf _ _ h
theorem poke32_wf (s : State) (a v : Nat) (h : Memory.wf s.mem = true) : Memory.wf (s.poke32 a v).mem = true := by
  unfold State.poke32
  split
  · exact memLay_wf _ _ _ h
  · exact h

/-- A raw write keeps the canonical form; so do a row's words that pass to a spare or back. -/
theorem rawWriteOp_wf (s : State) (h : Memory.wf s.mem = true) : Memory.wf s.rawWriteOp.mem = true := memPuts_wf _ _ h
theorem rowTo_wf (s : State) (l : List Nat) (x y : Option Nat) (h : Memory.wf s.mem = true) :
    Memory.wf (s.rowTo l x y).mem = true := by
  have away : ∀ (s : State) (f g : Nat → Nat), Memory.wf s.mem = true →
      Memory.wf (l.foldl (fun s a => s.moveWord (f a) (g a)) s).mem = true := fun s f g h =>
    foldl_wf _ (fun _ _ h => memPuts_wf _ _ (memPuts_wf _ _ h)) _ _ h
  unfold State.rowTo
  dsimp only
  split
  · exact h
  · have h' : Memory.wf (if x = none then l.foldl (fun s a => s.moveWord a (a + rowAway)) s else s).mem = true := by
      split
      · exact away s id _ h
      · exact h
    cases y with
    | none => exact away _ _ id h'
    | some k => exact foldl_wf _ (fun _ _ h => memPuts_wf _ _ h) _ _ h'

/-- A remap keeps the canonical form. -/
theorem remap_wf (s : State) (adr : Nat → Nat) (cnt k : Nat) (rowB : Bits) (row : Nat → List Nat) (v : Word)
    (h : Memory.wf s.mem = true) : Memory.wf (s.remap adr cnt k rowB row v).mem = true := by
  unfold State.remap State.dupCheck
  dsimp only
  repeat' split
  all_goals try simp only [State.setFld_mem]
  all_goals first
    | exact h
    | exact rowTo_wf _ _ _ _ (rowTo_wf _ _ _ _ h)
    | exact rowTo_wf _ _ _ _ h

/-- Words marked bad, words of a structure whose layout is open, and words that a march leaves keep the canonical form. -/
theorem memBad_wf (s : State) (a n : Nat) (h : Memory.wf s.mem = true) : Memory.wf (s.memBad a n).mem = true :=
  foldl_wf (fun s wb => { s with syn := tput (fun _ => 0) s.syn wb 3 }) (fun _ _ h => h) _ _ (memPuts_wf _ _ h)
theorem memOpen_wf (s : State) (a n : Nat) (h : Memory.wf s.mem = true) : Memory.wf (s.memOpen a n).mem = true := by
  unfold State.memOpen
  exact memLay_wf _ _ _ h
theorem marchWord_wf (s : State) (wb : Nat) (h : Memory.wf s.mem = true) : Memory.wf (s.marchWord wb).mem = true :=
  memPuts_wf _ _ h

end Sys2Proof.Machine
end

