-- ==== Sys2Proof/Tests/Slice0.lean ====
section
/-! SUPPORT. Tests of this model's own: for every statement that has hypotheses, states and operands that meet them, clause by clause,
at boundary values (theorems witness_*); decoding checked against words written out from the encoding tables of spec/04; ill-formed
commands refused; and a few single steps whose results come from the rules or the worked examples of the spec. -/

namespace Sys2Proof.Tests

open Sys2Proof.Machine

set_option Elab.async false
set_option linter.all false
set_option maxRecDepth 4000

/-! ### Small states that the witnesses share -/

def rdy (st : Word) : Thread := { state := .ready, st := st, pc := 0x100 }
def on1 (g : Nat) (th : Thread) : State := State.reset.setThr g th
def regs2 (st a b : Word) : Thread := ((rdy st).set 2 a).set 3 b
def grant (m : Nat) (s : State) : State :=
  let put := fun (s : State) (r : Nat) (z fetch : Bool) =>
    let a := addrMemRgnattr m r
    let s := (((s.setFld a fldMemRgnattr_EN 1).setFld a fldMemRgnattr_WORLD (b2n z)).setFld a fldMemRgnattr_LVS 1).setFld a fldMemRgnattr_LVU 1
    let s := (s.setFld a fldMemRgnattr_SPACE (b2n fetch)).setFld a fldMemRgnattr_R (b2n !fetch)
    let s := (s.setFld a fldMemRgnattr_W (b2n !fetch)).setFld a fldMemRgnattr_X (b2n fetch)
    (s.setFld (addrMemRgnbase m r) fldMemRgnbase_BASE 0).setFld (addrMemRgnlim m r) fldMemRgnlim_LIMIT 0xFFFFF
  put (put (put (put s 0 false false) 1 true false) 2 false true) 3 true true
def laps : State := grant 0 State.reset
def lapT (a b : Word) : State := laps.setThr 5 (regs2 0x13 a b)
def repS (th : Thread) : State := (grant 0 { State.reset with mem := memPuts [] (spoolBlk 0 0x104) (bytesLE 4 0x00310801) }).setThr 5 th
def chanS (th : Thread) (c : Nat) (q : Nat) : State :=
  let s := (((on1 5 th).setFld (addrWhlChcfg 0 c) fldWhlChcfg_EN 1).setFld (addrWhlChcfg 0 c) fldWhlChcfg_SND 5).setFld (addrWhlChcfg 0 c) fldWhlChcfg_RCV 5
  s.setChan 0 c { q := List.replicate q (1, false) }
def words (a : Nat) (l : List Nat) : List (Nat × Nat) := (List.range l.length).zip l |>.map fun p => (a + 4 * p.1, p.2)
def putW (s : State) (l : List (Nat × Nat)) : State := l.foldl (fun s p => { s with mem := memPuts s.mem p.1 (bytesLE 4 p.2) }) s
theorem lgrOff (s : State) (k : Nat) (h : inCreel (s.fld addrLgrBase fldLgrBase_BASE * 2 ^ 16) = false) : s.setOk k = true := by
  have h2 : ∀ k, s.lgrSet k = none := fun k => if_neg (by rw [h]; decide)
  simp only [State.setOk, State.ctr, h2]; decide
/-- Without a ledger in creel no set has an address. -/
theorem lgrNone (s : State) (k : Nat) (h : inCreel (s.fld addrLgrBase fldLgrBase_BASE * 2 ^ 16) = false) : s.lgrSet k = none := if_neg (by rw [h]; decide)
def bobS (s : State) (k ty prod cons : Nat) : State :=
  let s := putW s [(bdAddr k 0, 2 ^ 31 + ty * 2 ^ 28 + 3 * 2 ^ 24 + 2 * 2 ^ 20 + 5), (bdAddr k 1, 5 * 2 ^ 24 + 1), (bdAddr k 2, 0x10D00000),
    (bdAddr k 4, prod), (bdAddr k 5, cons), (bdAddr k 6, 1)]
  { s with bobV := tset s.bobV k true }.wr (addrBobBctl k) 5
def unitT (o : UnitOp) (a b : Word) : Thread := { rdy 0x13 with state := .waiting, wait := .unit o 4 a b }
def creditS (f h : Nat) (s : State) : State := putW (s.wr addrLgrBase 0x12000000) (words 0x12000010 [f + h, f, h, 0])
def slip (op inl ln : Nat) : List Nat := [op * 2 ^ 28 + inl * 2 ^ 23 + ln, 3, 0, 0, 0x10C00000, 0, 1, 2, 0, 0, 0, 0, 0, 0, 0, 0]
def atNext (s : State) (slp : List Nat) : State := putW s (words (s.entryAddr 0 (s.txNextIdx 0)) slp)
def txS (slp : List Nat) (f : Nat) : State :=
  atNext (grant 69 (creditS f 2 (bobS State.reset 0 0 8 4))) slp
def heldMsg (w : List Nat) : TxMsg := { idx := 5, words := w, inl := [], ents := 2, cells := slCells w, left := slCells w, stage := .held }
def linkS (p l : Nat) (s : State) : State :=
  ((s.setFld (addrLnkState p) fldLnkState_LSTATE l).setFld (addrLnkState p) fldLnkState_SFLOCK 1).setFld (addrLnkState p) fldLnkState_EPRX 1
def ctlCell (sub : Nat) (d : List Byte) : Cell := ⟨mkHdr [(124, 5), (121, 7), (88, sub)], padTo 64 0 d⟩
def dataCell (ct tc dst lseq : Nat) : Cell := ⟨mkHdr [(124, ct), (121, tc), (108, dst), (96, 4), (80, 3), (44, lseq)], List.replicate 64 0⟩
def identS (s : State) : State := (s.setFld addrRteId fldRteId_SET 1).setFld addrRteId fldRteId_DEVID 1
def portC (s : State) (p : Nat) (f : Port → Port) : State := s.modPort p f
def shortCell (tc src ln : Nat) : Cell := ⟨mkHdr [(124, 4), (121, tc), (108, 1), (96, src), (80, 0), (64, 0), (12, 0x800 + ln)], List.replicate 64 7⟩
def rctx (xmsg why : Nat) (ex : Bool) : RCtx := { src := 4, xmsg := xmsg, port := 5, cells := [shortCell 0 4 63], units := [0x13000000], last := true, why := why, expired := ex }
def landS (ty : Nat) (x : RCtx) (c : Nat) : State :=
  let s := grant 69 (bobS { State.reset with mem := memPuts [] 0x13000000 (List.replicate 64 7) } 0 ty 5 4)
  let s := putW (s.wr addrLgrBase 0x12000000) (words (0x12000000 + 16 * quotaSet 0) [9, 9, 0, 0])
  let s := (s.setFld (addrBobLwlo 0) fldBobLwlo_BASE 0x10E000).setFld (addrBobLwsz 0) fldBobLwsz_SIZE 4
  { s with ctxs := [(c, x)] }.setFld addrRteCfg fldRteCfg_ORD 0
def dlist : DList := ⟨0x10E80000, false, false, true, some 5⟩
def dcmdW (op w0 c0 : Nat) (src dst tail : List Nat) : List Nat := [op * 2 ^ 28 + w0, c0, 0] ++ src ++ dst ++ tail
def nil5 : List Nat := [0, 0, 0, 0, 0]
def at5 (a n : Nat) : List Nat := [a, 0, n, 0, 0]
def drfS (s : State) (c : List Nat) : State :=
  let s := grant 47 (bobS s 0 0 5 4)
  let s := ((s.setFld (addrDrfCtl 7) enSTATE 2).setFld (addrDrfCtl 7) enEN 1).setFld (addrDrfStatus 7) fldDrfStatus_RUN 1
  (putW s (words 0x10E80000 c)).modDrf 7 fun d => { d with cur := some dlist }
def svcS (ok : Nat) : State :=
  let s := grant 47 (bobS State.reset 1 1 5 4)
  let s := putW s (words (s.entryAddr 1 4) [6 * 2 ^ 28 + ok, 3 * 65536, 0, 0, 0, 0])
  let s := (s.setFld (addrBobLwlo 0) fldBobLwlo_BASE 0x10C000).setFld (addrBobLwsz 0) fldBobLwsz_SIZE 4
  let s := putW s (words 0x10C00000 (dcmdW 0 0 0 (at5 0 1) (at5 0x10C00140 1) [1, 0, 0]))
  let s := (s.setFld (addrDrfSvcctl 7) fldDrfSvcctl_EN 1).setFld (addrDrfSvcctl 7) fldDrfSvcctl_SBOB 1
  let s := (s.setFld (addrDrfSvcwlo 7) fldDrfSvcwlo_BASE 0x10000).setFld (addrDrfSvcwhi 7) fldDrfSvcwhi_LIMIT 0x15FFF
  ((s.setFld (addrDrfCtl 7) enSTATE 2).setFld (addrDrfCtl 7) enEN 1)
def passW (w14 : Nat) : Pass := ⟨[0, 1, 0, 0, 0, 0, 0, 0, 0, 0, 0, 0, 0, 0, w14], false, true, 0, []⟩
def plyS (p : Pass) : State :=
  (((State.reset.modPly 15 fun t => { t with passes := [p], started := true }).setFld (addrPlyStatus 15) fldPlyStatus_RUN 1).wr
    (addrPlyDone 15) (BitVec.ofNat 32 p.count)).setFld (addrPlyCtl 15) enSTATE 2
def groupS (busy : Nat) : State :=
  let a := addrPlyCgctl 31
  let s := (State.reset.setFld a fldPlyCgctl_ARMED 1).wr (addrPlyCgb 31 0) 0x80
  s.setFld (addrPlyRbst 0) fldPlyRbst_BUSY busy
def skCell (c k sop orig : Nat) : Cell :=
  ⟨mkHdr [(124, 6), (121, 6), (108, 65), (96, 66), (88, c), (72, k), (68, sop), (64, 0), (0, orig)], List.replicate 64 0⟩
def skDesc (cu vlen : Nat) : List Nat :=
  ((((((List.replicate 256 0).set 0 (2 ^ 31 + cu * 2 ^ 20)).set 1 (65 * 2 ^ 20 + vlen)).set 2 (7 * 2 ^ 16 + 9)).set 3 (5 * 2 ^ 24 + 3)).set 4 1).set 16
    0xFF02FFFF |>.set 8 4
def skCtx (cu : Nat) (mem : List Nat) (own : List SkCell) : SkCtx :=
  { desc := skDesc cu 3, members := mem, op := 1, begun := true, own := own, held := 1 }
def skS (st : Nat) (t : SkCtx) (l : List (Nat × Cell)) : State :=
  let s := (State.reset.setFld addrRteId fldRteId_SET 1).setFld addrRteId fldRteId_DEVID 65
  let s := [0, 2].foldl (fun s q =>
    ((s.setFld (addrLnkState q) fldLnkState_LSTATE 3).setFld (addrLnkState q) fldLnkState_PVALID 1).setFld (addrLnkState q) fldLnkState_PARTNER (66 + q)) s
  let s := s.wr addrSknSnapbase 0x13000000
  { (s.setFld (addrSknCst 0) fldSknCst_STATE st).setFld (addrSknCst 0) fldSknCst_OPSEQ 2 with skns := [(0, t)], sknIn := l }
def schS (j act arg : Nat) (s : State) : State := s.wr (addrSknScha j) (BitVec.ofNat 32 (2 ^ 31 + act * 2 ^ 24 + arg))
def tnsS (b : Bits) (s : State) : State := (s.setFld (addrTnsSt 143) b 1).setFld (addrLnkState 143) fldLnkState_CWLOCK 1
def conS (c lim mode : Nat) (l : List Nat) : State :=
  let a := addrTrdCcfg c
  let s := ((State.reset.setFld (addrTrdGctl (c / 8)) fldTrdGctl_GON 1).setFld a fldTrdCcfg_CON 1).setFld a fldTrdCcfg_GEN 0
  { (s.setFld a fldTrdCcfg_SLIM lim).setFld a fldTrdCcfg_MODE mode with pulses := l }
def heldS (c : Nat) : State := (conS c 1 0 []).setFld (addrTrdCst c) fldTrdCst_PEND 1
def secS (n op par w1 il ol : Nat) (s : State) : State :=
  let k := 0x10C00400
  { putW (grant n s) [(k, op + 256 * par), (k + 4, w1), (k + 20, 0x10C02000), (k + 24, il), (k + 28, 0x10C08000), (k + 32, ol), (k + 36, 5)] with
    secq := [(n, [k])] }
def keysS (l : List (Nat × Secret)) (s : State) : State := { s with keyStore := l }
def sesS (role : Nat) (x : Session) (s : State) : State := { s with sessions := [(role, x)] }
theorem roleKeys_two (s : State) (r : Nat) (keys k0 : List Byte) (h : s.instKeys = [(0, sha384 k0)]) (e : keys = k0) (g : s.instGone = []) (hr : r = 2) :
    s.roleKeys r keys = true := by subst e hr; simp [State.roleKeys, h, g]
def instS (l : List (Nat × List Byte)) (s : State) : State := { s with instKeys := l }
def ses (co : Bool) : Session := { sid := 5, handle := 1, cosig := co, chal := [7] }
def bootS (s : State) : State := { s with chal := some [1, 2], bootKem := some (0, [5]), keyStore := [(0, ⟨0, [1]⟩)] }
def takeS (role code sid : Nat) (body : List Byte) (x : Session) (s : State) : State :=
  { s with taken := some ⟨true, sid, 4, code, role, body, []⟩, sessions := [(role, x)] }
def sesL (l bad : Nat) : Session := { sid := 5, handle := 1, cseq := 3, last := l, macBad := bad, cosig := true }
def millS (s : State) : State :=
  let s := (s.setFld addrSecStatus fldSecStatus_BOOTV 1).setFld addrSecSvcb fldSecSvcb_EN 1
  (s.setThr 1250 { state := .waiting, st := 0x13, pc := 0x100 }).wr addrSecMbxctl 1
def queueS (s : State) : State :=
  let s := bobS (grant 39 s) 0 0 1 0
  { s with keyStore := [(1, ⟨2, [9]⟩)] }
def bareFrame (sid code : Nat) : List Byte := frameOf sid 4 code 1 []
def objS (ty : Nat) : SignedObj :=
  let body : List Byte := [1, 2, 3, 4]
  ⟨[0x54, 0x42, 0x53, 0x4F] ++ bytesLE 2 ty ++ [0, 0] ++ bytesLE 8 0 ++ bytesLE 4 4 ++ List.replicate 12 0 ++ sha384 body ++ List.replicate (4864 - 80) 0, body, []⟩
def sup39 : State := (grant 39 State.reset).setThr 1250 { state := .ready, st := 0x13, pc := 0x100 }
def vppS (s : State) : State := { s with vppOk := false, audFirst := false }
def objU (ty : Nat) : SignedObj := ⟨[0x54, 0x42, 0x53, 0x4F] ++ bytesLE 2 ty ++ List.replicate 4858 0, [1, 2], []⟩
theorem objBad (o : SignedObj) (ty : Nat) (k : List Byte) (h : (o.hdr.length = 4864 : Bool) = false ∨ leBytes ((o.hdr.drop 16).take 4) ≠ o.body.length) :
    objOk o ty k = false := by
  rcases h with h | h <;> simp [objOk, h]
def hdrOf (op len cnt bob a : Nat) : BitVec 128 := BitVec.ofNat 128 (op * 2 ^ 124 + 1023 * 2 ^ 114 + len * 2 ^ 112 + cnt * 2 ^ 95 + bob * 2 ^ 79 + a)
def hapS (c cr : Nat) (s : State) : State :=
  let s := ((s.setFld (addrHapCtl c) enEN 1).setFld (addrHapCtl c) enSTATE 2).setFld addrHapGstat fldHapGstat_HCLKOK 1
  (grant (208 + c) s).modHapc c fun h => { h with crHrsp := cr, outHreq := 1, outDrsp := 1 }
def eccS (a : Nat) (v : BitVec 8) (s : State) : State := { s with syn := [(a, v)] }
def rsp (st tag idx : Nat) : BitVec 64 := BitVec.ofNat 64 (st * 2 ^ 60 + tag * 2 ^ 50 + idx * 2 ^ 48)
def rdS (tag len : Nat) (got : List (Nat × Option (List Byte))) (who : Asker) : HRead := ⟨tag, len, got, who⟩
def drS (c : Nat) (l : List HRead) (q : List Nat) : State :=
  (hapS c 0 State.reset).modHapc c fun h => { h with reads := l, quar := q, wlog := [⟨1023, .thread 32, 0x80000004⟩] }
def hrS (c : Nat) : State := (hapS c 0 State.reset).modHapc c fun h => { h with hrspQ := [⟨c, 0, 3, 0, [1]⟩] }
def upS : State := { State.reset with started := true }
def imgS (h : List Byte) : State := { (upS.setFld addrRstCause fldRstCause_WAKE 1) with imgHash := some (1, h) }
def sleepS (v : Nat) : State := (State.reset.setFld addrPwrStatus fldPwrStatus_STATE 3).setFld addrPwrWake fldPwrWake_SEEN v
def supS (l : List Bool) : State := { State.reset with supplies := l }
def dbS (g : Nat) (th : Thread) (bank i a : Nat) : State :=
  let s := (((grant 0 State.reset).wr addrDbgTsel (BitVec.ofNat 32 g)).wr addrDbgRsel (BitVec.ofNat 32 (32 * bank + i))).wr addrDbgMaddr (BitVec.ofNat 32 a)
  { s.setThr g th with dbg := some (true, 2) }
def dth (st : TState) : Thread := { rdy 0x13 with state := st }
def stepS (g : ThreadNo) (d a b : Reg) : State :=
  let s := dbS g { dth .stopped with lastTurn := none } 0 0 0
  match encodeWord (.addu g d a b) with
  | some w => { s with mem := memPuts s.mem (spoolBlk (g.val / 32) 0x100) (bytesLE 4 w.2) }
  | none => s
/-- The row of WHL_TPC. -/
def tpcRow : RegRow := (locate (addrWhlTpc 39 31)).elim ⟨.whlStatus, 0, [], []⟩ (·.1)

def makerS : State := ((State.reset.setThr 1250 { state := .ready, st := 0x13, pc := 0x100 }).wr addrSecGrant 7)
def me : Writer := .thread 1250
def storeS : State := (bobS (bobS makerS 65535 0 5 4) 65534 1 9 4).wr addrMemRawaddr 0x10C00000
def reelS : State :=
  ((makerS.setFld addrReelPer fldReelPer_PER 540).setFld addrReelCfg fldReelCfg_LEN 24).wr (addrReelCfgtb 0) 54000
def engS : State :=
  let s := ((makerS.setFld (addrDrfCtl 7) enEN 1).setFld (addrDrfCtl 7) enSTATE 2).setFld (addrDrfOwn 7) fldDrfOwn_WORLDS 1
  let s := (((s.setRun 6 3).setRun 5 4).setFld (addrPlyStatus 14) fldPlyStatus_RUN 2).setFld addrSngCtl enSTATE 1
  (s.setFld (addrTnsSt 143) fldTnsSt_PVALID 1)
def tnsV (b : Bits) : Word := setF (setF (setF (setF 0 fldTnsCtl_REVT 1) fldTnsCtl_SYMT 8) fldTnsCtl_PROBW 8) b 1
def metIf (f : Instr → Option (Writer × Nat × Word)) (l : List (State × Instr × Bool)) : Prop :=
  ∀ x ∈ l, x.2.2 = true ∧ ∃ r, f x.2.1 = some r ∧ admitted x.1 r.1 r.2.1 r.2.2
/-- The write takes effect, as a test. -/
def takes (s : State) (r : Writer × Nat × Word) : Bool :=
  let rq := s.reqBy r.1
  match locate r.2.1 with
  | some (row, ix) =>
    s.ctlGranted rq true r.2.1 && !s.writeDenied rq row ix r.2.1 r.2.2 && !setsReserved row.flds r.2.2 &&
      !s.encBad rq row.name ix (s.heldWord row.name ix r.2.1) r.2.2 && (s.writeRefused rq row.name ix r.2.2).isNone
  | none => false
/-- A write that passes the test is admitted. -/
theorem takes_of {s : State} {r : Writer × Nat × Word} (h : takes s r = true) : admitted s r.1 r.2.1 r.2.2 := by
  unfold takes at h
  split at h
  · rename_i row ix e
    simp only [Bool.and_eq_true, Bool.not_eq_true', Option.isNone_iff_eq_none] at h
    exact ⟨row, ix, e, h.1.1.1.1, h.1.1.1.2, h.1.1.2, h.1.2, h.2⟩
  · cases h
theorem metIf_of {f : Instr → Option (Writer × Nat × Word)} {l : List (State × Instr × Bool)}
    (h : (l.all fun x => x.2.2 && (f x.2.1).any (takes x.1)) = true) : metIf f l := by
  intro x hx
  have h2 := List.all_eq_true.1 h x hx
  rw [Bool.and_eq_true] at h2
  refine ⟨h2.1, ?_⟩
  cases e : f x.2.1 with
  | none => rw [e] at h2; cases h2.2
  | some r => rw [e] at h2; exact ⟨r, rfl, takes_of h2.2⟩
def thS (g : Nat) (st : TState) (w : Wait) : State := makerS.setThr g { state := st, wait := w, st := 0x13 }
def unitS (a en st : Nat) : State := (makerS.setFld a enEN en).setFld a enSTATE st
def chnS (o : Nat) : State := { makerS.setFld (addrWhlChcfg 39 63) fldWhlChcfg_EN 1 with chans := [(64 * 39 + 63, { open_ := o })] }
def stagedS (bctl : Nat) : State := (((makerS.wr (addrBobStage 0) (setF (setF 0 bdTYPE 2) bdLOC 1)).wr (addrBobStage 1) (setF 0 bdHOME 160))).setFld (addrBobBctl 65533) fldBobBctl_STATE bctl
def freeS (f : Nat) : State := putW (makerS.wr addrLgrBase 0x12000000) [(0x12000000, f), (0x12000004, f)]
def busyS (p : Nat) : State := makerS.setFld (addrLnkCtxcmd p) fldLnkCtxcmd_BUSY 1
def ctxS (c : Nat) : State := { makerS with ctxs := [(c, ⟨66, 1, 0, [], [], false, 1, true⟩)] }
def sendS : State := { makerS with sends := [⟨0, 0, 7, [], [], 1, 0, 66, 1, 0⟩] }
def goS (e run own : Nat) : State :=
  ((makerS.setFld (addrDrfCtl e) enSTATE 2).setFld (addrDrfOwn e) fldDrfOwn_WORLDS own).setRun e run
def intS (v cls armed : Nat) : State :=
  ((makerS.setFld (addrHapIctl v) fldHapIctl_CLASS cls).setFld (addrHapIctl v) fldHapIctl_ARMED armed)
def offS : State := [addrHapCtl 0].foldl (fun s a => (s.setFld a enSTATE 0).setFld a enEN 0) makerS
def qS (n : Nat) : State := { makerS with secq := [(39, List.replicate n 0)] }
def zS : State := ((grant 0 State.reset).wr (addrTrdCworld 7) 0xFFFFFFFF).setThr 0 { state := .ready, st := 0x17, pc := 0x100 }
/-- The row of PIN_OWN. -/
def ownRow : RegRow := (locate (addrPinOwn 0)).elim ⟨.pinOwn, 0, [], []⟩ (·.1)

/-! ### Witnesses: every hypothesis of every clause is met together -/

theorem witness_StepRunsFront :
    (let s : State := { State.reset with pending := [.halt 0] }
    let c : Instr := .halt 0
    let rest : List Instr := []
    s.pending = c :: rest) := by decide +kernel

theorem witness_EmptyQueueTicks :
    (let s : State := State.reset
    s.pending = []) := by decide +kernel

theorem witness_StepKeepsMemoryForm :
    (let s : State := State.reset
    let t : State := State.reset
    memoryInv s ∧ step s = .next t) := by
  (repeat' apply And.intro) <;> first | decide +kernel | rfl

theorem witness_DecodeOfEncode :
    (let i : Instr := .addi 0 31 31 0x7FFF
    let g : ThreadNo := 0
    let w : Nat := 0x11FFFFFF
    let cxpOn : Fin 4 → Bool := fun _ => true
    encodeWord i = some (g, w) ∧ (∀ k, cxpOn k = true)) := by decide +kernel

theorem witness_ZeroRegister :
    (let r : Reg := 31
    r ≠ 0) ∧
    (let r : Reg := 1
    let q : Reg := 2
    q ≠ r) := by
  refine ⟨by decide +kernel, ?_⟩
  decide +kernel

theorem witness_Retirement :
    (let th : Thread := {}
    th.rep = none) ∧
    (let th : Thread := { rep := some false, rc := 1 }
    th.rep ≠ none ∧ th.rc = 1) ∧
    (let th : Thread := { rep := some false, rc := 64 }
    th.rep ≠ none ∧ th.rc ≠ 1) := by
  iterate 2 refine ⟨by decide +kernel, ?_⟩
  decide +kernel

theorem witness_PlainResults :
    (let s : State := on1 1279 (regs2 0x13 7 9)
    let i : Instr := .addu 1279 31 2 3
    let g : ThreadNo := 1279
    let d : Reg := 31
    let v : Word := 16
    plainResult s i = some (g, d, v) ∧ s.runs g = true) := by decide +kernel

theorem witness_PlainFrame :
    (let s : State := on1 1279 (regs2 0x13 7 9)
    let t : State := on1 1279 { (regs2 0x13 7 9).set 31 16 with pc := 0x104 }
    let i : Instr := .addu 1279 31 2 3
    let g : ThreadNo := 1279
    let d : Reg := 31
    let v : Word := 16
    plainResult s i = some (g, d, v) ∧ exec i s = .next t) := by
  (repeat' apply And.intro) <;> first | decide +kernel | rfl

theorem witness_SignedChecked :
    (let s : State := on1 5 (regs2 0x13 0x7FFFFFFF 0)
    let i : Instr := .add 5 4 2 3
    let g : ThreadNo := 5
    let d : Reg := 4
    let x : Int := 0x7FFFFFFF
    checkedResult s i = some (g, d, x) ∧ s.runs g = true ∧ fits 32 x) ∧
    (let s : State := on1 5 (regs2 0x33 0x7FFFFFFF 1)
    let i : Instr := .add 5 4 2 3
    let g : ThreadNo := 5
    let d : Reg := 4
    let x : Int := 0x80000000
    let th := s.thr g
    let ove := th.st.toNat.testBit 5
    checkedResult s i = some (g, d, x) ∧ s.runs g = true ∧ ¬fits 32 x ∧ ove = true) ∧
    (let s : State := on1 5 (regs2 0x53 0x7FFFFFFF 1)
    let i : Instr := .add 5 4 2 3
    let g : ThreadNo := 5
    let d : Reg := 4
    let x : Int := 0x80000000
    let th := s.thr g
    let ove := th.st.toNat.testBit 5
    let sat := th.st.toNat.testBit 6
    checkedResult s i = some (g, d, x) ∧ s.runs g = true ∧ ¬fits 32 x ∧ ove = false ∧ sat = true) ∧
    (let s : State := on1 5 (regs2 0x13 0x80000000 0xFFFFFFFF)
    let i : Instr := .add 5 4 2 3
    let g : ThreadNo := 5
    let d : Reg := 4
    let x : Int := -0x80000001
    let th := s.thr g
    let ove := th.st.toNat.testBit 5
    let sat := th.st.toNat.testBit 6
    checkedResult s i = some (g, d, x) ∧ s.runs g = true ∧ ¬fits 32 x ∧ ove = false ∧ sat = false) ∧
    (let s : State := on1 5 (((rdy 0x13).setPair 2 0x7FFFFFFFFFFFFFFF).setPair 6 0)
    let i : Instr := .addd 5 4 2 6
    let g : ThreadNo := 5
    let d : Reg := 4
    let x : Int := 0x7FFFFFFFFFFFFFFF
    let l : List Reg := [4, 2, 6]
    checkedPair s i = some (g, d, x, l) ∧ s.runs g = true ∧ (∀ r ∈ l, r.val % 2 = 0) ∧ fits 64 x) ∧
    (let s : State := on1 5 (((rdy 0x33).setPair 2 0x7FFFFFFFFFFFFFFF).setPair 6 1)
    let i : Instr := .addd 5 4 2 6
    let g : ThreadNo := 5
    let d : Reg := 4
    let x : Int := 2 ^ 63
    let l : List Reg := [4, 2, 6]
    let th := s.thr g
    let ove := th.st.toNat.testBit 5
    checkedPair s i = some (g, d, x, l) ∧ s.runs g = true ∧ (∀ r ∈ l, r.val % 2 = 0) ∧ ¬fits 64 x ∧ ove = true) ∧
    (let s : State := on1 5 (((rdy 0x53).setPair 2 0x7FFFFFFFFFFFFFFF).setPair 6 1)
    let i : Instr := .addd 5 4 2 6
    let g : ThreadNo := 5
    let d : Reg := 4
    let x : Int := 2 ^ 63
    let l : List Reg := [4, 2, 6]
    let th := s.thr g
    let ove := th.st.toNat.testBit 5
    let sat := th.st.toNat.testBit 6
    checkedPair s i = some (g, d, x, l) ∧ s.runs g = true ∧ (∀ r ∈ l, r.val % 2 = 0) ∧ ¬fits 64 x ∧ ove = false ∧ sat = true) ∧
    (let s : State := on1 5 (((rdy 0x13).setPair 2 0x7FFFFFFFFFFFFFFF).setPair 6 1)
    let i : Instr := .addd 5 4 2 6
    let g : ThreadNo := 5
    let d : Reg := 4
    let x : Int := 2 ^ 63
    let l : List Reg := [4, 2, 6]
    let th := s.thr g
    let ove := th.st.toNat.testBit 5
    let sat := th.st.toNat.testBit 6
    checkedPair s i = some (g, d, x, l) ∧ s.runs g = true ∧ (∀ r ∈ l, r.val % 2 = 0) ∧ ¬fits 64 x ∧ ove = false ∧ sat = false) := by
  iterate 7 refine ⟨by dsimp only [fits]; decide +kernel, ?_⟩
  dsimp only [fits]; decide +kernel

theorem witness_PairResults :
    (let s : State := on1 5 (regs2 0x13 0x80000000 0x80000000)
    let i : Instr := .mulw 5 4 2 3
    let g : ThreadNo := 5
    let d : Reg := 4
    let x : Int := 2 ^ 62
    let l : List Reg := [4]
    pairWord s i = some (g, d, x, l) ∧ s.runs g = true ∧ (∀ r ∈ l, r.val % 2 = 0) ∧ fits 65 x ∧ (fits 64 x ∨ ∃ a b, i = .mulwu g d a b)) ∧
    (let s : State := on1 5 (regs2 0x13 0 0)
    let i : Instr := .mulw 5 3 2 3
    let g : ThreadNo := 5
    let d : Reg := 3
    let x : Int := 0
    let l : List Reg := [3]
    pairWord s i = some (g, d, x, l) ∧ s.runs g = true ∧ (∃ r ∈ l, r.val % 2 = 1)) := by
  refine ⟨by dsimp only [fits]; decide +kernel, ?_⟩
  decide +kernel

theorem witness_QFormat :
    (let s : State := on1 5 (regs2 0x13 0x7FFFFFFF 0)
    let i : Instr := .addq 5 4 2 3 false
    let g : ThreadNo := 5
    let d : Reg := 4
    let x : Int := 0x7FFFFFFF
    let f : Bool := false
    qResult s i = some (g, d, x, f) ∧ s.runs g = true ∧ fits 32 x) ∧
    (let s : State := on1 5 (regs2 0x13 0x7FFFFFFF 1)
    let i : Instr := .addq 5 4 2 3 true
    let g : ThreadNo := 5
    let d : Reg := 4
    let x : Int := 0x80000000
    let f : Bool := true
    let th := s.thr g
    let clamp := f || th.fx.toNat.testBit 2
    qResult s i = some (g, d, x, f) ∧ s.runs g = true ∧ ¬fits 32 x ∧ clamp = true) ∧
    (let s : State := on1 5 { regs2 0x13 0x7FFFFFFF 1 with fx := 1 }
    let i : Instr := .addq 5 4 2 3 false
    let g : ThreadNo := 5
    let d : Reg := 4
    let x : Int := 0x80000000
    let f : Bool := false
    let th := s.thr g
    let clamp := f || th.fx.toNat.testBit 2
    qResult s i = some (g, d, x, f) ∧ s.runs g = true ∧ ¬fits 32 x ∧ clamp = false) := by
  iterate 2 refine ⟨by dsimp only [fits]; decide +kernel, ?_⟩
  dsimp only [fits]; decide +kernel

theorem witness_PairedLanes :
    (let s : State := on1 5 (regs2 0x13 0 0)
    let g : ThreadNo := 5
    let d : Reg := 30
    s.runs g = true ∧ d ≠ 0 ∧ d.val % 2 = 0) := by decide +kernel

theorem witness_Rounding :
    (let x : Int := 3
    let n : Nat := 1
    let off := fun (m : RMode) => (x - roundTo x n m * 2 ^ n).natAbs
    0 < n ∧ 2 * off .rne = 2 ^ n) ∧
    (let x : Int := -3
    let n : Nat := 1
    let off := fun (m : RMode) => (x - roundTo x n m * 2 ^ n).natAbs
    0 < n ∧ 2 * off .rna = 2 ^ n) := by
  refine ⟨by decide +kernel, ?_⟩
  decide +kernel

theorem witness_Accumulators :
    (let s : State := on1 5 (regs2 0x13 0x80000000 0x80000000)
    let i : Instr := .maci 5 3 2 3
    let g : ThreadNo := 5
    let x : Acc := 3
    let d : Int := 2 ^ 62
    accResult s i = some (g, x, d) ∧ s.runs g = true) ∧
    (let s : State := on1 5 (regs2 0x13 0 0)
    let g : ThreadNo := 5
    let a : Reg := 30
    s.runs g = true ∧ a.val % 2 = 0) ∧
    (let s : State := on1 5 (regs2 0x13 0 0)
    let g : ThreadNo := 5
    let k : BitVec 15 := -32
    s.runs g = true ∧ -32 ≤ k.toInt ∧ k.toInt < 0) ∧
    (let s : State := on1 5 (regs2 0x13 0 0)
    let g : ThreadNo := 5
    let k : BitVec 15 := -1
    s.runs g = true ∧ -32 ≤ k.toInt ∧ k.toInt < 0) ∧
    (let s : State := on1 5 (regs2 0x13 0 0)
    let g : ThreadNo := 5
    let x : Acc := 0
    let k : BitVec 15 := 0
    let th := s.thr g
    s.runs g = true ∧ 0 ≤ k.toInt ∧ k.toInt ≤ 31 ∧ fits 80 (th.a[x].toInt * 2 ^ k.toInt.toNat)) ∧
    (let s : State := on1 5 (regs2 0x13 0 0)
    let g : ThreadNo := 5
    let x : Acc := 0
    let k : BitVec 15 := 31
    let th := s.thr g
    s.runs g = true ∧ 0 ≤ k.toInt ∧ k.toInt ≤ 31 ∧ fits 80 (th.a[x].toInt * 2 ^ k.toInt.toNat)) ∧
    (let s : State := on1 5 (regs2 0x13 0 0)
    let g : ThreadNo := 5
    let k : BitVec 15 := -33
    s.runs g = true ∧ (k.toInt < -32 ∨ 31 < k.toInt)) ∧
    (let s : State := on1 5 (regs2 0x13 0 0)
    let g : ThreadNo := 5
    let k : BitVec 15 := 32
    s.runs g = true ∧ (k.toInt < -32 ∨ 31 < k.toInt)) := by
  iterate 4 refine ⟨by decide +kernel, ?_⟩
  iterate 2 refine ⟨by dsimp only [fits]; decide +kernel, ?_⟩
  refine ⟨by decide +kernel, ?_⟩
  decide +kernel

theorem witness_Divides :
    (let s : State := on1 5 (regs2 0x13 7 2)
    let i : Instr := .div 5 4 2 3
    let g : ThreadNo := 5
    let d : Reg := 4
    let b : Reg := 3
    let q : Int := 3
    quotient s i = some (g, d, b, q) ∧ s.runs g = true ∧ (s.thr g).haltReq = false ∧ (s.thr g).stopReq = false) ∧
    (let s : State := on1 5 (regs2 0x13 7 0)
    let i : Instr := .rem 5 4 2 3
    let g : ThreadNo := 5
    let d : Reg := 4
    let b : Reg := 3
    let q : Int := 7
    quotient s i = some (g, d, b, q) ∧ s.runs g = true ∧ (s.thr g).haltReq = false ∧ (s.thr g).stopReq = false) := by
  refine ⟨by decide +kernel, ?_⟩
  decide +kernel

theorem witness_Jumps :
    (let s : State := on1 5 (regs2 0x13 0 0)
    let i : Instr := .j 5 1
    let g : ThreadNo := 5
    let t : Option Word := some 0x104
    let k : Nat := 1
    jumpTarget s i = some (g, t, k) ∧ s.runs g = true) ∧
    (let s : State := on1 5 (regs2 0x13 3 0)
    let g : ThreadNo := 5
    let r : Reg := 2
    s.runs g = true ∧ ((s.thr g).get r).toNat % 4 ≠ 0) := by
  refine ⟨by decide +kernel, ?_⟩
  decide +kernel

theorem witness_Calls :
    (let s : State := on1 5 { rdy 0x13 with hrs := List.replicate 7 8 }
    let i : Instr := .call 5 1
    let g : ThreadNo := 5
    let x : Word := 0x104
    let th := s.thr g
    callTarget s i = some (g, x) ∧ s.runs g = true ∧ th.hrs.length ≠ 8) ∧
    (let s : State := on1 5 { rdy 0x13 with hrs := List.replicate 8 8 }
    let i : Instr := .call 5 1
    let g : ThreadNo := 5
    let x : Word := 0x104
    let th := s.thr g
    callTarget s i = some (g, x) ∧ s.runs g = true ∧ th.hrs.length = 8 ∧ th.st.toNat.testBit 7 = false) ∧
    (let s : State := on1 5 { rdy 0x93 with hrs := List.replicate 8 8 }
    let i : Instr := .call 5 1
    let g : ThreadNo := 5
    let x : Word := 0x104
    let th := s.thr g
    callTarget s i = some (g, x) ∧ s.runs g = true ∧ th.hrs.length = 8 ∧ th.st.toNat.testBit 7 = true) := by
  iterate 2 refine ⟨by decide +kernel, ?_⟩
  decide +kernel

theorem witness_Returns :
    (let s : State := on1 5 { rdy 0x13 with hrs := List.replicate 1 8 }
    let g : ThreadNo := 5
    let th := s.thr g
    s.runs g = true ∧ th.hrs ≠ []) ∧
    (let s : State := on1 5 { rdy 0x13 with hrs := List.replicate 0 8 }
    let g : ThreadNo := 5
    let th := s.thr g
    s.runs g = true ∧ th.hrs = [] ∧ th.st.toNat.testBit 7 = false) ∧
    (let s : State := on1 5 { rdy 0x93 with hrs := List.replicate 0 8 }
    let g : ThreadNo := 5
    let th := s.thr g
    s.runs g = true ∧ th.hrs = [] ∧ th.st.toNat.testBit 7 = true) := by
  iterate 2 refine ⟨by decide +kernel, ?_⟩
  decide +kernel

theorem witness_ReturnStackSpill :
    (let s : State := laps.setThr 5 (regs2 0x13 0xFFFD8 0)
    let g : ThreadNo := 5
    let r : Reg := 2
    let th := s.thr g
    let a := (th.get r).toNat
    s.runs g = true ∧ a % 8 = 0 ∧ a + 40 ≤ 0x100000 ∧ s.mayAccess g .write a 40 = true) ∧
    (let s : State := laps.setThr 5 (regs2 0x13 0xFFFD8 0)
    let g : ThreadNo := 5
    let r : Reg := 2
    let th := s.thr g
    let a := (th.get r).toNat
    let blk := lapBlk (g / 32) a
    s.runs g = true ∧ a % 8 = 0 ∧ a + 40 ≤ 0x100000 ∧ s.mayAccess g .read a 40 = true ∧ cleanAt s blk 40) ∧
    (let s : State := laps.setThr 5 (regs2 0x13 4 0)
    let g : ThreadNo := 5
    let r : Reg := 2
    let th := s.thr g
    let a := (th.get r).toNat
    s.runs g = true ∧ a % 8 ≠ 0) ∧
    (let s : State := laps.setThr 5 (regs2 0x13 0xFFFE0 0)
    let g : ThreadNo := 5
    let r : Reg := 2
    let th := s.thr g
    let a := (th.get r).toNat
    s.runs g = true ∧ a % 8 = 0 ∧ 0x100000 < a + 40) := by
  refine ⟨by decide +kernel, ?_⟩
  refine ⟨by dsimp only [cleanAt]; decide +kernel, ?_⟩
  refine ⟨by decide +kernel, ?_⟩
  decide +kernel

theorem witness_SpecialReads :
    (let s : State := on1 5 (regs2 0x13 0 0)
    let g : ThreadNo := 5
    let n : Fin 32 := 16
    let th := s.thr g
    let sup := th.st.toNat.testBit 1
    let v := 0
    s.runs g = true ∧ specialValue s g n = some v ∧ (supervisorOnly n → sup = true)) ∧
    (let s : State := on1 5 (regs2 0x10 0 0)
    let g : ThreadNo := 5
    let n : Fin 32 := 4
    let th := s.thr g
    let sup := th.st.toNat.testBit 1
    let v := 0
    s.runs g = true ∧ specialValue s g n = some v ∧ (supervisorOnly n → sup = true)) ∧
    (let s : State := on1 5 (regs2 0x10 0 0)
    let g : ThreadNo := 5
    let n : Fin 32 := 5
    let th := s.thr g
    let sup := th.st.toNat.testBit 1
    s.runs g = true ∧ supervisorOnly n ∧ sup = false) ∧
    (let s : State := on1 5 (regs2 0x10 0 0)
    let g : ThreadNo := 5
    let n : Fin 32 := 15
    let th := s.thr g
    let sup := th.st.toNat.testBit 1
    s.runs g = true ∧ supervisorOnly n ∧ sup = false) ∧
    (let s : State := on1 5 (regs2 0x13 0 0)
    let g : ThreadNo := 5
    let n : Fin 32 := 17
    s.runs g = true ∧ 16 < n.val) ∧
    (let s : State := on1 5 (regs2 0x13 0 0)
    let g : ThreadNo := 5
    let d : Reg := 0
    let n : Fin 32 := 13
    s.runs g = true ∧ n.val = 13 ∧ d.val % 2 = 0) ∧
    (let s : State := on1 5 (regs2 0x13 0 0)
    let g : ThreadNo := 5
    let d : Reg := 30
    s.runs g = true ∧ d.val % 2 = 0) ∧
    (let s : State := on1 5 (regs2 0x13 0 0)
    let g : ThreadNo := 5
    let d : Reg := 31
    s.runs g = true ∧ d.val % 2 = 1) := by
  iterate 4 refine ⟨by dsimp only [supervisorOnly]; decide +kernel, ?_⟩
  iterate 3 refine ⟨by decide +kernel, ?_⟩
  decide +kernel

theorem witness_SpecialWrites :
    (let s : State := on1 5 (regs2 0x13 4 0)
    let g : ThreadNo := 5
    let r : Reg := 2
    let n : Fin 32 := 5
    let th := s.thr g
    let sup := th.st.toNat.testBit 1
    let u := { (regs2 0x13 4 0).advance with epc := 4 }
    s.runs g = true ∧ specialWritten th.advance (th.get r) sup n = some u ∧ (supervisorOnly n → sup = true) ∧ th.get r &&& ~~~specialBits n = 0) ∧
    (let s : State := on1 5 (regs2 0x13 1 0)
    let g : ThreadNo := 5
    let r : Reg := 2
    let n : Fin 32 := 5
    let th := s.thr g
    let sup := th.st.toNat.testBit 1
    s.runs g = true ∧ specialWritten th (th.get r) sup n ≠ none ∧ (supervisorOnly n → sup = true) ∧ th.get r &&& ~~~specialBits n ≠ 0) ∧
    (let s : State := on1 5 (regs2 0x13 0xFF00 0)
    let g : ThreadNo := 5
    let r : Reg := 2
    let n : Fin 32 := 9
    let th := s.thr g
    let sup := th.st.toNat.testBit 1
    s.runs g = true ∧ n.val = 9 ∧ sup = true ∧ (th.get r).toNat % 256 = 0) ∧
    (let s : State := on1 5 (regs2 0x10 0 0)
    let g : ThreadNo := 5
    let n : Fin 32 := 11
    let th := s.thr g
    let sup := th.st.toNat.testBit 1
    s.runs g = true ∧ supervisorOnly n ∧ sup = false) ∧
    (let s : State := on1 5 (regs2 0x13 0 0)
    let g : ThreadNo := 5
    let n : Fin 32 := 0
    s.runs g = true ∧ (n.val ∈ [0, 12, 13, 14] ∨ 16 ≤ n.val)) ∧
    (let s : State := on1 5 (regs2 0x13 0 0)
    let g : ThreadNo := 5
    let n : Fin 32 := 12
    s.runs g = true ∧ (n.val ∈ [0, 12, 13, 14] ∨ 16 ≤ n.val)) ∧
    (let s : State := on1 5 (regs2 0x13 0 0)
    let g : ThreadNo := 5
    let n : Fin 32 := 13
    s.runs g = true ∧ (n.val ∈ [0, 12, 13, 14] ∨ 16 ≤ n.val)) ∧
    (let s : State := on1 5 (regs2 0x13 0 0)
    let g : ThreadNo := 5
    let n : Fin 32 := 14
    s.runs g = true ∧ (n.val ∈ [0, 12, 13, 14] ∨ 16 ≤ n.val)) ∧
    (let s : State := on1 5 (regs2 0x13 0 0)
    let g : ThreadNo := 5
    let n : Fin 32 := 16
    s.runs g = true ∧ (n.val ∈ [0, 12, 13, 14] ∨ 16 ≤ n.val)) ∧
    (let s : State := on1 5 (regs2 0x13 0 0)
    let g : ThreadNo := 5
    let n : Fin 32 := 31
    s.runs g = true ∧ (n.val ∈ [0, 12, 13, 14] ∨ 16 ≤ n.val)) := by
  iterate 2 refine ⟨by dsimp only [supervisorOnly]; decide +kernel, ?_⟩
  refine ⟨by decide +kernel, ?_⟩
  refine ⟨by dsimp only [supervisorOnly]; decide +kernel, ?_⟩
  iterate 5 refine ⟨by decide +kernel, ?_⟩
  decide +kernel

theorem witness_SystemWords :
    (let s : State := on1 5 (regs2 0x13 0 0)
    let g : ThreadNo := 5
    let th := s.thr g
    s.runs g = true ∧ th.sbuf = []) ∧
    (let s : State := on1 5 { rdy 0x13 with sbuf := [.doorbell 1 1] }
    let g : ThreadNo := 5
    let th := s.thr g
    s.runs g = true ∧ th.sbuf ≠ []) ∧
    (let s : State := on1 5 { regs2 0x13 0x80000000 0 with ev := 0x80000000 }
    let g : ThreadNo := 5
    let r : Reg := 2
    let th := s.thr g
    s.runs g = true ∧ s.wfeHit g (th.get r) ≠ 0) ∧
    (let s : State := on1 5 (regs2 0x13 0 0)
    let g : ThreadNo := 5
    let r : Reg := 2
    let th := s.thr g
    s.runs g = true ∧ s.wfeHit g (th.get r) = 0) ∧
    (let s : State := on1 5 (regs2 0x13 31 0)
    let g : ThreadNo := 5
    let r : Reg := 2
    let th := s.thr g
    let u := g.val / 32 * 32 + (th.get r).toNat % 32
    s.runs g = true ∧ (th.st.toNat.testBit 2 = false ∨ s.mapZ u = true)) ∧
    (let s : State := (on1 5 (regs2 0x17 31 0)).modWhl 0 fun x => { x with wmap := 0x80000020 }
    let g : ThreadNo := 5
    let r : Reg := 2
    let th := s.thr g
    let u := g.val / 32 * 32 + (th.get r).toNat % 32
    s.runs g = true ∧ (th.st.toNat.testBit 2 = false ∨ s.mapZ u = true)) ∧
    (let s : State := on1 5 (regs2 0x17 31 0)
    let g : ThreadNo := 5
    let r : Reg := 2
    let th := s.thr g
    let u := g.val / 32 * 32 + (th.get r).toNat % 32
    s.runs g = true ∧ th.st.toNat.testBit 2 = true ∧ s.mapZ u = false) ∧
    (let s : State := on1 5 (regs2 0x13 0 0)
    let g : ThreadNo := 5
    s.runs g = true ∧ s.on (addrWhlTexc (g / 32) (g % 32)) fldWhlTexc_BRKSTOP = false) ∧
    (let s : State := (on1 5 (rdy 0x13)).setFld (addrWhlTexc 0 5) fldWhlTexc_BRKSTOP 1
    let g : ThreadNo := 5
    s.runs g = true ∧ s.on (addrWhlTexc (g / 32) (g % 32)) fldWhlTexc_BRKSTOP = true) := by
  iterate 8 refine ⟨by decide +kernel, ?_⟩
  decide +kernel

theorem witness_SystemCalls :
    (let s : State := on1 5 (regs2 0x10 0 0)
    let g : ThreadNo := 5
    let th := s.thr g
    s.runs g = true ∧ th.st.toNat.testBit 1 = false) ∧
    (let s : State := on1 5 (regs2 0x12 0 0)
    let g : ThreadNo := 5
    let th := s.thr g
    s.runs g = true ∧ th.st.toNat.testBit 1 = true) := by
  refine ⟨by decide +kernel, ?_⟩
  decide +kernel

theorem witness_ExceptionReturn :
    (let s : State := on1 5 (regs2 0x1B 0 0)
    let g : ThreadNo := 5
    let i : Instr := .eret 5
    let th := s.thr g
    (i = .eret g ∨ i = .sret g) ∧ s.runs g = true ∧ th.st.toNat.testBit 1 = true ∧ th.st.toNat.testBit 9 = false) ∧
    (let s : State := on1 5 (regs2 0x10 0 0)
    let g : ThreadNo := 5
    let i : Instr := .eret 5
    let th := s.thr g
    (i = .eret g ∨ i = .sret g) ∧ s.runs g = true ∧ th.st.toNat.testBit 1 = false) ∧
    (let s : State := on1 5 (regs2 0x21B 0 0)
    let g : ThreadNo := 5
    let i : Instr := .eret 5
    let th := s.thr g
    (i = .eret g ∨ i = .sret g) ∧ s.runs g = true ∧ th.st.toNat.testBit 1 = true ∧ th.st.toNat.testBit 9 = true) := by
  iterate 2 refine ⟨by decide +kernel, ?_⟩
  decide +kernel

theorem witness_CauseTaken :
    (let s : State := on1 5 (regs2 0x1B 0 0)
    let g : ThreadNo := 5
    let th := s.thr g
    (th.st.toNat.testBit 3 = true ∨ th.st.toNat.testBit 0 = true)) ∧
    (let s : State := on1 5 (regs2 0x11 0 0)
    let g : ThreadNo := 5
    let th := s.thr g
    (th.st.toNat.testBit 3 = true ∨ th.st.toNat.testBit 0 = true) ∧ g.val % 32 ≠ 0 ∧ (s.whl (g / 32)).notes.length < 160) ∧
    (let s : State := on1 5 (regs2 0x12 0 0)
    let g : ThreadNo := 5
    let th := s.thr g
    th.st.toNat.testBit 3 = false ∧ th.st.toNat.testBit 0 = false) := by
  iterate 2 refine ⟨by decide +kernel, ?_⟩
  decide +kernel

theorem witness_ExceptionEntry :
    (let s : State := on1 5 { rdy 0x13 with entry := some ⟨4, 1, false, 4, 4, 2⟩ }
    let g : ThreadNo := 5
    let p : Pend := ⟨4, 1, false, 4, 4, 2⟩
    (s.thr g).state = .ready ∧ (s.thr g).entry = some p ∧ 2 ≤ p.turns) := by decide +kernel

theorem witness_AsynchronousCause :
    (let s : State := (on1 5 (rdy 0x10)).setFld (addrWhlTexc 0 5) fldWhlTexc_LSEP 1
    let g : ThreadNo := 5
    let c : Nat := 13
    let th := s.thr g
    let late := s.on (addrWhlTexc (g / 32) (g % 32)) fldWhlTexc_LSEP
    let line := fun (i : Nat) => i < 32 ∧ (s.lines g &&& s.ieMask g).toNat.testBit i = true
    th.st.toNat.testBit 0 = false ∧ th.rep = none ∧ th.entry = none ∧ th.owed = 0 ∧ th.issued = none ∧ ((late = true ∧ c = 13) ∨ (late = false ∧ ∃ i, c = 32 + i ∧ line i ∧ ∀ j, j < i → ¬line j)) ∧ th.state = .ready) ∧
    (let s : State := (on1 5 { rdy 0x10 with state := .waiting, wait := .event 1 }).setFld (addrWhlTexc 0 5) fldWhlTexc_LSEP 1
    let g : ThreadNo := 5
    let c : Nat := 13
    let th := s.thr g
    let late := s.on (addrWhlTexc (g / 32) (g % 32)) fldWhlTexc_LSEP
    let line := fun (i : Nat) => i < 32 ∧ (s.lines g &&& s.ieMask g).toNat.testBit i = true
    th.st.toNat.testBit 0 = false ∧ th.rep = none ∧ th.entry = none ∧ th.owed = 0 ∧ th.issued = none ∧ ((late = true ∧ c = 13) ∨ (late = false ∧ ∃ i, c = 32 + i ∧ line i ∧ ∀ j, j < i → ¬line j)) ∧ th.state = .waiting ∧ ((∃ m, th.wait = .event m) ∨ (∃ k, th.wait = .chanSend k) ∨ (∃ k r, th.wait = .chanRecv k r))) := by
  refine ⟨by (try dsimp only) <;> exact ⟨by decide +kernel, by decide +kernel, by decide +kernel, by decide +kernel, by decide +kernel, .inl (by decide +kernel), by decide +kernel⟩, ?_⟩
  (try dsimp only) <;> exact ⟨by decide +kernel, by decide +kernel, by decide +kernel, by decide +kernel, by decide +kernel, .inl (by decide +kernel), by decide +kernel, .inl ⟨1, rfl⟩⟩

theorem witness_IllegalWords :
    (let s : State := on1 5 (regs2 0x13 0 0)
    let g : ThreadNo := 5
    let w : Word := 0
    let e : Illegal := .function
    s.runs g = true ∧ decodeWord g (fun j => s.on (addrCxpCfg j) fldCxpCfg_EN) w.toNat = .bad e) := by decide +kernel

theorem witness_NearLoads :
    (let s : State := lapT 0xFFFFC 0
    let g : ThreadNo := 5
    let i := Instr.lw 5 4 2 0
    let d := (4 : Reg)
    let a := (0xFFFFC : Word)
    let n := (4 : Nat)
    let f := fun v => BitVec.ofNat 32 v
    let blk := lapBlk (g / 32) a.toNat
    s.runs g = true ∧ loadWord s i = some (g, d, a, n, f) ∧ a.toNat < 0x100000 ∧ a.toNat % n = 0 ∧ s.mayAccess g .read a.toNat n = true ∧ cleanAt s blk n) ∧
    (let s : State := lapT 0xFFFFD 0
    let g : ThreadNo := 5
    let i := Instr.lw 5 4 2 0
    let d := (4 : Reg)
    let a := (0xFFFFD : Word)
    let n := (4 : Nat)
    let f := fun v => BitVec.ofNat 32 v
    s.runs g = true ∧ loadWord s i = some (g, d, a, n, f) ∧ a.toNat < 0x100000 ∧ a.toNat % n ≠ 0) ∧
    (let s : State := on1 5 (regs2 0x13 0xFFFFC 0)
    let g : ThreadNo := 5
    let i := Instr.lw 5 4 2 0
    let d := (4 : Reg)
    let a := (0xFFFFC : Word)
    let n := (4 : Nat)
    let f := fun v => BitVec.ofNat 32 v
    s.runs g = true ∧ loadWord s i = some (g, d, a, n, f) ∧ a.toNat < 0x100000 ∧ a.toNat % n = 0 ∧ s.mayAccess g .read a.toNat n = false) ∧
    (let s : State := lapT 0xFFFF8 0
    let g : ThreadNo := 5
    let th := s.thr g
    let d : Reg := 30
    let r : Reg := 2
    let k : BitVec 15 := 0
    let a := th.get r + k.signExtend 32
    let blk := lapBlk (g / 32) a.toNat
    s.runs g = true ∧ d.val % 2 = 0 ∧ a.toNat < 0x100000 ∧ a.toNat % 8 = 0 ∧ s.mayAccess g .read a.toNat 8 = true ∧ cleanAt s blk 8) ∧
    (let s : State := lapT 0 0
    let g : ThreadNo := 5
    let d : Reg := 31
    s.runs g = true ∧ d.val % 2 = 1) := by
  refine ⟨by dsimp only [cleanAt] <;> (repeat' apply And.intro) <;> first | decide +kernel | rfl, ?_⟩
  iterate 2 refine ⟨by (repeat' apply And.intro) <;> first | decide +kernel | rfl, ?_⟩
  refine ⟨by dsimp only [cleanAt]; decide +kernel, ?_⟩
  decide +kernel

theorem witness_NearStores :
    (let s : State := lapT 0xFFFFC 1
    let i : Instr := .sw 5 3 2 0
    let g : ThreadNo := 5
    let a : Word := 0xFFFFC
    let d : List Byte := [1, 0, 0, 0]
    let blk := lapBlk (g / 32) a.toNat
    storeWord s i = some (g, a, d) ∧ s.runs g = true ∧ a.toNat < 0x100000 ∧ a.toNat % d.length = 0 ∧ s.mayAccess g .write a.toNat d.length = true ∧ cleanAt s blk d.length) ∧
    (let s : State := lapT 0xFFFFD 1
    let i : Instr := .sw 5 3 2 0
    let g : ThreadNo := 5
    let a : Word := 0xFFFFD
    let d : List Byte := [1, 0, 0, 0]
    storeWord s i = some (g, a, d) ∧ s.runs g = true ∧ a.toNat < 0x100000 ∧ a.toNat % d.length ≠ 0) ∧
    (let s : State := on1 5 (regs2 0x13 0xFFFFC 1)
    let i : Instr := .sw 5 3 2 0
    let g : ThreadNo := 5
    let a : Word := 0xFFFFC
    let d : List Byte := [1, 0, 0, 0]
    storeWord s i = some (g, a, d) ∧ s.runs g = true ∧ a.toNat < 0x100000 ∧ a.toNat % d.length = 0 ∧ s.mayAccess g .write a.toNat d.length = false) := by
  refine ⟨by dsimp only [cleanAt]; decide +kernel, ?_⟩
  refine ⟨by decide +kernel, ?_⟩
  decide +kernel

theorem witness_FarLoads :
    (let s : State := lapT 0x20000000 0
    let i : Instr := Instr.lw 5 4 2 0
    let g : ThreadNo := 5
    let d : Reg := 4
    let a : Word := 0x20000000
    let n : Nat := 4
    let f : Nat → Word := fun v => BitVec.ofNat 32 v
    loadWord s i = some (g, d, a, n, f) ∧ s.runs g = true ∧ (s.thr g).rep = none ∧ (inCreel a.toNat = true ∨ inLap a.toNat = true) ∧ a.toNat % n = 0 ∧ s.mayAccess g .read a.toNat n = true) ∧
    (let s : State := lapT 0x10000000 0
    let i : Instr := Instr.lw 5 4 2 0
    let g : ThreadNo := 5
    let d : Reg := 4
    let a : Word := 0x10000000
    let n : Nat := 4
    let f : Nat → Word := fun v => BitVec.ofNat 32 v
    loadWord s i = some (g, d, a, n, f) ∧ s.runs g = true ∧ (s.thr g).rep = none ∧ (inCreel a.toNat = true ∨ inLap a.toNat = true) ∧ a.toNat % n = 0 ∧ s.mayAccess g .read a.toNat n = true) := by
  refine ⟨by dsimp only; exact ⟨rfl, by decide +kernel⟩, ?_⟩
  dsimp only; exact ⟨rfl, by decide +kernel⟩

theorem witness_FarStores :
    (let s : State := lapT 0x20000000 1
    let i : Instr := .sw 5 3 2 0
    let g : ThreadNo := 5
    let a : Word := 0x20000000
    let d : List Byte := [1, 0, 0, 0]
    let th := s.thr g
    storeWord s i = some (g, a, d) ∧ s.runs g = true ∧ (s.thr g).rep = none ∧ (inCreel a.toNat = true ∨ inLap a.toNat = true) ∧ a.toNat % d.length = 0 ∧ s.mayAccess g .write a.toNat d.length = true ∧ th.sbuf.length < 4) ∧
    (let s : State := laps.setThr 5 { regs2 0x13 0x20000000 1 with sbuf := List.replicate 3 (.doorbell 1 1) }
    let i : Instr := .sw 5 3 2 0
    let g : ThreadNo := 5
    let a : Word := 0x20000000
    let d : List Byte := [1, 0, 0, 0]
    let th := s.thr g
    storeWord s i = some (g, a, d) ∧ s.runs g = true ∧ (s.thr g).rep = none ∧ (inCreel a.toNat = true ∨ inLap a.toNat = true) ∧ a.toNat % d.length = 0 ∧ s.mayAccess g .write a.toNat d.length = true ∧ th.sbuf.length < 4) ∧
    (let s : State := lapT 0x13FFFFFC 1
    let i : Instr := .sw 5 3 2 0
    let g : ThreadNo := 5
    let a : Word := 0x13FFFFFC
    let d : List Byte := [1, 0, 0, 0]
    let th := s.thr g
    storeWord s i = some (g, a, d) ∧ s.runs g = true ∧ (s.thr g).rep = none ∧ (inCreel a.toNat = true ∨ inLap a.toNat = true) ∧ a.toNat % d.length = 0 ∧ s.mayAccess g .write a.toNat d.length = true ∧ th.sbuf.length < 4) ∧
    (let s : State := laps.setThr 5 { regs2 0x13 0x20000000 1 with sbuf := List.replicate 4 (.doorbell 1 1) }
    let i : Instr := .sw 5 3 2 0
    let g : ThreadNo := 5
    let a : Word := 0x20000000
    let d : List Byte := [1, 0, 0, 0]
    let th := s.thr g
    storeWord s i = some (g, a, d) ∧ s.runs g = true ∧ (s.thr g).rep = none ∧ (inCreel a.toNat = true ∨ inLap a.toNat = true) ∧ a.toNat % d.length = 0 ∧ s.mayAccess g .write a.toNat d.length = true ∧ 4 ≤ th.sbuf.length) ∧
    (let s : State := lapT 0x20000000 1
    let i : Instr := .sw 5 3 2 0
    let g : ThreadNo := 5
    let a : Word := 0x20000000
    let d : List Byte := [1, 0, 0, 0]
    let th := s.thr g
    storeWord s i = some (g, a, d) ∧ s.runs g = true ∧ (s.thr g).rep = none ∧ (inCreel a.toNat = true ∨ inLap a.toNat = true) ∧ a.toNat % d.length = 0 ∧ s.mayAccess g .write a.toNat d.length = true ∧ th.sbuf = [] ∧ th.stamps = [] ∧ firstAtBank s g a.toNat ∧ cleanAt s a.toNat d.length) ∧
    (let s : State := lapT 0x10C00000 1
    let i : Instr := .sw 5 3 2 0
    let g : ThreadNo := 5
    let a : Word := 0x10C00000
    let d : List Byte := [1, 0, 0, 0]
    let th := s.thr g
    storeWord s i = some (g, a, d) ∧ s.runs g = true ∧ (s.thr g).rep = none ∧ (inCreel a.toNat = true ∨ inLap a.toNat = true) ∧ a.toNat % d.length = 0 ∧ s.mayAccess g .write a.toNat d.length = true ∧ th.sbuf = [] ∧ th.stamps = [] ∧ firstAtBank s g a.toNat ∧ cleanAt s a.toNat d.length) := by
  iterate 4 refine ⟨by decide +kernel, ?_⟩
  refine ⟨by dsimp only [cleanAt, firstAtBank]; decide +kernel, ?_⟩
  dsimp only [cleanAt, firstAtBank]; decide +kernel

theorem witness_StoreBufferWaits :
    (let s : State := (on1 5 { rdy 0x13 with state := .waiting, sbuf := [.mem 0 0x10C00000 [1]], stamps := [9] }).setThr 6 { sbuf := [.mem 0 0x10C00000 [1]], stamps := [8] }
    let g : ThreadNo := 5
    let a : Word := 0
    let blk : Nat := 0x10C00000
    let d : List Byte := [1]
    let l : List SbEntry := []
    let th := s.thr g
    let first := s.presents (g / 32) (th.stamps.headD 0) blk
    th.state = .waiting ∧ th.sbuf = SbEntry.mem a blk d :: l ∧ d ≠ [] ∧ blk % d.length = 0 ∧ d.length ∈ [1, 2, 4, 8] ∧ cleanAt s blk d.length ∧ th.haltReq = false ∧ th.stopReq = false ∧ first = false) ∧
    (let s : State := laps.setThr 5 { regs2 0x13 0 0 with state := .waiting, sbuf := [.mem 0x10000000 0x10000000 [7]] }
    let g : ThreadNo := 5
    let a : Word := 0x10000000
    let blk : Nat := 0x10000000
    let d : List Byte := [7]
    let l : List SbEntry := []
    let th := s.thr g
    let first := s.presents (g / 32) (th.stamps.headD 0) blk
    th.state = .waiting ∧ th.sbuf = SbEntry.mem a blk d :: l ∧ d ≠ [] ∧ blk % d.length = 0 ∧ d.length ∈ [1, 2, 4, 8] ∧ cleanAt s blk d.length ∧ th.haltReq = false ∧ th.stopReq = false ∧ first = true) := by
  refine ⟨by dsimp only [cleanAt]; decide +kernel, ?_⟩
  dsimp only [cleanAt]; decide +kernel

theorem witness_Atomics :
    (let s : State := lapT 0xFFFFC 1
    let i : Instr := .amswap 5 4 2 3
    let g : ThreadNo := 5
    let d : Reg := 4
    let a : Word := 0xFFFFC
    let f : Word → Word := fun _ => 1
    let th := s.thr g
    let blk := if a.toNat < 0x100000 then lapBlk (g / 32) a.toNat else a.toNat
    atomicWord s i = some (g, d, a, f) ∧ s.runs g = true ∧ (a.toNat < 0x100000 ∨ inCreel a.toNat = true ∨ inLap a.toNat = true) ∧ a.toNat % 4 = 0 ∧ s.mayAccess g .atomic a.toNat 4 = true ∧ th.sbuf = [] ∧ firstAtBank s g blk ∧ cleanAt s blk 4 ∧ th.haltReq = false ∧ th.stopReq = false) ∧
    (let s : State := lapT 0x20000000 1
    let i : Instr := .amswap 5 4 2 3
    let g : ThreadNo := 5
    let d : Reg := 4
    let a : Word := 0x20000000
    let f : Word → Word := fun _ => 1
    let th := s.thr g
    let blk := if a.toNat < 0x100000 then lapBlk (g / 32) a.toNat else a.toNat
    atomicWord s i = some (g, d, a, f) ∧ s.runs g = true ∧ (a.toNat < 0x100000 ∨ inCreel a.toNat = true ∨ inLap a.toNat = true) ∧ a.toNat % 4 = 0 ∧ s.mayAccess g .atomic a.toNat 4 = true ∧ th.sbuf = [] ∧ firstAtBank s g blk ∧ cleanAt s blk 4 ∧ th.haltReq = false ∧ th.stopReq = false) ∧
    (let s : State := lapT 2 1
    let i : Instr := .amswap 5 4 2 3
    let g : ThreadNo := 5
    let d : Reg := 4
    let a : Word := 2
    let f : Word → Word := fun _ => 1
    atomicWord s i = some (g, d, a, f) ∧ s.runs g = true ∧ a.toNat % 4 ≠ 0) ∧
    (let s : State := lapT 0x80000000 1
    let i : Instr := .amswap 5 4 2 3
    let g : ThreadNo := 5
    let d : Reg := 4
    let a : Word := 0x80000000
    let f : Word → Word := fun _ => 1
    atomicWord s i = some (g, d, a, f) ∧ s.runs g = true ∧ a.toNat % 4 = 0 ∧ (inCtl a.toNat = true ∨ 0x80000000 ≤ a.toNat ∨ (0x08000000 ≤ a.toNat ∧ a.toNat < 0x08020000))) ∧
    (let s : State := lapT 0x08000000 1
    let i : Instr := .amswap 5 4 2 3
    let g : ThreadNo := 5
    let d : Reg := 4
    let a : Word := 0x08000000
    let f : Word → Word := fun _ => 1
    atomicWord s i = some (g, d, a, f) ∧ s.runs g = true ∧ a.toNat % 4 = 0 ∧ (inCtl a.toNat = true ∨ 0x80000000 ≤ a.toNat ∨ (0x08000000 ≤ a.toNat ∧ a.toNat < 0x08020000))) ∧
    (let s : State := lapT 0x40000000 1
    let i : Instr := .amswap 5 4 2 3
    let g : ThreadNo := 5
    let d : Reg := 4
    let a : Word := 0x40000000
    let f : Word → Word := fun _ => 1
    atomicWord s i = some (g, d, a, f) ∧ s.runs g = true ∧ a.toNat % 4 = 0 ∧ (inCtl a.toNat = true ∨ 0x80000000 ≤ a.toNat ∨ (0x08000000 ≤ a.toNat ∧ a.toNat < 0x08020000))) := by
  iterate 2 refine ⟨by dsimp only [cleanAt, firstAtBank]; exact ⟨rfl, by decide +kernel⟩, ?_⟩
  iterate 3 refine ⟨by dsimp only; exact ⟨rfl, by decide +kernel⟩, ?_⟩
  dsimp only; exact ⟨rfl, by decide +kernel⟩

theorem witness_Pairs :
    (let s : State := on1 5 (regs2 0x13 0 0)
    let g : ThreadNo := 5
    let a : ShortOp := ⟨1, 2, 4, 0⟩
    let b : ShortOp := ⟨1, 3, 5, 0⟩
    let th := s.thr g
    let t := (rdy 0x13).set 2 0
    let u := (rdy 0x13).set 3 0
    s.runs g = true ∧ pairCheck a b = none ∧ a.isMem = false ∧ b.isMem = false ∧ shortOp a th = .done t ∧ shortOp b th = .done u) ∧
    (let s : State := on1 5 (regs2 0x13 0 0)
    let g : ThreadNo := 5
    let a : ShortOp := ⟨0, 0, 0, 0⟩
    let b : ShortOp := ⟨0, 0, 0, 1⟩
    let e := Illegal.reserved
    s.runs g = true ∧ pairCheck a b = some e) ∧
    (let s : State := on1 5 (regs2 0x13 0 0)
    let g : ThreadNo := 5
    let a : ShortOp := ⟨1, 2, 4, 0⟩
    let b : ShortOp := ⟨1, 3, 5, 0⟩
    s.runs g = true ∧ a = ⟨1, 2, 4, 0⟩ ∧ b = ⟨1, 3, 5, 0⟩) := by
  iterate 2 refine ⟨by decide +kernel, ?_⟩
  decide +kernel

theorem witness_Repeats :
    (let s : State := repS (rdy 0x13)
    let g : ThreadNo := 5
    let f : Bool := false
    let r : Option Reg := none
    let k : Fin 4096 := 63
    let th := s.thr g
    let cnt := if th.rc ≠ 0 then th.rc.toNat else match r with | some x => (th.get x).toNat | none => k.val + 1
    let limit := if f then 4096 else 64
    s.runs g = true ∧ th.rep = none ∧ 0 < cnt ∧ cnt ≤ limit ∧ s.repBad g = false) ∧
    (let s : State := repS (rdy 0x13)
    let g : ThreadNo := 5
    let f : Bool := true
    let r : Option Reg := none
    let k : Fin 4096 := 4095
    let th := s.thr g
    let cnt := if th.rc ≠ 0 then th.rc.toNat else match r with | some x => (th.get x).toNat | none => k.val + 1
    let limit := if f then 4096 else 64
    s.runs g = true ∧ th.rep = none ∧ 0 < cnt ∧ cnt ≤ limit ∧ s.repBad g = false) ∧
    (let s : State := repS ((rdy 0x13).set 2 1)
    let g : ThreadNo := 5
    let f : Bool := false
    let r : Option Reg := some 2
    let k : Fin 4096 := 0
    let th := s.thr g
    let cnt := if th.rc ≠ 0 then th.rc.toNat else match r with | some x => (th.get x).toNat | none => k.val + 1
    let limit := if f then 4096 else 64
    s.runs g = true ∧ th.rep = none ∧ 0 < cnt ∧ cnt ≤ limit ∧ s.repBad g = false) ∧
    (let s : State := repS (rdy 0x13)
    let g : ThreadNo := 5
    let r : Option Reg := some 2
    let k : Fin 4096 := 0
    let th := s.thr g
    let cnt := if th.rc ≠ 0 then th.rc.toNat else match r with | some x => (th.get x).toNat | none => k.val + 1
    s.runs g = true ∧ th.rep = none ∧ cnt = 0) ∧
    (let s : State := repS (rdy 0x13)
    let g : ThreadNo := 5
    let f : Bool := false
    let r : Option Reg := none
    let k : Fin 4096 := 64
    let th := s.thr g
    let cnt := if th.rc ≠ 0 then th.rc.toNat else match r with | some x => (th.get x).toNat | none => k.val + 1
    let limit := if f then 4096 else 64
    s.runs g = true ∧ th.rep = none ∧ limit < cnt) ∧
    (let s : State := repS ((rdy 0x13).set 2 4097)
    let g : ThreadNo := 5
    let f : Bool := true
    let r : Option Reg := some 2
    let k : Fin 4096 := 0
    let th := s.thr g
    let cnt := if th.rc ≠ 0 then th.rc.toNat else match r with | some x => (th.get x).toNat | none => k.val + 1
    let limit := if f then 4096 else 64
    s.runs g = true ∧ th.rep = none ∧ limit < cnt) ∧
    (let s : State := { repS (rdy 0x13) with mem := memPuts [] (spoolBlk 0 0x104) (bytesLE 4 ((encodeWord (.halt 5)).map (·.2) |>.getD 0)) }
    let g : ThreadNo := 5
    let r : Option Reg := none
    let k : Fin 4096 := 0
    let th := s.thr g
    let cnt := if th.rc ≠ 0 then th.rc.toNat else match r with | some x => (th.get x).toNat | none => k.val + 1
    s.runs g = true ∧ th.rep = none ∧ 0 < cnt ∧ s.repBad g = true) ∧
    (let s : State := on1 5 { rdy 0x13 with rep := some false, rc := 2 }
    let g : ThreadNo := 5
    let th := s.thr g
    s.runs g = true ∧ th.rep ≠ none) := by
  iterate 7 refine ⟨by decide +kernel, ?_⟩
  decide +kernel

theorem witness_ChannelSends :
    (let s : State := chanS (regs2 0x13 0 9) 0 3
    let g : ThreadNo := 5
    let r : Reg := 2
    let th := s.thr g
    let n := g.val / 32
    let c := (th.get r).toNat % 128
    let x := s.chan n c
    let sender := c < 64 ∧ s.fld (addrWhlChcfg n c) fldWhlChcfg_EN = 1 ∧ s.fld (addrWhlChcfg n c) fldWhlChcfg_SND = g.val % 32
    s.runs g = true ∧ sender ∧ x.open_ < 4 ∧ x.discard = false ∧ x.q.length + x.flight.length < 4) ∧
    (let s : State := chanS (regs2 0x13 63 9) 63 3
    let g : ThreadNo := 5
    let r : Reg := 2
    let th := s.thr g
    let n := g.val / 32
    let c := (th.get r).toNat % 128
    let x := s.chan n c
    let sender := c < 64 ∧ s.fld (addrWhlChcfg n c) fldWhlChcfg_EN = 1 ∧ s.fld (addrWhlChcfg n c) fldWhlChcfg_SND = g.val % 32
    s.runs g = true ∧ sender ∧ x.open_ < 4 ∧ x.discard = false ∧ x.q.length + x.flight.length < 4) ∧
    (let s : State := chanS (regs2 0x13 0 9) 0 4
    let g : ThreadNo := 5
    let r : Reg := 2
    let th := s.thr g
    let n := g.val / 32
    let c := (th.get r).toNat % 128
    let x := s.chan n c
    let sender := c < 64 ∧ s.fld (addrWhlChcfg n c) fldWhlChcfg_EN = 1 ∧ s.fld (addrWhlChcfg n c) fldWhlChcfg_SND = g.val % 32
    s.runs g = true ∧ sender ∧ x.open_ < 4 ∧ x.discard = false ∧ 4 ≤ x.q.length + x.flight.length) ∧
    (let s : State := chanS (regs2 0x13 63 9) 63 4
    let g : ThreadNo := 5
    let r : Reg := 2
    let th := s.thr g
    let n := g.val / 32
    let c := (th.get r).toNat % 128
    let x := s.chan n c
    let sender := c < 64 ∧ s.fld (addrWhlChcfg n c) fldWhlChcfg_EN = 1 ∧ s.fld (addrWhlChcfg n c) fldWhlChcfg_SND = g.val % 32
    s.runs g = true ∧ sender ∧ x.open_ < 4 ∧ x.discard = false ∧ 4 ≤ x.q.length + x.flight.length) ∧
    (let s : State := on1 5 (regs2 0x13 63 0)
    let g : ThreadNo := 5
    let r : Reg := 2
    let th := s.thr g
    let n := g.val / 32
    let c := (th.get r).toNat % 128
    let x := s.chan n c
    let sender := c < 64 ∧ s.fld (addrWhlChcfg n c) fldWhlChcfg_EN = 1 ∧ s.fld (addrWhlChcfg n c) fldWhlChcfg_SND = g.val % 32
    s.runs g = true ∧ c < 64 ∧ (¬sender ∨ (x.discard = false ∧ 4 ≤ x.open_))) ∧
    (let s : State := (chanS (regs2 0x13 0 9) 0 0).setChan 0 0 { open_ := 4 }
    let g : ThreadNo := 5
    let r : Reg := 2
    let th := s.thr g
    let n := g.val / 32
    let c := (th.get r).toNat % 128
    let x := s.chan n c
    let sender := c < 64 ∧ s.fld (addrWhlChcfg n c) fldWhlChcfg_EN = 1 ∧ s.fld (addrWhlChcfg n c) fldWhlChcfg_SND = g.val % 32
    s.runs g = true ∧ c < 64 ∧ (¬sender ∨ (x.discard = false ∧ 4 ≤ x.open_))) ∧
    (let s : State := (chanS (regs2 0x13 63 9) 63 0).setChan 0 63 { discard := true, open_ := 4 }
    let g : ThreadNo := 5
    let r : Reg := 2
    let th := s.thr g
    let n := g.val / 32
    let c := (th.get r).toNat % 128
    let x := s.chan n c
    let sender := c < 64 ∧ s.fld (addrWhlChcfg n c) fldWhlChcfg_EN = 1 ∧ s.fld (addrWhlChcfg n c) fldWhlChcfg_SND = g.val % 32
    s.runs g = true ∧ sender ∧ x.discard = true) ∧
    (let s : State := on1 5 (regs2 0x13 80 0)
    let g : ThreadNo := 5
    let r : Reg := 2
    let th := s.thr g
    let c := (th.get r).toNat % 128
    s.runs g = true ∧ 80 ≤ c) ∧
    (let s : State := on1 5 (regs2 0x13 127 0)
    let g : ThreadNo := 5
    let r : Reg := 2
    let th := s.thr g
    let c := (th.get r).toNat % 128
    s.runs g = true ∧ 80 ≤ c) := by
  iterate 8 refine ⟨by decide +kernel, ?_⟩
  decide +kernel

theorem witness_ChannelReceives :
    (let s : State := chanS (regs2 0x13 63 9) 63 1
    let g : ThreadNo := 5
    let d : Reg := 4
    let r : Reg := 2
    let th := s.thr g
    let n := g.val / 32
    let c := (th.get r).toNat % 128
    let x := s.chan n c
    let named := c < 64 ∧ s.fld (addrWhlChcfg n c) fldWhlChcfg_RCV = g.val % 32
    let receiver := named ∧ s.fld (addrWhlChcfg n c) fldWhlChcfg_EN = 1
    let i := Instr.chtr 5 4 2
    s.runs g = true ∧ (i = .chr g d r ∨ i = .chtr g d r) ∧ receiver ∧ x.rflush = false ∧ x.q ≠ []) ∧
    (let s : State := chanS (regs2 0x13 63 9) 63 0
    let g : ThreadNo := 5
    let r : Reg := 2
    let th := s.thr g
    let n := g.val / 32
    let c := (th.get r).toNat % 128
    let x := s.chan n c
    let named := c < 64 ∧ s.fld (addrWhlChcfg n c) fldWhlChcfg_RCV = g.val % 32
    let receiver := named ∧ s.fld (addrWhlChcfg n c) fldWhlChcfg_EN = 1
    s.runs g = true ∧ receiver ∧ x.rflush = false ∧ x.q = []) ∧
    (let s : State := on1 5 (regs2 0x13 63 0)
    let g : ThreadNo := 5
    let d : Reg := 4
    let r : Reg := 2
    let th := s.thr g
    let n := g.val / 32
    let c := (th.get r).toNat % 128
    let named := c < 64 ∧ s.fld (addrWhlChcfg n c) fldWhlChcfg_RCV = g.val % 32
    let receiver := named ∧ s.fld (addrWhlChcfg n c) fldWhlChcfg_EN = 1
    let i := Instr.chr 5 4 2
    s.runs g = true ∧ (i = .chr g d r ∨ i = .chtr g d r) ∧ c < 64 ∧ ¬receiver) ∧
    (let s : State := on1 5 (regs2 0x13 63 0)
    let g : ThreadNo := 5
    let r : Reg := 2
    let th := s.thr g
    let c := (th.get r).toNat % 128
    s.runs g = true ∧ c < 64) := by
  iterate 3 refine ⟨by decide +kernel, ?_⟩
  decide +kernel

theorem witness_ChannelEvents :
    (let s : State := chanS { rdy 0x13 with state := .waiting, wait := .chanSend 63 } 63 3
    let g : ThreadNo := 5
    let c : Nat := 63
    let th := s.thr g
    let x := s.chan (g / 32) c
    (s.thr g).state = .waiting ∧ c < 64 ∧ th.wait = .chanSend c ∧ x.q.length + x.flight.length < 4) ∧
    (let s : State := chanS { rdy 0x13 with state := .waiting, wait := .chanSend 63 } 63 4
    let g : ThreadNo := 5
    let c : Nat := 63
    let th := s.thr g
    let x := s.chan (g / 32) c
    (s.thr g).state = .waiting ∧ c < 64 ∧ th.wait = .chanSend c ∧ x.discard = false ∧ 4 ≤ x.q.length + x.flight.length) ∧
    (let s : State := chanS { rdy 0x13 with state := .waiting, wait := .chanRecv 63 4 } 63 1
    let g : ThreadNo := 5
    let c : Nat := 63
    let r : Reg := 4
    let th := s.thr g
    let x := s.chan (g / 32) c
    (s.thr g).state = .waiting ∧ c < 64 ∧ th.wait = .chanRecv c r ∧ x.q ≠ []) ∧
    (let s : State := chanS { rdy 0x13 with state := .waiting, wait := .chanRecv 63 4 } 63 0
    let g : ThreadNo := 5
    let c : Nat := 63
    let r : Reg := 4
    let th := s.thr g
    let x := s.chan (g / 32) c
    (s.thr g).state = .waiting ∧ c < 64 ∧ th.wait = .chanRecv c r ∧ x.rflush = false ∧ x.q = []) ∧
    (let s : State := { State.reset with xchans := [(0, { flight := [(7, true)] })] }
    let n : WhorlNo := 0
    let x : Fin 16 := 0
    let w : Word × Bool := (7, true)
    let l : List (Word × Bool) := []
    (s.xend n x).flight = w :: l) ∧
    (let s : State := ((chanS (rdy 0x13) 0 0).setChan 0 0 { open_ := 1 })
    let n : WhorlNo := 0
    let c : Fin 80 := 0
    s.frameAging n c = true ∧ (s.whl n).notes = []) := by
  iterate 5 refine ⟨by decide +kernel, ?_⟩
  decide +kernel

theorem witness_UnitWords :
    (let s : State := on1 5 (regs2 0x13 1 0)
    let i : Instr := .balloc 5 4 2
    let g : ThreadNo := 5
    let o : UnitOp := .balloc
    let d : Reg := 4
    let a : Word := 1
    let b : Word := 0
    unitWord s i = some (g, o, d, a, b) ∧ s.runs g = true ∧ (s.thr g).rep = none ∧ (s.thr g).haltReq = false ∧ (s.thr g).stopReq = false) ∧
    (let s : State := laps.setThr 5 (regs2 0x13 0 0)
    let i : Instr := .sknOpen 5 4 2 3
    let g : ThreadNo := 5
    let o : UnitOp := .skn
    let d : Reg := 4
    let a : Word := 0
    let b : Word := 0
    unitWord s i = some (g, o, d, a, b) ∧ s.runs g = true ∧ (s.thr g).rep = none ∧ (s.thr g).haltReq = false ∧ (s.thr g).stopReq = false) := by
  refine ⟨by decide +kernel, ?_⟩
  decide +kernel

theorem witness_PinAndPortWords :
    (let s : State := on1 5 (regs2 0x13 0 0)
    let g : ThreadNo := 5
    let r : Reg := 2
    let th := s.thr g
    let prod := (th.get r).toNat % 64
    s.runs g = true ∧ s.rowZ prod = th.st.toNat.testBit 2) ∧
    (let s : State := on1 5 (regs2 0x17 0 0)
    let g : ThreadNo := 5
    let r : Reg := 2
    let th := s.thr g
    let prod := (th.get r).toNat % 64
    s.runs g = true ∧ s.rowZ prod ≠ th.st.toNat.testBit 2) ∧
    (let s : State := ((on1 5 (regs2 0x13 15 0)).setFld (addrPinOwn 15) fldPinOwn_WHORL 0).modPin 15 fun p => { p with edges := List.replicate 3 ⟨true, 5, false⟩ }
    let g : ThreadNo := 5
    let r : Reg := 2
    let q : Reg := 30
    let th := s.thr g
    let pin := (th.get r).toNat % 128
    s.runs g = true ∧ s.pinThreadOk g pin = true ∧ pin < 16 ∧ q.val % 2 = 0 ∧ (s.pin pin).edges.length < 4) ∧
    (let s : State := ((on1 5 (regs2 0x13 15 0)).setFld (addrPinOwn 15) fldPinOwn_WHORL 0).modPin 15 fun p => { p with edges := List.replicate 4 ⟨true, 5, false⟩ }
    let g : ThreadNo := 5
    let r : Reg := 2
    let q : Reg := 30
    let th := s.thr g
    let pin := (th.get r).toNat % 128
    s.runs g = true ∧ s.pinThreadOk g pin = true ∧ pin < 16 ∧ q.val % 2 = 0 ∧ 4 ≤ (s.pin pin).edges.length) ∧
    (let s : State := on1 5 (regs2 0x13 127 0)
    let g : ThreadNo := 5
    let r : Reg := 2
    let th := s.thr g
    let pin := (th.get r).toNat % 128
    s.runs g = true ∧ s.pinThreadOk g pin = false) ∧
    (let s : State := (on1 5 (rdy 0x13)).setFld (addrCxpCfg 3) fldCxpCfg_EN 1
    let g : ThreadNo := 5
    let j : Fin 4 := 3
    let th := s.thr g
    s.runs g = true ∧ s.fld (addrCxpCfg j) fldCxpCfg_EN = 1 ∧ th.st.toNat.testBit 2 = false) := by
  iterate 5 refine ⟨by decide +kernel, ?_⟩
  decide +kernel

theorem witness_PortAnswers :
    (let s : State := on1 5 { rdy 0x13 with state := .waiting, wait := .cxp 3 4 }
    let g : ThreadNo := 5
    let j : Nat := 3
    let d : Reg := 4
    (s.thr g).wait = .cxp j d ∧ (s.thr g).haltReq = false ∧ (s.thr g).stopReq = false ∧ (s.thr g).rep = none) := by decide +kernel

theorem witness_RegisterWriteChecks :
    (let s : State := laps.setThr 5 (rdy 0x10)
    let g : ThreadNo := 5
    let addr : Word := BitVec.ofNat 32 (addrWhlTpc 0 5)
    let v : Word := 4
    let a := addr.toNat / 4 * 4
    s.ctlDenied (s.reqOf g) a v = true ∧ s.runs g = true) ∧
    (let s : State := on1 5 (regs2 0x13 0 0)
    let g : ThreadNo := 5
    let addr : Word := 0x40000000
    let v : Word := 0
    let a := addr.toNat / 4 * 4
    s.ctlDenied (s.reqOf g) a v = false ∧ s.ctlGranted (s.reqOf g) true a = false ∧ s.runs g = true) ∧
    (let s : State := laps.setThr 5 (rdy 0x13)
    let g : ThreadNo := 5
    let addr : Word := BitVec.ofNat 32 (addrWhlTpc 39 31)
    let v : Word := 3
    let h : ThreadNo := 1279
    let a := addr.toNat / 4 * 4
    let tpc := addrWhlTpc (h / 32) (h % 32)
    a = tpc ∧ s.ctlGranted (s.reqOf g) true a = true ∧ (s.thr g).isSup = true ∧ (s.thr g).isZ = false ∧ v.toNat % 4 ≠ 0) ∧
    (let s : State := laps.setThr 5 (rdy 0x13)
    let who : Writer := .thread 5
    let addr : Word := 0x40000FFC
    let v : Word := 0
    let a := addr.toNat / 4 * 4
    locate a = none ∧ s.ctlGranted (s.reqBy who) true a = true ∧ v = 0) ∧
    (let s : State := laps.setThr 5 (rdy 0x13)
    let who : Writer := .thread 5
    let addr : Word := 0x40000FFC
    let v : Word := 1
    let a := addr.toNat / 4 * 4
    let b := rsvdFlag a
    locate a = none ∧ s.ctlGranted (s.reqBy who) true a = true ∧ v ≠ 0 ∧ (a / 2 ^ 24 ≠ 0x42 ∨ s.on b.1 b.2 = true)) ∧
    (let s : State := laps.setThr 5 (rdy 0x13)
    let who : Writer := .thread 5
    let addr : Word := 0x42FFFFFC
    let v : Word := 1
    let a := addr.toNat / 4 * 4
    let b := rsvdFlag a
    locate a = none ∧ s.ctlGranted (s.reqBy who) true a = true ∧ v ≠ 0 ∧ a / 2 ^ 24 = 0x42 ∧ s.on b.1 b.2 = false) ∧
    (let s : State := laps.setThr 5 (rdy 0x13)
    let who : Writer := .thread 5
    let addr : Word := BitVec.ofNat 32 (addrWhlTpc 39 31)
    let v : Word := 0xFFFFFFFC
    let row : RegRow := tpcRow
    let ix : List Nat := [39, 31]
    let a := addr.toNat / 4 * 4
    locate a = some (row, ix) ∧ row.name ∈ plainRegisters ∧ takesEffect s who row ix a a v) := by
  iterate 6 refine ⟨by decide +kernel, ?_⟩
  dsimp only [takesEffect]; decide +kernel

theorem witness_TurnsAndTables :
    (let s : State := State.reset.modWhl 39 fun x => { x with lastTurn := some 0 }
    let n : WhorlNo := 39
    let free := s.on (addrWhlStatus n) fldWhlStatus_GATED = false ∧ (s.whl n).lastTurn ≠ some s.cycle
    ¬free) ∧
    (let s : State := on1 0 (rdy 0x13)
    let n : WhorlNo := 0
    let e := s.rd (addrWhlSlota n (s.cycle % 64))
    let own := 32 * n.val + getF e fldWhlSlot_THREAD
    let names := isOn e fldWhlSlot_USE = true
    let free := s.on (addrWhlStatus n) fldWhlStatus_GATED = false ∧ (s.whl n).lastTurn ≠ some s.cycle
    free ∧ names ∧ canTurn s own) ∧
    (let s : State := on1 31 (rdy 0x13)
    let n : WhorlNo := 0
    let e := s.rd (addrWhlSlota n (s.cycle % 64))
    let own := 32 * n.val + getF e fldWhlSlot_THREAD
    let names := isOn e fldWhlSlot_USE = true
    let free := s.on (addrWhlStatus n) fldWhlStatus_GATED = false ∧ (s.whl n).lastTurn ≠ some s.cycle
    let rot := (s.whl n).rot
    let i := (31 : Nat)
    i < 32 ∧ free ∧ ¬(names ∧ canTurn s own) ∧ canTakeDonated s n (32 * n.val + (rot + 1 + i) % 32) ∧ (∀ j, j < i → ¬canTakeDonated s n (32 * n.val + (rot + 1 + j) % 32))) ∧
    (let s : State := State.reset
    let n : WhorlNo := 39
    let st := addrWhlSlotst n
    let due := s.cycle % 64 = 60 ∧ s.on st fldWhlSlotst_PEND = true ∧ s.on (addrWhlSlotctl n) fldWhlSlotctl_HOLD = false
    ¬due) ∧
    (let s : State := { State.reset.setFld (addrWhlSlotst 39) fldWhlSlotst_PEND 1 with cycle := 60 }
    let n : WhorlNo := 39
    let st := addrWhlSlotst n
    let due := s.cycle % 64 = 60 ∧ s.on st fldWhlSlotst_PEND = true ∧ s.on (addrWhlSlotctl n) fldWhlSlotctl_HOLD = false
    let w := fun (e : Nat) => s.rd (addrWhlSlot n (e % 64))
    let good := (∃ e, e < 64 ∧ entryNames (w e) 0 = true) ∧ ∀ e, e < 64 → ∀ d, d < 3 → isOn (w e) fldWhlSlot_USE = true → entryNames (w (e + 63 - d)) (getF (w e) fldWhlSlot_THREAD) = false
    due ∧ good) ∧
    (let s : State := { (State.reset.setFld (addrWhlSlotst 39) fldWhlSlotst_PEND 1).setFld (addrWhlSlot 39 1) fldWhlSlot_THREAD 0 with cycle := 60 }
    let n : WhorlNo := 39
    let st := addrWhlSlotst n
    let due := s.cycle % 64 = 60 ∧ s.on st fldWhlSlotst_PEND = true ∧ s.on (addrWhlSlotctl n) fldWhlSlotctl_HOLD = false
    let w := fun (e : Nat) => s.rd (addrWhlSlot n (e % 64))
    let good := (∃ e, e < 64 ∧ entryNames (w e) 0 = true) ∧ ∀ e, e < 64 → ∀ d, d < 3 → isOn (w e) fldWhlSlot_USE = true → entryNames (w (e + 63 - d)) (getF (w e) fldWhlSlot_THREAD) = false
    due ∧ ¬good) ∧
    (let s : State := State.reset
    let n : WhorlNo := 39
    ((s.whl n).passed = none ∨ s.cycle % 64 ≠ 0)) ∧
    (let s : State := State.reset.modWhl 39 fun x => { x with passed := some [] }
    let n : WhorlNo := 39
    let l := ([] : List Word)
    (s.whl n).passed = some l ∧ s.cycle % 64 = 0) := by
  refine ⟨by decide +kernel, ?_⟩
  refine ⟨by dsimp only [canTurn]; decide +kernel, ?_⟩
  refine ⟨by dsimp only [canTurn, canTakeDonated]; decide +kernel, ?_⟩
  iterate 4 refine ⟨by decide +kernel, ?_⟩
  decide +kernel

theorem witness_WhorlEvents :
    (let s : State := ((on1 1279 { rdy 0x13 with dlArmed := true }).wr (addrWhlDlhi 39 31) 0).wr (addrWhlDllo 39 31) 0
    let g : ThreadNo := 1279
    let v := (s.rd (addrWhlDlhi (g / 32) (g % 32))).toNat * 2 ^ 32 + (s.rd (addrWhlDllo (g / 32) (g % 32))).toNat
    let due := (s.thr g).dlArmed = true ∧ v ≤ s.tb64
    due) ∧
    (let s : State := (on1 5 { rdy 0x13 with dlArmed := true }).wr (addrWhlDllo 0 5) 1
    let g : ThreadNo := 5
    let v := (s.rd (addrWhlDlhi (g / 32) (g % 32))).toNat * 2 ^ 32 + (s.rd (addrWhlDllo (g / 32) (g % 32))).toNat
    let due := (s.thr g).dlArmed = true ∧ v ≤ s.tb64
    ¬due) ∧
    (let s : State := on1 5 { rdy 0x13 with state := .waiting, wait := .event 1 }
    let g : ThreadNo := 5
    let m : Word := 1
    (s.thr g).wait = .event m ∧ (s.thr g).state = .waiting) ∧
    (let s : State := { State.reset with uev := [0xC40] }
    let k : Fin 65536 := 0xC40
    k.val ∈ s.uev) ∧
    (let s : State := on1 1279 (rdy 0x13)
    let n : WhorlNo := 39
    let ready := ∃ h, h < 32 ∧ (s.thr (32 * n.val + h)).state = .ready
    ready) ∧
    (let s : State := State.reset
    let n : WhorlNo := 39
    let ready := ∃ h, h < 32 ∧ (s.thr (32 * n.val + h)).state = .ready
    ¬ready) ∧
    (let s : State := (on1 1279 (rdy 0x13)).setFld (addrWhlStatus 39) fldWhlStatus_GATED 1
    let n : WhorlNo := 39
    let a := addrWhlStatus n
    let ready := ∃ h, h < 32 ∧ (s.thr (32 * n.val + h)).state = .ready
    s.on a fldWhlStatus_GATED = true ∧ ready) ∧
    (let s : State := State.reset
    let n : WhorlNo := 39
    let a := addrWhlStatus n
    let ready := ∃ h, h < 32 ∧ (s.thr (32 * n.val + h)).state = .ready
    (s.on a fldWhlStatus_GATED = false ∨ ¬ready)) ∧
    (let s : State := State.reset
    let n : WhorlNo := 39
    s.stalled n = false) ∧
    (let s : State := (State.reset.modWhl 0 fun x => { x with stallArm := true }).setThr 5 { rdy 0x13 with state := .waiting, wait := .chanSend 0 }
    let n : WhorlNo := 0
    s.stalled n = true ∧ (s.whl n).notes.length < 160) ∧
    (let s : State := State.reset.setFld addrWhlQwatch fldWhlQwatch_EN 0
    let due := s.on addrWhlQwatch fldWhlQwatch_EN = true ∧ s.quietAt + 2 ^ 20 ≤ s.cycle
    ¬due) ∧
    (let s : State := { State.reset with cycle := 2 ^ 20 }
    let due := s.on addrWhlQwatch fldWhlQwatch_EN = true ∧ s.quietAt + 2 ^ 20 ≤ s.cycle
    due ∧ s.escq.length < 128) := by
  iterate 11 refine ⟨by decide +kernel, ?_⟩
  decide +kernel

theorem witness_BobbinAnswers :
    (let s : State := (State.reset).setThr 5 (unitT .bpop 0x20000 0)
    let g : ThreadNo := 5
    let d : Reg := 4
    let a : Word := 0x20000
    let k := a.toNat % 65536
    let bad := bobbinCheck s g k (2 ^ 17 ≤ a.toNat) [1, 2, 3, 4]
    let clean := cleanAt s (bdAddr k 0) 32
    let x := (5 : Nat)
    awaitsUnit s g .bpop d a 0 ∧ bad = some x ∧ clean) ∧
    (let s : State := (State.reset).setThr 5 (unitT .bpop 0xFFFF 0)
    let g : ThreadNo := 5
    let d : Reg := 4
    let a : Word := 0xFFFF
    let k := a.toNat % 65536
    let bad := bobbinCheck s g k (2 ^ 17 ≤ a.toNat) [1, 2, 3, 4]
    let clean := cleanAt s (bdAddr k 0) 32
    let x := (1 : Nat)
    awaitsUnit s g .bpop d a 0 ∧ bad = some x ∧ clean) ∧
    (let s : State := (bobS State.reset 0xFFFF 2 6 5).setThr 5 (unitT .bpop 0xFFFF 0)
    let g : ThreadNo := 5
    let d : Reg := 4
    let a : Word := 0xFFFF
    let k := a.toNat % 65536
    let bad := bobbinCheck s g k (2 ^ 17 ≤ a.toNat) [1, 2, 3, 4]
    let rel := a.toNat.testBit 16
    awaitsUnit s g .bpop d a 0 ∧ bad = none ∧ rel = false) ∧
    (let s : State := (bobS State.reset 1 2 5 5).setThr 5 (unitT .bpop 0x10001 0)
    let g : ThreadNo := 5
    let d : Reg := 4
    let a : Word := 0x10001
    let k := a.toNat % 65536
    let bad := bobbinCheck s g k (2 ^ 17 ≤ a.toNat) [1, 2, 3, 4]
    let rel := a.toNat.testBit 16
    let clean := cleanAt s (bdAddr k 0) 32
    awaitsUnit s g .bpop d a 0 ∧ bad = none ∧ rel = true ∧ s.prod k = s.cons k ∧ clean) ∧
    (let s : State := (bobS State.reset 1 2 6 5).setThr 5 (unitT .bpop 0x10001 0)
    let g : ThreadNo := 5
    let d : Reg := 4
    let a : Word := 0x10001
    let k := a.toNat % 65536
    let bad := bobbinCheck s g k (2 ^ 17 ≤ a.toNat) [1, 2, 3, 4]
    let rel := a.toNat.testBit 16
    awaitsUnit s g .bpop d a 0 ∧ bad = none ∧ rel = true ∧ s.prod k ≠ s.cons k ∧ cleanAt s (bdAddr k 4) 8 ∧ s.bobType k ≠ 1 ∧ s.slipWait = []) ∧
    (let s : State := (State.reset).setThr 5 (unitT .balloc 0x80 0)
    let g : ThreadNo := 5
    let d : Reg := 4
    let a : Word := 0x80
    let ty := a.toNat / 16 % 8
    awaitsUnit s g .balloc d a 0 ∧ (128 ≤ a.toNat ∨ 12 < a.toNat % 16 ∨ ty < 2 ∨ 4 < ty)) ∧
    (let s : State := (State.reset).setThr 5 (unitT .balloc 0x2D 0)
    let g : ThreadNo := 5
    let d : Reg := 4
    let a : Word := 0x2D
    let ty := a.toNat / 16 % 8
    awaitsUnit s g .balloc d a 0 ∧ (128 ≤ a.toNat ∨ 12 < a.toNat % 16 ∨ ty < 2 ∨ 4 < ty)) ∧
    (let s : State := (State.reset).setThr 5 (unitT .balloc 0x10 0)
    let g : ThreadNo := 5
    let d : Reg := 4
    let a : Word := 0x10
    let ty := a.toNat / 16 % 8
    awaitsUnit s g .balloc d a 0 ∧ (128 ≤ a.toNat ∨ 12 < a.toNat % 16 ∨ ty < 2 ∨ 4 < ty)) ∧
    (let s : State := (State.reset).setThr 5 (unitT .balloc 0x50 0)
    let g : ThreadNo := 5
    let d : Reg := 4
    let a : Word := 0x50
    let ty := a.toNat / 16 % 8
    awaitsUnit s g .balloc d a 0 ∧ (128 ≤ a.toNat ∨ 12 < a.toNat % 16 ∨ ty < 2 ∨ 4 < ty)) ∧
    (let s : State := (State.reset).setThr 5 (unitT .balloc 0x20 0) |>.wr (addrWhlTshare 0 5) 0
    let g : ThreadNo := 5
    let d : Reg := 4
    let a : Word := 0x20
    let ty := a.toNat / 16 % 8
    let use := addrWhlTuse (g / 32) (g % 32)
    let full := s.fld (addrWhlTshare (g / 32) (g % 32)) fldWhlTshare_BOBCEIL ≤ s.fld use fldWhlTuse_BOBS
    awaitsUnit s g .balloc d a 0 ∧ a.toNat < 128 ∧ a.toNat % 16 ≤ 12 ∧ 2 ≤ ty ∧ ty ≤ 4 ∧ full) ∧
    (let s : State := (State.reset.wr (addrWhlTshare 0 5) 0xFFFFFFFF).setThr 5 (unitT .balloc 0x4C 0)
    let g : ThreadNo := 5
    let d : Reg := 4
    let a : Word := 0x4C
    let ty := a.toNat / 16 % 8
    let use := addrWhlTuse (g / 32) (g % 32)
    let full := s.fld (addrWhlTshare (g / 32) (g % 32)) fldWhlTshare_BOBCEIL ≤ s.fld use fldWhlTuse_BOBS
    awaitsUnit s g .balloc d a 0 ∧ a.toNat < 128 ∧ a.toNat % 16 ≤ 12 ∧ 2 ≤ ty ∧ ty ≤ 4 ∧ ¬full ∧ d ≠ 0) ∧
    (let s : State := (State.reset).setThr 5 (unitT .bfree 0x10000 0)
    let g : ThreadNo := 5
    let d : Reg := 4
    let a : Word := 0x10000
    let k := a.toNat % 65536
    let dyn := (tget (fun _ => none) s.bobDyn k).isSome
    let bad := if 65536 ≤ a.toNat then some 5 else if s.bobValid k = false then some 1 else if s.bdf k 0 bdOWNER ≠ g.val then some 2 else if dyn = false then some 3 else none
    let x := (5 : Nat)
    awaitsUnit s g .bfree d a 0 ∧ bad = some x ∧ cleanAt s (bdAddr k 0) 32) ∧
    (let s : State := ({ bobS State.reset 1 2 5 5 with bobDyn := [(1, some 3)] }).setThr 5 (unitT .bfree 1 0)
    let g : ThreadNo := 5
    let d : Reg := 4
    let a : Word := 1
    let k := a.toNat % 65536
    let dyn := (tget (fun _ => none) s.bobDyn k).isSome
    let bad := if 65536 ≤ a.toNat then some 5 else if s.bobValid k = false then some 1 else if s.bdf k 0 bdOWNER ≠ g.val then some 2 else if dyn = false then some 3 else none
    awaitsUnit s g .bfree d a 0 ∧ bad = none ∧ s.bobType k ≠ 0 ∧ cleanAt s (bdAddr k 7) 4) ∧
    (let s : State := (State.reset).setThr 5 (unitT .bcrd 0x1000 0)
    let g : ThreadNo := 5
    let d : Reg := 4
    let a : Word := 0x1000
    let b : Word := 0
    awaitsUnit s g .bcrd d a b ∧ 4096 ≤ a.toNat) ∧
    (let s : State := (State.reset.wr (addrLgrPattr 0xFFF) 1).setThr 5 (unitT .bcrd 0xFFF 0)
    let g : ThreadNo := 5
    let d : Reg := 4
    let a : Word := 0xFFF
    let b : Word := 0
    let p := a.toNat % 4096
    awaitsUnit s g .bcrd d a b ∧ a.toNat < 4096 ∧ s.poolZ p ≠ (s.thr g).isZ) ∧
    (let s : State := (creditS 3 2 State.reset).setThr 5 (unitT .bcrd 1 4)
    let g : ThreadNo := 5
    let d : Reg := 4
    let a : Word := 1
    let b : Word := 4
    let p := a.toNat % 4096
    let f := s.ctr p .free
    let h := s.ctr p .held
    awaitsUnit s g .bcrd d a b ∧ a.toNat < 4096 ∧ s.poolZ p = (s.thr g).isZ ∧ ((0 ≤ b.toInt ∧ f < b.toInt.natAbs) ∨ (b.toInt < 0 ∧ h < b.toInt.natAbs))) ∧
    (let s : State := (creditS 3 2 State.reset).setThr 5 (unitT .bcrd 1 (-3))
    let g : ThreadNo := 5
    let d : Reg := 4
    let a : Word := 1
    let b : Word := (-3)
    let p := a.toNat % 4096
    let f := s.ctr p .free
    let h := s.ctr p .held
    awaitsUnit s g .bcrd d a b ∧ a.toNat < 4096 ∧ s.poolZ p = (s.thr g).isZ ∧ ((0 ≤ b.toInt ∧ f < b.toInt.natAbs) ∨ (b.toInt < 0 ∧ h < b.toInt.natAbs))) ∧
    (let s : State := (creditS 3 2 State.reset).setThr 5 (unitT .bcrd 1 3)
    let g : ThreadNo := 5
    let d : Reg := 4
    let a : Word := 1
    let b : Word := 3
    let p := a.toNat % 4096
    let f := s.ctr p .free
    let h := s.ctr p .held
    let x := (0x12000010 : Nat)
    awaitsUnit s g .bcrd d a b ∧ a.toNat < 4096 ∧ s.poolZ p = (s.thr g).isZ ∧ s.lgrSet p = some x ∧ cleanAt s x 16 ∧ f + h < 2 ^ 32 ∧ 0 ≤ b.toInt ∧ b.toInt.natAbs ≤ f) ∧
    (let s : State := (creditS 3 2 State.reset).setThr 5 (unitT .bcrd 1 (-2))
    let g : ThreadNo := 5
    let d : Reg := 4
    let a : Word := 1
    let b : Word := (-2)
    let p := a.toNat % 4096
    let f := s.ctr p .free
    let h := s.ctr p .held
    let x := (0x12000010 : Nat)
    awaitsUnit s g .bcrd d a b ∧ a.toNat < 4096 ∧ s.poolZ p = (s.thr g).isZ ∧ s.lgrSet p = some x ∧ cleanAt s x 16 ∧ f + h < 2 ^ 32 ∧ b.toInt < 0 ∧ b.toInt.natAbs ≤ h) := by
  iterate 2 refine ⟨by dsimp only [cleanAt, awaitsUnit]; decide +kernel, ?_⟩
  refine ⟨by dsimp only [awaitsUnit]; decide +kernel, ?_⟩
  iterate 2 refine ⟨by dsimp only [cleanAt, awaitsUnit]; decide +kernel, ?_⟩
  iterate 6 refine ⟨by dsimp only [awaitsUnit]; decide +kernel, ?_⟩
  iterate 2 refine ⟨by dsimp only [cleanAt, awaitsUnit]; decide +kernel, ?_⟩
  iterate 4 refine ⟨by dsimp only [awaitsUnit]; decide +kernel, ?_⟩
  refine ⟨by dsimp only [cleanAt, awaitsUnit]; decide +kernel, ?_⟩
  dsimp only [cleanAt, awaitsUnit]; decide +kernel

theorem witness_DoorbellsAndLedger :
    (let s : State := (bobS State.reset 1 0 5 4).setThr 5 (regs2 0x13 0x10000 1)
    let g : ThreadNo := 5
    let r : Reg := 2
    let th := s.thr g
    let k := (th.get r).toNat % 65536
    let bad := bobbinCheck s g k (65536 ≤ (th.get r).toNat) [0, 4]
    let x := (5 : Nat)
    s.runs g = true ∧ bad = some x) ∧
    (let s : State := (bobS State.reset 1 0 5 4).setThr 5 (regs2 0x13 2 1)
    let g : ThreadNo := 5
    let r : Reg := 2
    let th := s.thr g
    let k := (th.get r).toNat % 65536
    let bad := bobbinCheck s g k (65536 ≤ (th.get r).toNat) [0, 4]
    let x := (1 : Nat)
    s.runs g = true ∧ bad = some x) ∧
    (let s : State := (bobS State.reset 1 0 5 4).setThr 5 (regs2 0x13 1 0)
    let g : ThreadNo := 5
    let r : Reg := 2
    let q : Reg := 3
    let th := s.thr g
    let k := (th.get r).toNat % 65536
    let n := (th.get q).toNat
    let bad := bobbinCheck s g k (65536 ≤ (th.get r).toNat) [0, 4]
    s.runs g = true ∧ bad = none ∧ (n = 0 ∨ s.bobN k < n)) ∧
    (let s : State := (bobS State.reset 1 0 5 4).setThr 5 (regs2 0x13 1 0xFFFFFFFF)
    let g : ThreadNo := 5
    let r : Reg := 2
    let q : Reg := 3
    let th := s.thr g
    let k := (th.get r).toNat % 65536
    let n := (th.get q).toNat
    let bad := bobbinCheck s g k (65536 ≤ (th.get r).toNat) [0, 4]
    s.runs g = true ∧ bad = none ∧ (n = 0 ∨ s.bobN k < n)) ∧
    (let s : State := (bobS State.reset 1 0 5 4).setThr 5 (regs2 0x13 1 1)
    let g : ThreadNo := 5
    let r : Reg := 2
    let q : Reg := 3
    let th := s.thr g
    let k := (th.get r).toNat % 65536
    let n := (th.get q).toNat
    let bad := bobbinCheck s g k (65536 ≤ (th.get r).toNat) [0, 4]
    s.runs g = true ∧ bad = none ∧ 0 < n ∧ n ≤ s.bobN k ∧ th.sbuf.length < 4) ∧
    (let s : State := (bobS State.reset 1 0 5 4).setThr 5 { rdy 0x13 with sbuf := [.doorbell 1 1] }
    let g : ThreadNo := 5
    let k : Nat := 1
    let n : Nat := 1
    let l : List SbEntry := []
    let taken := s.bobOn k = true ∧ (s.bobType k = 0 ∨ s.bobType k = 4) ∧ s.bobFill k + n ≤ s.bobN k
    (s.thr g).sbuf = .doorbell k n :: l ∧ taken ∧ cleanAt s (bdAddr k 4) 4) ∧
    (let s : State := (bobS State.reset 1 0 5 4).setThr 5 { rdy 0x13 with sbuf := [.doorbell 1 0xFFFFFFFF] }
    let g : ThreadNo := 5
    let k : Nat := 1
    let n : Nat := 0xFFFFFFFF
    let l : List SbEntry := []
    let taken := s.bobOn k = true ∧ (s.bobType k = 0 ∨ s.bobType k = 4) ∧ s.bobFill k + n ≤ s.bobN k
    (s.thr g).sbuf = .doorbell k n :: l ∧ ¬taken ∧ (s.thr g).state ≠ .halted ∧ (s.thr g).state ≠ .faulted) ∧
    (let s : State := State.reset
    (∀ k, k < 5504 → s.setOk k = true ∧ ∀ x, s.lgrSet k = some x → cleanAt s x 16)) ∧
    (let s : State := putW (State.reset.wr addrLgrBase 0x12000000) [(0x12000000, 5)]
    let k : Nat := 0
    k < 5504 ∧ s.lgrSet 0 ≠ none ∧ s.setOk k = false ∧ s.setSound k = true ∧ (∀ j, j < k → s.setOk j = true)) := by
  iterate 5 refine ⟨by decide +kernel, ?_⟩
  refine ⟨by dsimp only [cleanAt]; decide +kernel, ?_⟩
  refine ⟨by decide +kernel, ?_⟩
  refine ⟨by (try dsimp only [cleanAt]) <;> (repeat' apply And.intro) <;> first | (intro k _; exact ⟨lgrOff State.reset k (by decide +kernel), fun x hx => by rw [lgrNone State.reset k (by decide +kernel)] at hx; cases hx⟩), ?_⟩
  decide +kernel

theorem witness_MessagesSent :
    (let s : State := State.reset
    let k : Fin 65536 := 65535
    cleanAt s (bdAddr k 0) 32 ∧ (s.bobServes k = false ∨ s.unitState (addrBobBctl k) < 2 ∨ s.bobType k ≠ 0 ∨ s.txAvail k = 0)) ∧
    (let s : State := txS (slip 1 0 63) 0
    let k : Fin 65536 := 0
    let i := s.txNextIdx k
    let w := slipWords (bytesAt s (s.entryAddr k i) 64)
    let c := slCells w
    let pool := s.poolOf k
    slipThere s k ∧ slOP w ≠ 0 ∧ slINL w = false ∧ s.slipFault k w = none ∧ s.ctr pool .free < c) ∧
    (let s : State := txS (slip 1 0 63) 9
    let k : Fin 65536 := 0
    let i := s.txNextIdx k
    let w := slipWords (bytesAt s (s.entryAddr k i) 64)
    let c := slCells w
    let pool := s.poolOf k
    let l := s.txOf k
    slipThere s k ∧ slOP w ≠ 0 ∧ slINL w = false ∧ s.slipFault k w = none ∧ c ≤ s.ctr pool .free ∧ s.ctr pool .held + c < 2 ^ 32 ∧ (∀ m ∈ l.head?, m.stage = .held ∨ m.stage = .running) ∧ (∀ x ∈ s.lgrSet pool, cleanAt s x 16)) ∧
    (let s : State := atNext ((txS (slip 3 0 63) 9).setTx 0 [heldMsg (slip 1 1 0)]) (slip 3 0 63)
    let k : Fin 65536 := 0
    let i := s.txNextIdx k
    let w := slipWords (bytesAt s (s.entryAddr k i) 64)
    let l := s.txOf k
    let f := 1
    slipThere s k ∧ s.slipFault k w = some f ∧ (∃ m ∈ l.head?, m.stage = .held ∨ m.stage = .running) ∧ (slINL w = true → 2 ≤ s.txAvail k)) ∧
    (let s : State := ((((txS (slip 1 0 63) 9).setTx 0 [heldMsg (slip 1 1 0)]).setFld addrRteId fldRteId_SET 1).setFld addrRteId fldRteId_DEVID 2)
    let k : Fin 65536 := 0
    let m : TxMsg := heldMsg (slip 1 1 0)
    let d := slDST m.words
    mayBegin s k m ∧ s.on (addrRtePathi d) fldRtePathi_V = false) ∧
    (let s : State := (((((((((txS (slip 1 0 63) 9).setTx 0 [heldMsg (slip 1 1 0)]).setFld addrRteId fldRteId_SET 1).setFld addrRteId fldRteId_DEVID 2)).setFld (addrRtePathi 0) fldRtePathi_V 1).setFld (addrRtePathi 0) fldRtePathi_PLEN 1).wr (addrRteCandlo 0) 0x00010300).setFld (addrLnkState 0) fldLnkState_LSTATE 3)
    let k : Fin 65536 := 0
    let m : TxMsg := heldMsg (slip 1 1 0)
    let d := slDST m.words
    let st := s.fld (addrRteStep d) fldRteStep_STEP
    let q := s.stepPort d st
    mayBegin s k m ∧ s.on (addrRtePathi d) fldRtePathi_V = true ∧ st ≤ s.fld (addrRtePathi d) fldRtePathi_PLEN ∧ s.usable q = true ∧ (s.role q ≠ 2 ∨ s.isPartner q d = true) ∧ slINL m.words = true) ∧
    (let s : State := State.reset.modPort 143 fun t => { t with framing := [(0, { cell := ⟨0, []⟩, bad := false })] }
    let p : PortNo := 143
    let pos : Nat := 0
    let c : QCell := { cell := ⟨0, []⟩, bad := false }
    let r : List (Nat × QCell) := []
    (s.port p).framing = (pos, c) :: r ∧ c.bob = none ∧ c.bad = false) ∧
    (let s : State := State.reset.modPort 143 fun t => { t with framing := [(0, { cell := ⟨0, []⟩, bad := true })] }
    let p : PortNo := 143
    let pos : Nat := 0
    let c : QCell := { cell := ⟨0, []⟩, bad := true }
    let r : List (Nat × QCell) := []
    (s.port p).framing = (pos, c) :: r ∧ c.bob = none ∧ c.bad = true) := by
  refine ⟨by dsimp only [cleanAt]; decide +kernel, ?_⟩
  refine ⟨by dsimp only [slipThere, cleanAt]; decide +kernel, ?_⟩
  refine ⟨by dsimp only [cleanAt, slipThere]; decide +kernel, ?_⟩
  refine ⟨by dsimp only [slipThere, cleanAt]; decide +kernel, ?_⟩
  iterate 2 refine ⟨by dsimp only [mayBegin]; decide +kernel, ?_⟩
  refine ⟨by decide +kernel, ?_⟩
  decide +kernel

theorem witness_LaneReceive :
    (let s : State := State.reset
    let p : PortNo := 143
    let l : List (BitVec 10) := List.replicate 272 0
    let raw := padTo 272 0 (l.map (·.toNat))
    let d := (List.replicate 272 0, 0, false)
    noSnag s p ∧ decodeEither raw = some d) ∧
    (let s : State := State.reset
    let p : PortNo := 143
    let l : List (BitVec 10) := (List.range 272).map fun i => if i < 12 then BitVec.ofNat 10 (i * i * 7 + 3) else 0
    let raw := padTo 272 0 (l.map (·.toNat))
    noSnag s p ∧ decodeEither raw = none) ∧
    (let s : State := linkS 143 3 State.reset
    let p : PortNo := 143
    let due := s.lnkOn p fldLnkState_SFLOCK = true ∧ (s.port p).cntOk = false ∧ s.lstate p ≠ 0
    due) ∧
    (let s : State := State.reset
    let p : PortNo := 143
    let due := s.lnkOn p fldLnkState_SFLOCK = true ∧ (s.port p).cntOk = false ∧ s.lstate p ≠ 0
    ¬due) ∧
    (let s : State := linkS 143 1 State.reset
    let p : PortNo := 143
    let c : Cell := ctlCell 3 []
    verified s p c ∧ ctlWellFormed c = true ∧ cCT c = 5 ∧ cSUB c = 3 ∧ s.lstate p < 3) := by
  iterate 2 refine ⟨by dsimp only [noSnag]; decide +kernel, ?_⟩
  iterate 2 refine ⟨by decide +kernel, ?_⟩
  dsimp only [verified]; decide +kernel

theorem witness_CellsReceived :
    (let s : State := (linkS 143 3 State.reset).modPort 143 fun t => { t with granted := List.replicate 7 1, rxHeld := List.replicate 7 0 }
    let p : PortNo := 143
    let c : Cell := dataCell 3 0 1 0
    plainCell s p c ∧ (s.port p).tagFails.length < 16) ∧
    (let s : State := (linkS 143 3 State.reset).modPort 143 fun t => { t with granted := List.replicate 7 1, rxHeld := List.replicate 7 0 }
    let p : PortNo := 143
    let c : Cell := dataCell 3 0 1 (2 ^ 20 - 1)
    plainCell s p c ∧ cLSEQ c ≠ s.eseq p ∧ 2 ^ 19 ≤ seqDiff (cLSEQ c) (s.eseq p)) ∧
    (let s : State := (linkS 143 3 State.reset).modPort 143 fun t => { t with granted := List.replicate 7 1, rxHeld := List.replicate 7 0 }
    let p : PortNo := 143
    let c : Cell := dataCell 3 0 1 (2 ^ 19)
    plainCell s p c ∧ cLSEQ c ≠ s.eseq p ∧ 2 ^ 19 ≤ seqDiff (cLSEQ c) (s.eseq p)) ∧
    (let s : State := (linkS 143 3 State.reset).modPort 143 fun t => { t with granted := List.replicate 7 1, rxHeld := List.replicate 7 0 }
    let p : PortNo := 143
    let c : Cell := dataCell 3 0 1 1
    plainCell s p c ∧ cLSEQ c ≠ s.eseq p ∧ seqDiff (cLSEQ c) (s.eseq p) < 2 ^ 19) ∧
    (let s : State := (linkS 143 3 State.reset).modPort 143 fun t => { t with granted := List.replicate 7 1, rxHeld := List.replicate 7 0 }
    let p : PortNo := 143
    let c : Cell := dataCell 3 0 1 (2 ^ 19 - 1)
    plainCell s p c ∧ cLSEQ c ≠ s.eseq p ∧ seqDiff (cLSEQ c) (s.eseq p) < 2 ^ 19) ∧
    (let s : State := let s := identS ((linkS 143 3 State.reset).modPort 143 fun t => { t with granted := List.replicate 7 1, rxHeld := List.replicate 7 0 }); let s := (((s.setFld (addrMemCpattr 31) fldMemCpattr_V 1).setFld (addrMemCpattr 31) fldMemCpattr_USE 2).setFld (addrMemCpbase 31) fldMemCpbase_BASE 0x1300).setFld (addrMemCplim 31) fldMemCplim_LIMIT 0x1300; putW (s.wr addrLgrBase 0x12000000) (words (0x12000000 + 16 * s.rq) [1, 1, 0, 0])
    let p : PortNo := 143
    let c : Cell := dataCell 3 0 1 0
    let u := (0x13000000 : Nat)
    plainCell s p c ∧ inSequence s p c ∧ s.idSet = true ∧ cDST c = s.devId ∧ cCT c = 3 ∧ s.ctxs = [] ∧ cMSGID c = (s.src (cSRC c)).next % 2 ^ 16 ∧ (s.src (cSRC c)).done = [] ∧ 1 ≤ s.ctr s.rq .free ∧ (∀ a, s.rteAt (srcOff (cSRC c)) = some a → cleanAt s a 32) ∧ (∀ a, s.lgrSet s.rq = some a → cleanAt s a 16) ∧ s.findUnit 2 = some u) ∧
    (let s : State := let s := linkS 0 3 (((((identS ((linkS 143 3 State.reset).modPort 143 fun t => { t with granted := List.replicate 7 1, rxHeld := List.replicate 7 0 })).setFld (addrRtePathi 5) fldRtePathi_V 1).setFld (addrRtePathi 5) fldRtePathi_PLEN 1).setFld (addrRtePcfg 0) fldRtePcfg_ROLE 1).wr (addrRteCandlo 5) 0); putW (s.wr addrLgrBase 0x12000000) (words (0x12000000 + 16 * portSet 0 0) [9, 9, 0, 0])
    let p : PortNo := 143
    let c : Cell := dataCell 3 0 5 0
    let q := s.stepPort (cDST c) (s.fld (addrRteStep (cDST c)) fldRteStep_STEP)
    plainCell s p c ∧ inSequence s p c ∧ s.idSet = true ∧ cDST c ≠ s.devId ∧ cCT c = 3 ∧ (s.port p).paths = [] ∧ s.on (addrRtePathi (cDST c)) fldRtePathi_V = true ∧ s.fld (addrRteStep (cDST c)) fldRteStep_STEP ≤ s.fld (addrRtePathi (cDST c)) fldRtePathi_PLEN ∧ q ≠ p ∧ s.usable q = true ∧ s.permits q (cDST c) (some p) = true ∧ s.takesCredit q c = true) ∧
    (let s : State := (linkS 0 1 State.reset)
    let p : PortNo := 0
    let c : Cell := ctlCell 12 []
    let ok : Bool := true
    let room := (s.port p).crx.length < 16
    verified s p c ∧ ctlWellFormed c = true ∧ cCT c = 5 ∧ fwSub (cSUB c) = true ∧ s.lstate p < 3 ∧ s.resec p = false ∧ cSUB c ∉ [4, 5, 9] ∧ ok = true ∧ room) ∧
    (let s : State := (linkS 0 1 State.reset).modPort 0 fun t => { t with crx := List.replicate 16 ⟨0, []⟩ }
    let p : PortNo := 0
    let c : Cell := ctlCell 12 []
    let room := (s.port p).crx.length < 16
    verified s p c ∧ ctlWellFormed c = true ∧ cCT c = 5 ∧ fwSub (cSUB c) = true ∧ s.lstate p < 3 ∧ s.resec p = false ∧ ¬room) ∧
    (let s : State := (linkS 0 1 State.reset)
    let p : PortNo := 0
    let c : Cell := ctlCell 4 (List.replicate 32 0 ++ [5])
    let ok : Bool := true
    let room := (s.port p).crx.length < 16
    let whole := cLastFrag c = true ∧ (s.port p).dseqs.contains (cDSEQ c) = false
    verified s p c ∧ ctlWellFormed c = true ∧ cCT c = 5 ∧ fwSub (cSUB c) = true ∧ s.lstate p < 3 ∧ s.resec p = false ∧ cSUB c = 4 ∧ room ∧ whole ∧ ok = true ∧ s.helloOk p c = true) ∧
    (let s : State := (linkS 0 2 State.reset)
    let p : PortNo := 0
    let c : Cell := ctlCell 4 []
    let ok : Bool := false
    let room := (s.port p).crx.length < 16
    let whole := cLastFrag c = true ∧ (s.port p).dseqs.contains (cDSEQ c) = false
    verified s p c ∧ ctlWellFormed c = true ∧ cCT c = 5 ∧ fwSub (cSUB c) = true ∧ s.lstate p < 3 ∧ s.resec p = false ∧ cSUB c = 4 ∧ room ∧ whole ∧ (ok = false ∨ s.helloOk p c = false)) ∧
    (let s : State := (linkS 0 2 State.reset)
    let p : PortNo := 0
    let c : Cell := ctlCell 6 []
    let ok : Bool := false
    let room := (s.port p).crx.length < 16
    let whole := cLastFrag c = true ∧ (s.port p).dseqs.contains (cDSEQ c) = false
    verified s p c ∧ ctlWellFormed c = true ∧ cCT c = 5 ∧ fwSub (cSUB c) = true ∧ s.lstate p < 3 ∧ s.resec p = false ∧ (cSUB c = 6 ∨ cSUB c = 7 ∨ cSUB c = 8) ∧ s.lstate p = 2 ∧ room ∧ whole ∧ ok = false) ∧
    (let s : State := (linkS 0 2 State.reset)
    let p : PortNo := 0
    let c : Cell := ctlCell 5 []
    let room := (s.port p).crx.length < 16
    let whole := cLastFrag c = true ∧ (s.port p).dseqs.contains (cDSEQ c) = false
    let m := c.pay.drop 32
    let good := s.identOk ((m.drop 4).take (leBytes (m.take 4))) (s.fld (addrLnkState p) fldLnkState_PARTNER)
    verified s p c ∧ ctlWellFormed c = true ∧ cCT c = 5 ∧ fwSub (cSUB c) = true ∧ s.lstate p < 3 ∧ s.resec p = false ∧ cSUB c = 5 ∧ s.lstate p = 2 ∧ room ∧ whole ∧ hdrF c 6 0 = 0 ∧ good = false) ∧
    (let s : State := (linkS 0 2 State.reset)
    let p : PortNo := 0
    let c : Cell := ctlCell 5 []
    let room := (s.port p).crx.length < 16
    let whole := cLastFrag c = true ∧ (s.port p).dseqs.contains (cDSEQ c) = false
    verified s p c ∧ ctlWellFormed c = true ∧ cCT c = 5 ∧ fwSub (cSUB c) = true ∧ s.lstate p < 3 ∧ s.resec p = false ∧ cSUB c = 5 ∧ s.lstate p = 2 ∧ room ∧ whole ∧ hdrF c 6 0 = 0) ∧
    (let s : State := (linkS 0 2 State.reset).modPort 0 fun t => { t with grantSent := some [] }
    let p : PortNo := 0
    let c : Cell := ctlCell 9 []
    let room := (s.port p).crx.length < 16
    let whole := cLastFrag c = true ∧ (s.port p).dseqs.contains (cDSEQ c) = false
    verified s p c ∧ ctlWellFormed c = true ∧ cCT c = 5 ∧ fwSub (cSUB c) = true ∧ s.lstate p < 3 ∧ s.resec p = false ∧ cSUB c = 9 ∧ s.lstate p = 2 ∧ room ∧ whole ∧ (s.port p).grantSent.isSome = true) ∧
    (let s : State := (linkS 0 2 State.reset)
    let p : PortNo := 0
    let c : Cell := ctlCell 9 []
    let room := (s.port p).crx.length < 16
    let whole := cLastFrag c = true ∧ (s.port p).dseqs.contains (cDSEQ c) = false
    verified s p c ∧ ctlWellFormed c = true ∧ cCT c = 5 ∧ fwSub (cSUB c) = true ∧ s.lstate p < 3 ∧ s.resec p = false ∧ cSUB c = 9 ∧ s.lstate p = 2 ∧ room ∧ whole ∧ (s.port p).grantSent = none) ∧
    (let s : State := (linkS 0 3 State.reset).wr addrLgrBase 0x12000000
    let p : PortNo := 0
    let c : Cell := ⟨mkHdr [(124, 7), (121, 7)], padTo 64 0 ([])⟩
    let credits := fun (tc : Nat) => (pWord c (4 * tc) % 2 ^ 24 + 2 ^ 24 - s.fld (addrLnkCrrx p tc) fldLnkCrrx_CCNT) % 2 ^ 24
    let clean := ∀ tc, tc < 7 → ∀ x, s.lgrSet (portSet p tc) = some x → cleanAt s x 16
    verified s p c ∧ s.lstate p = 3 ∧ cLACK c = s.txAck p ∧ cCT c = 7 ∧ s.fld (addrLnkState p) fldLnkState_EPRX ≠ 0 ∧ clean ∧ s.lgrSet 0 ≠ none ∧ (∀ tc, tc < 7 → credits tc ≤ s.ctr (portSet p tc) .flight ∧ s.ctr (portSet p tc) .free + credits tc < 2 ^ 32)) ∧
    (let s : State := (linkS 0 3 State.reset).wr addrLgrBase 0x12000000
    let p : PortNo := 0
    let c : Cell := ⟨mkHdr [(124, 7), (121, 7)], padTo 64 0 ([1])⟩
    let credits := fun (tc : Nat) => (pWord c (4 * tc) % 2 ^ 24 + 2 ^ 24 - s.fld (addrLnkCrrx p tc) fldLnkCrrx_CCNT) % 2 ^ 24
    verified s p c ∧ s.lstate p = 3 ∧ cLACK c = s.txAck p ∧ cCT c = 7 ∧ s.fld (addrLnkState p) fldLnkState_EPRX ≠ 0 ∧ (∃ tc, tc < 7 ∧ s.ctr (portSet p tc) .flight < credits tc)) ∧
    (let s : State := linkS 0 3 State.reset
    let p : PortNo := 0
    let c : Cell := ctlCell 2 []
    let credits := fun (tc : Nat) => (pWord c (4 * tc) % 2 ^ 24 + 2 ^ 24 - s.fld (addrLnkCrrx p tc) fldLnkCrrx_CCNT) % 2 ^ 24
    let n := pWord c 32 % 2 ^ 20
    verified s p c ∧ s.lstate p = 3 ∧ cLACK c = s.txAck p ∧ cCT c = 5 ∧ cSUB c = 2 ∧ ctlWellFormed c = true ∧ (∀ tc, tc < 7 → credits tc = 0) ∧ (s.port p).gbAt = none ∧ (s.port p).resend = none ∧ seqDiff n (s.txAck p) ≤ seqDiff (s.txNext p) (s.txAck p)) ∧
    (let s : State := (linkS 0 3 State.reset).modPort 0 fun t => { t with ccnt := [8] }
    let p : PortNo := 0
    let adv := fun (tc : Nat) => (nth 0 (s.port p).ccnt tc + 2 ^ 24 - s.fld (addrLnkCrtx p tc) fldLnkCrtx_CCNT) % 2 ^ 24
    let due := 3 ≤ s.lstate p ∧ ((∃ tc, tc < 7 ∧ 8 ≤ adv tc) ∨ (32 ≤ (s.port p).sinceBlk ∧ ∃ tc, tc < 7 ∧ 1 ≤ adv tc)) ∧ ∀ x ∈ (s.port p).ctlq, x.sub ≠ 256
    due) ∧
    (let s : State := (linkS 0 3 State.reset).modPort 0 fun t => { t with ccnt := [1], sinceBlk := 32 }
    let p : PortNo := 0
    let adv := fun (tc : Nat) => (nth 0 (s.port p).ccnt tc + 2 ^ 24 - s.fld (addrLnkCrtx p tc) fldLnkCrtx_CCNT) % 2 ^ 24
    let due := 3 ≤ s.lstate p ∧ ((∃ tc, tc < 7 ∧ 8 ≤ adv tc) ∨ (32 ≤ (s.port p).sinceBlk ∧ ∃ tc, tc < 7 ∧ 1 ≤ adv tc)) ∧ ∀ x ∈ (s.port p).ctlq, x.sub ≠ 256
    due) ∧
    (let s : State := State.reset
    let p : PortNo := 143
    let adv := fun (tc : Nat) => (nth 0 (s.port p).ccnt tc + 2 ^ 24 - s.fld (addrLnkCrtx p tc) fldLnkCrtx_CCNT) % 2 ^ 24
    let due := 3 ≤ s.lstate p ∧ ((∃ tc, tc < 7 ∧ 8 ≤ adv tc) ∨ (32 ≤ (s.port p).sinceBlk ∧ ∃ tc, tc < 7 ∧ 1 ≤ adv tc)) ∧ ∀ x ∈ (s.port p).ctlq, x.sub ≠ 256
    ¬due) ∧
    (let s : State := let s := linkS 0 3 (identS State.reset); ((putW (s.wr addrLgrBase 0x12000000) (words (0x12000000 + 16 * portSet 0 0) [9, 9, 0, 0])).modPort 143 fun t => { t with rxWait := [(dataCell 3 0 5 0, some 0)] })
    let p : PortNo := 143
    let q : Nat := 0
    let c : Cell := dataCell 3 0 5 0
    (s.port p).rxWait = [(c, some q)] ∧ (∀ x ∈ s.ports, ∀ y ∈ x.2.q, y.held = none) ∧ s.idSet = true ∧ cDST c ≠ s.devId ∧ s.takesCredit q c = true) ∧
    (let s : State := State.reset.modPort 143 fun t => { t with snDelay := [dataCell 3 0 5 0] }
    let p : PortNo := 143
    let c : Cell := dataCell 3 0 5 0
    let r : List Cell := []
    (s.port p).snHold = [] ∧ (s.port p).snDelay = c :: r ∧ s.idSet = false ∧ (s.port p).rxWait = []) := by
  iterate 5 refine ⟨by dsimp only [plainCell, verified]; decide +kernel, ?_⟩
  refine ⟨by dsimp only [cleanAt, inSequence, plainCell, verified]; decide +kernel, ?_⟩
  refine ⟨by dsimp only [inSequence, plainCell, verified]; decide +kernel, ?_⟩
  iterate 9 refine ⟨by dsimp only [verified]; decide +kernel, ?_⟩
  refine ⟨by dsimp only [cleanAt, verified]; decide +kernel, ?_⟩
  iterate 2 refine ⟨by dsimp only [verified]; decide +kernel, ?_⟩
  iterate 4 refine ⟨by decide +kernel, ?_⟩
  decide +kernel

theorem witness_LinkTimersAndSlots :
    (let s : State := State.reset
    let p : PortNo := 143
    let due := s.txAck p ≠ s.txNext p ∧ s.carries p = true
    ¬due) ∧
    (let s : State := (linkS 143 3 State.reset).setFld (addrLnkTxnext 143) fldLnkTxnext_LSEQ 1
    let p : PortNo := 143
    let due := s.txAck p ≠ s.txNext p ∧ s.carries p = true
    let n := (s.port p).expiries + 1
    let last := s.fld (addrLnkCfg p) fldLnkCfg_RMAX ≤ n
    due ∧ ¬last) ∧
    (let s : State := ((linkS 143 3 State.reset).setFld (addrLnkTxnext 143) fldLnkTxnext_LSEQ 1).modPort 143 fun t => { t with expiries := 255 }
    let p : PortNo := 143
    let due := s.txAck p ≠ s.txNext p ∧ s.carries p = true
    let n := (s.port p).expiries + 1
    let last := s.fld (addrLnkCfg p) fldLnkCfg_RMAX ≤ n
    due ∧ last) ∧
    (let s : State := State.reset
    let p : PortNo := 143
    let due := s.lnkOn p fldLnkState_GAP = true ∧ s.carries p = true
    ¬due) ∧
    (let s : State := (linkS 143 3 State.reset).setFld (addrLnkState 143) fldLnkState_GAP 1
    let p : PortNo := 143
    let due := s.lnkOn p fldLnkState_GAP = true ∧ s.carries p = true
    due) ∧
    (let s : State := State.reset.wr (addrLnkScnttx 143) 0xFFF00000
    let p : PortNo := 143
    let n := (s.rd (addrLnkScnttx p)).toNat
    0xFFF00000 ≤ n ∧ s.lnkOn p fldLnkState_KEYEXH = false) ∧
    (let s : State := State.reset.wr (addrLnkScnttx 143) 0xFFEFFFFF
    let p : PortNo := 143
    let n := (s.rd (addrLnkScnttx p)).toNat
    n < 0xFFF00000) ∧
    (let s : State := linkS 143 3 (State.reset.wr (addrLnkScnttx 143) 0xFFFF0000)
    let p : PortNo := 143
    let n := (s.rd (addrLnkScnttx p)).toNat
    0xFFFF0000 ≤ n ∧ s.lstate p ≠ 0) ∧
    (let s : State := State.reset.wr (addrLnkScnttx 143) 0xFFFEFFFF
    let p : PortNo := 143
    let n := (s.rd (addrLnkScnttx p)).toNat
    n < 0xFFFF0000) ∧
    (let s : State := linkS 143 4 State.reset
    let p : PortNo := 143
    let l := s.lstate p
    let due := l = 4 ∨ l = 5 ∨ (l = 2 ∧ s.lnkOn p fldLnkState_RESEC = true)
    due) ∧
    (let s : State := linkS 143 2 State.reset
    let p : PortNo := 143
    let l := s.lstate p
    let due := l = 4 ∨ l = 5 ∨ (l = 2 ∧ s.lnkOn p fldLnkState_RESEC = true)
    ¬due) ∧
    (let s : State := (linkS 143 5 State.reset).modPort 143 fun t => { t with dr2Sent := true, dr2Recv := true }
    let p : PortNo := 143
    let l := s.lstate p
    l = 5 ∧ (s.port p).dr2Sent = true ∧ (s.port p).dr2Recv = true) ∧
    (let s : State := (linkS 143 5 State.reset).modPort 143 fun t => { t with dr2Sent := true }
    let p : PortNo := 143
    let l := s.lstate p
    (l ≠ 5 ∨ (s.port p).dr2Sent = false ∨ (s.port p).dr2Recv = false)) ∧
    (let s : State := ((State.reset.setFld (addrLnkCtl 143) enSTATE 2).setFld (addrLnkCtl 143) fldLnkCtl_AUTO 1).setFld (addrLnkCtl 143) fldLnkCtl_EN 1
    let p : PortNo := 143
    let c := addrLnkCtl p
    let l := s.lstate p
    let t0 := s.port p
    l = 0 ∧ s.unitState c = 2 ∧ s.on c fldLnkCtl_AUTO = true ∧ s.on c fldLnkCtl_EN = true ∧ t0.holdTil ≤ s.tb64) ∧
    (let s : State := State.reset.setFld (addrLnkCtl 143) fldLnkCtl_AUTO 0
    let p : PortNo := 143
    let c := addrLnkCtl p
    let l := s.lstate p
    let t0 := s.port p
    l = 0 ∧ (s.on c fldLnkCtl_AUTO = false ∨ s.tb64 < t0.holdTil)) ∧
    (let s : State := (linkS 143 1 State.reset).setFld (addrLnkCtl 143) fldLnkCtl_RXRDY 1
    let p : PortNo := 143
    let c := addrLnkCtl p
    let l := s.lstate p
    let t0 := s.port p
    (l = 1 ∨ l = 2) ∧ s.on c fldLnkCtl_PRBS = false ∧ s.on c fldLnkCtl_RXRDY = true ∧ t0.fw = none ∧ t0.ctlq = [] ∧ t0.txPend = none ∧ t0.framing = []) ∧
    (let s : State := ((linkS 143 3 State.reset).setFld (addrReelEseqa 143 0) fldReelEseqa_USE 1).modPort 143 fun t => { t with q := [{ cell := dataCell 3 0 5 0, bad := false, assigned := true }] }
    let p : PortNo := 143
    let c := addrLnkCtl p
    let l := s.lstate p
    let t0 := s.port p
    let x := ({ cell := dataCell 3 0 5 0, bad := false, assigned := true } : QCell)
    t0.q = [x] ∧ l = 3 ∧ s.draining p = false ∧ s.on c fldLnkCtl_PRBS = false ∧ t0.ctlq = [] ∧ t0.resend = none ∧ t0.framing = [] ∧ t0.replay = [] ∧ t0.txPend = none ∧ s.lnkOn p fldLnkState_KEYEXH = false ∧ s.on (addrReelPctl p) fldReelPctl_RUSE = false ∧ x.assigned = true ∧ cShort x.cell = false ∧ s.on (addrReelEseqa p t0.esqPtr) fldReelEseqa_USE = true ∧ s.fld (addrReelEseqa p t0.esqPtr) fldReelEseqa_TC = cTC x.cell) ∧
    (let s : State := State.reset.modPort 143 fun t => { t with reelNo := some 0 }
    let p : PortNo := 143
    (s.port p).reelNo = some s.reelDue) ∧
    (let s : State := State.reset
    let p : PortNo := 143
    let w := addrReelPctl p
    (s.port p).reelNo ≠ some s.reelDue ∧ isOn (tget (fun _ => 0) s.swNow w) fldReelPctl_SWAP = false) := by
  iterate 18 refine ⟨by decide +kernel, ?_⟩
  decide +kernel

theorem witness_MessagesLanded :
    (let s : State := (landS 1 (rctx 1 1 false) 0).setFld addrRteCfg fldRteCfg_ORD 0x7F
    let c : Fin 16384 := 0
    let x : RCtx := rctx 1 1 false
    let cell : Cell := shortCell 0 4 63
    let nx := (s.src x.src).next
    let free := s.ordered x = false ∨ x.xmsg = nx
    s.ctx c = some x ∧ x.cells.head? = some cell ∧ x.last = true ∧ x.why = 1 ∧ ¬free) ∧
    (let s : State := landS 1 (rctx 0 1 false) 16383
    let c : Fin 16384 := 16383
    let x : RCtx := rctx 0 1 false
    let cell : Cell := shortCell 0 4 63
    let off : Nat := 0
    let k := cDBOB cell
    let nx := (s.src x.src).next
    let free := s.ordered x = false ∨ x.xmsg = nx
    s.ctx c = some x ∧ x.cells.head? = some cell ∧ x.last = true ∧ x.why = 1 ∧ free ∧ landsAt s c x cell k off) ∧
    (let s : State := landS 2 (rctx 0 1 false) 0
    let c : Fin 16384 := 0
    let x : RCtx := rctx 0 1 false
    let cell : Cell := shortCell 0 4 63
    let k := cDBOB cell
    let nx := (s.src x.src).next
    let free := s.ordered x = false ∨ x.xmsg = nx
    let bad := s.bobOn k = false ∨ s.bobType k ≠ 1
    s.ctx c = some x ∧ x.cells.head? = some cell ∧ x.last = true ∧ x.why = 1 ∧ free ∧ bad) ∧
    (let s : State := landS 1 (rctx 0 2 false) 0
    let c : Fin 16384 := 0
    let x : RCtx := rctx 0 2 false
    let cell : Cell := shortCell 0 4 63
    let off : Nat := 0
    let k := cDBOB cell
    s.ctx c = some x ∧ x.cells.head? = some cell ∧ x.why = 2 ∧ landsAt s c x cell k off) ∧
    (let s : State := landS 2 (rctx 0 2 false) 0
    let c : Fin 16384 := 0
    let x : RCtx := rctx 0 2 false
    let cell : Cell := shortCell 0 4 63
    let k := cDBOB cell
    let bad := s.bobOn k = false ∨ s.bobType k ≠ 1
    s.ctx c = some x ∧ x.cells.head? = some cell ∧ x.why = 2 ∧ bad) ∧
    (let s : State := landS 1 (rctx 0 3 false) 0
    let c : Fin 16384 := 0
    let x : RCtx := rctx 0 3 false
    let cell : Cell := shortCell 0 4 63
    let off : Nat := 0
    let k := cDBOB cell
    let nx := (s.src x.src).next
    s.ctx c = some x ∧ x.cells.head? = some cell ∧ x.why = 3 ∧ x.xmsg = nx ∧ landsAt s c x cell k off) ∧
    (let s : State := landS 2 (rctx 0 3 false) 0
    let c : Fin 16384 := 0
    let x : RCtx := rctx 0 3 false
    let cell : Cell := shortCell 0 4 63
    let k := cDBOB cell
    let nx := (s.src x.src).next
    let bad := s.bobOn k = false ∨ s.bobType k ≠ 1
    s.ctx c = some x ∧ x.cells.head? = some cell ∧ x.why = 3 ∧ x.xmsg = nx ∧ bad) ∧
    (let s : State := landS 1 (rctx 1 3 false) 0
    let c : Fin 16384 := 0
    let x : RCtx := rctx 1 3 false
    let cell : Cell := shortCell 0 4 63
    let nx := (s.src x.src).next
    s.ctx c = some x ∧ x.cells.head? = some cell ∧ x.why = 3 ∧ x.xmsg ≠ nx) ∧
    (let s : State := (landS 1 (rctx 0 1 false) 0).setFld (addrRteStallbob 1) fldRteStallbob_EN 1
    let c : Fin 16384 := 0
    let x : RCtx := rctx 0 1 false
    let on := s.on (addrRteStallbob (x.port / 4)) fldRteStallbob_EN
    s.ctx c = some x ∧ x.expired = false ∧ on = true) ∧
    (let s : State := landS 1 (rctx 0 1 true) 0
    let c : Fin 16384 := 0
    let x : RCtx := rctx 0 1 true
    let on := s.on (addrRteStallbob (x.port / 4)) fldRteStallbob_EN
    s.ctx c = some x ∧ (x.expired = true ∨ on = false)) ∧
    (let s : State := { identS State.reset with srcs := [(1, { report := [(1, 1), (128, 2)] })] }
    let d : Fin 4096 := 1
    let r : Nat × Nat := (1, 1)
    let l : List (Nat × Nat) := [(128, 2)]
    (s.src d).report = r :: l ∧ (∀ y ∈ l, r.1 < y.1 ∧ y.1 < r.1 + 128) ∧ d.val = s.devId) ∧
    (let s : State := { linkS 0 3 (((identS State.reset).setFld (addrRtePathi 4095) fldRtePathi_V 1).wr (addrRteCandlo 4095) 0) with srcs := [(4095, { report := [(1, 1), (128, 2)] })] }
    let d : Fin 4096 := 4095
    let r : Nat × Nat := (1, 1)
    let l : List (Nat × Nat) := [(128, 2)]
    let q := s.stepPort d (s.fld (addrRteStep d) fldRteStep_STEP)
    (s.src d).report = r :: l ∧ (∀ y ∈ l, r.1 < y.1 ∧ y.1 < r.1 + 128) ∧ d.val ≠ s.devId ∧ s.on (addrRtePathi d) fldRtePathi_V = true ∧ s.fld (addrRteStep d) fldRteStep_STEP ≤ s.fld (addrRtePathi d) fldRtePathi_PLEN ∧ s.usable q = true ∧ (s.role q ≠ 2 ∨ s.isPartner q d = true)) ∧
    (let s : State := { identS State.reset with srcs := [(4095, { report := [(1, 1), (128, 2)] })] }
    let d : Fin 4096 := 4095
    let r : Nat × Nat := (1, 1)
    let l : List (Nat × Nat) := [(128, 2)]
    (s.src d).report = r :: l ∧ (∀ y ∈ l, r.1 < y.1 ∧ y.1 < r.1 + 128) ∧ d.val ≠ s.devId ∧ s.on (addrRtePathi d) fldRtePathi_V = false) ∧
    (let s : State := { State.reset with ackIn := [shortCell 0 4 63] }
    let c : Cell := shortCell 0 4 63
    let r : List Cell := []
    s.ackIn = c :: r) := by
  refine ⟨by decide +kernel, ?_⟩
  refine ⟨by dsimp only [landsAt, cleanAt, unitsHold]; decide +kernel, ?_⟩
  refine ⟨by decide +kernel, ?_⟩
  refine ⟨by dsimp only [landsAt, cleanAt, unitsHold]; decide +kernel, ?_⟩
  refine ⟨by decide +kernel, ?_⟩
  refine ⟨by dsimp only [landsAt, cleanAt, unitsHold]; decide +kernel, ?_⟩
  iterate 7 refine ⟨by decide +kernel, ?_⟩
  decide +kernel

theorem witness_DraftCommands :
    (let s : State := drfS (State.reset) (dcmdW 0 1 1 (at5 0x10C00000 1) (at5 0x10C00040 1) [0, 0, 0])
    let e : Fin 8 := 7
    let l : DList := dlist
    let c := draftCmd s l
    draftAt s e l ∧ dcBad c = true ∧ dcOp c = 0) ∧
    (let s : State := drfS (State.reset) (dcmdW 1 1 1 nil5 (at5 0x10C00040 1) [7, 0, 0])
    let e : Fin 8 := 7
    let l : DList := dlist
    let c := draftCmd s l
    draftAt s e l ∧ dcBad c = true ∧ dcOp c = 1) ∧
    (let s : State := drfS (State.reset) (dcmdW 0 0 1 (at5 0x10C00000 1) (at5 0x10C00040 1) [0, 0, 0])
    let e : Fin 8 := 7
    let l : DList := dlist
    let c := draftCmd s l
    let fine := s.drfCheck e c l.by_ = none
    draftAt s e l ∧ dcOp c = 0 ∧ fine ∧ (∀ n, n < dcTotal c → elemOk s e c 3 n .read ∧ elemOk s e c 8 n .write)) ∧
    (let s : State := drfS (State.reset) (dcmdW 1 0 1 nil5 (at5 0x10C00040 1) [7, 0, 0])
    let e : Fin 8 := 7
    let l : DList := dlist
    let c := draftCmd s l
    let fine := s.drfCheck e c l.by_ = none
    draftAt s e l ∧ dcOp c = 1 ∧ fine ∧ (∀ n, n < dcTotal c → elemOk s e c 8 n .write)) ∧
    (let s : State := drfS (State.reset) (dcmdW 2 0x100000 1 [0x10C00000, 0, 1, 2, 2] nil5 [0, 5, 7])
    let e : Fin 8 := 7
    let l : DList := dlist
    let c := draftCmd s l
    let fine := s.drfCheck e c l.by_ = none
    let k := dcF c 13 15 0
    draftAt s e l ∧ dcOp c = 2 ∧ fine ∧ dcDense c = true ∧ dcScat c = false ∧ ringRoom s e c.z c.lv k 1) ∧
    (let s : State := drfS (State.reset) (dcmdW 3 0 1 (at5 0x10C00000 1) nil5 [0, 5, 7])
    let e : Fin 8 := 7
    let l : DList := dlist
    let c := draftCmd s l
    let fine := s.drfCheck e c l.by_ = none
    let k := dcF c 13 15 0
    draftAt s e l ∧ dcOp c = 3 ∧ fine ∧ ringRoom s e c.z c.lv k 2) ∧
    (let s : State := drfS (((State.reset.modPly 0 fun t => { t with passes := [passW 0], started := true }).setFld (addrPlyStatus 0) fldPlyStatus_RUN 1).setFld (addrPlyCtl 0) enSTATE 2) (dcmdW 4 0x4000000 0 (at5 0x10C00000 4) nil5 [2 ^ 31, 0, 0])
    let e : Fin 8 := 7
    let l : DList := dlist
    let c := draftCmd s l
    let fine := s.drfCheck e c l.by_ = none
    draftAt s e l ∧ dcOp c = 4 ∧ fine ∧ dcStream c = true ∧ dcTotal c = 1 ∧ s.plySize c = some (dcN c) ∧ s.plyTakes (dcPU c) (dcK c) (dcN c) = true ∧ elemOk s e c 3 0 .read) ∧
    (let s : State := drfS (State.reset) (dcmdW 5 0 0 nil5 nil5 [2, 0, 0])
    let e : Fin 8 := 7
    let l : DList := dlist
    let c := draftCmd s l
    let fine := s.drfCheck e c l.by_ = none
    draftAt s e l ∧ dcOp c = 5 ∧ fine ∧ dcW c 13 = 2 ∧ (s.drf e).rung = []) ∧
    (let s : State := drfS (State.reset) (dcmdW 6 0 0 nil5 nil5 [3, 0, 0])
    let e : Fin 8 := 7
    let l : DList := dlist
    let c := draftCmd s l
    let fine := s.drfCheck e c l.by_ = none
    draftAt s e l ∧ dcOp c = 6 ∧ fine ∧ dcW c 13 < 4) ∧
    (let s : State := drfS (State.reset) (dcmdW 7 0 0 (at5 0x10C00040 0) nil5 [0, 0, 0])
    let e : Fin 8 := 7
    let l : DList := dlist
    let c := draftCmd s l
    let fine := s.drfCheck e c l.by_ = none
    draftAt s e l ∧ dcOp c = 7 ∧ fine) ∧
    (let s : State := drfS (State.reset) (dcmdW 8 0 0 nil5 nil5 [0, 0, 0])
    let e : Fin 8 := 7
    let l : DList := dlist
    let c := draftCmd s l
    let fine := s.drfCheck e c l.by_ = none
    draftAt s e l ∧ dcOp c = 8 ∧ fine ∧ (s.drf e).queue = []) ∧
    (let s : State := svcS 5
    let e : Fin 8 := 7
    let k := s.fld (addrDrfSvcctl e) fldDrfSvcctl_SBOB
    let z := s.bobZ k
    let ra := s.entryAddr k (s.cons k)
    let d := bytesAt s ra 64
    let w := s.bdf k 1 bdLWIN
    let pa := s.winBase w + (svcHead d).2.1
    s.svcReady e = true ∧ s.slipWait = [] ∧ s.bobNotEmpty k = true ∧ s.bdf k 0 bdLOC = 0 ∧ s.on (addrBobLwhi w) fldBobLwhi_LOC = false ∧ inCreel ra = true ∧ inCreel (ra + 63) = true ∧ s.grantedAll (40 + e) z false .read ra 64 = true ∧ cleanAt s ra 64 ∧ inCreel pa = true ∧ inCreel (pa + 63) = true ∧ s.grantedAll (40 + e) z false .read pa 64 = true ∧ cleanAt s pa 64 ∧ (svcHead d).1 = false) ∧
    (let s : State := svcS 63
    let e : Fin 8 := 7
    let k := s.fld (addrDrfSvcctl e) fldDrfSvcctl_SBOB
    let z := s.bobZ k
    let ra := s.entryAddr k (s.cons k)
    let d := bytesAt s ra 64
    let w := s.bdf k 1 bdLWIN
    let pa := s.winBase w + (svcHead d).2.1
    let c := cmdOf { addr := pa, host := false, z := z, lv := false, by_ := none } (bytesAt s pa 64)
    let s1 := (s.advCons k 1).drfCur e { addr := pa, host := false, z := z, lv := false, by_ := none }
    let c' := ((s1.svcCopy e c).getD c)
    s.svcReady e = true ∧ s.slipWait = [] ∧ s.bobNotEmpty k = true ∧ s.bdf k 0 bdLOC = 0 ∧ s.on (addrBobLwhi w) fldBobLwhi_LOC = false ∧ inCreel ra = true ∧ inCreel (ra + 63) = true ∧ s.grantedAll (40 + e) z false .read ra 64 = true ∧ cleanAt s ra 64 ∧ inCreel pa = true ∧ inCreel (pa + 63) = true ∧ s.grantedAll (40 + e) z false .read pa 64 = true ∧ cleanAt s pa 64 ∧ s1.svcCopy e c = some c' ∧ (svcHead d).1 = true ∧ dcOp c = 0 ∧ (∀ n, n < dcTotal c' → elemOk s1 e c' 3 n .read ∧ elemOk s1 e c' 8 n .write)) := by
  iterate 2 refine ⟨by dsimp only [draftAt, cleanAt]; decide +kernel, ?_⟩
  iterate 2 refine ⟨by dsimp only [draftAt, elemOk, cleanAt]; decide +kernel, ?_⟩
  iterate 2 refine ⟨by dsimp only [draftAt, ringRoom, cleanAt]; decide +kernel, ?_⟩
  refine ⟨by dsimp only [draftAt, elemOk, cleanAt]; decide +kernel, ?_⟩
  iterate 4 refine ⟨by dsimp only [draftAt, cleanAt]; decide +kernel, ?_⟩
  refine ⟨by dsimp only [cleanAt]; decide +kernel, ?_⟩
  dsimp only [cleanAt, elemOk]; decide +kernel

theorem witness_PliesAndEnables :
    (let s : State := plyS (passW 0)
    let u : Fin 16 := 15
    let p : Pass := passW 0
    (s.ply u).passes = [p] ∧ s.plyRun u = 1 ∧ (s.rd (addrPlyDone u)).toNat = p.count ∧ (p.w 14).testBit 16 = false) ∧
    (let s : State := plyS (passW 0x10003)
    let u : Fin 16 := 15
    let p : Pass := passW 0x10003
    let fid := p.w 14 % 65536
    let j := (0 : Fin 64)
    (s.ply u).passes = [p] ∧ s.plyRun u = 1 ∧ (s.rd (addrPlyDone u)).toNat = p.count ∧ s.canPost u fid = some j ∧ (p.w 14).testBit 16 = true) ∧
    (let s : State := ((plyS (passW 0x10003)).setFld (addrPlyFence 15 0) fldPlyFence_COUNT 255).setFld (addrPlyFence 15 0) fldPlyFence_FID 3
    let u : Fin 16 := 15
    let p : Pass := passW 0x10003
    let fid := p.w 14 % 65536
    (s.ply u).passes = [p] ∧ s.plyRun u = 1 ∧ (s.rd (addrPlyDone u)).toNat = p.count ∧ s.canPost u fid = none ∧ (p.w 14).testBit 16 = true) ∧
    (let s : State := (plyS (passW 0)).setFld (addrPlyFence 15 63) fldPlyFence_COUNT 255
    let u : Fin 16 := 15
    let j : Fin 64 := 63
    let a := addrPlyFence u j
    let due := fun (x : Nat × Nat) => x.1 = s.fld a fldPlyFence_FID ∧ ∀ y ∈ (s.ply u).inq, x.2 ≤ y.1
    let n := ((s.ply u).posts.filter fun x => due x).length
    n ≤ s.fld a fldPlyFence_PEND ∧ s.fld a fldPlyFence_COUNT + n ≤ 255) ∧
    (let s : State := State.reset
    let g : Fin 32 := 31
    let a := addrPlyCgctl g
    let due := s.on a fldPlyCgctl_ARMED = true ∧ s.groupMet g = true
    (∀ h, h < g.val → s.armed h = false ∨ s.groupMet h = false) ∧ ¬due) ∧
    (let s : State := groupS 1
    let g : Fin 32 := 31
    let a := addrPlyCgctl g
    let due := s.on a fldPlyCgctl_ARMED = true ∧ s.groupMet g = true
    let busy := ∃ b ∈ s.groupBufs g, s.on (addrPlyRbst b) fldPlyRbst_BUSY = true
    (∀ h, h < g.val → s.armed h = false ∨ s.groupMet h = false) ∧ due ∧ busy) ∧
    (let s : State := groupS 0
    let g : Fin 32 := 31
    let a := addrPlyCgctl g
    let due := s.on a fldPlyCgctl_ARMED = true ∧ s.groupMet g = true
    let busy := ∃ b ∈ s.groupBufs g, s.on (addrPlyRbst b) fldPlyRbst_BUSY = true
    (∀ h, h < g.val → s.armed h = false ∨ s.groupMet h = false) ∧ due ∧ ¬busy ∧ allDistinct (s.groupBufs g) = true) ∧
    (let s : State := (bobS State.reset 0 0 5 4).setFld (addrBobBctl 0) enSTATE 1
    let u : UnitSel := .bobbin 0
    let a := unitAddr u
    s.unitState a = 1 ∧ mayStart s u) ∧
    (let s : State := State.reset
    let u : UnitSel := .skein
    let a := unitAddr u
    s.unitState a ≠ 1) ∧
    (let s : State := State.reset.setFld (addrDrfCtl 7) enSTATE 3
    let u : UnitSel := .draft 7
    let a := unitAddr u
    s.unitState a = 3 ∧ mayStop s u) ∧
    (let s : State := State.reset
    let u : UnitSel := .hap 0
    let a := unitAddr u
    s.unitState a ≠ 3) := by
  iterate 7 refine ⟨by decide +kernel, ?_⟩
  refine ⟨by (repeat' apply And.intro) <;> first | decide +kernel | rfl, ?_⟩
  refine ⟨by decide +kernel, ?_⟩
  refine ⟨by (repeat' apply And.intro) <;> first | decide +kernel | rfl, ?_⟩
  decide +kernel

theorem witness_Skeins :
    (let s : State := skS 2 (skCtx 255 [65, 66, 130] [⟨2, 1, 0, 64, 0, []⟩]) [(0, skCell 0 2 3 66)]
    let p : Nat := 0
    let x : Cell := skCell 0 2 3 66
    let r : List (Nat × Cell) := []
    let sop := hdrF x 71 68
    s.sknIn = (p, x) :: r ∧ sop = 3) ∧
    (let s : State := skS 2 (skCtx 255 [65, 66, 130] [⟨2, 1, 0, 64, 0, []⟩]) [(0, skCell 0 5 0 66)]
    let p : Nat := 0
    let x : Cell := skCell 0 5 0 66
    let r : List (Nat × Cell) := []
    let sop := hdrF x 71 68
    s.sknIn = (p, x) :: r ∧ sop ≠ 3 ∧ ¬skeinFits s x) ∧
    (let s : State := skS 2 (skCtx 255 [65, 66, 130] [⟨2, 1, 0, 64, 0, []⟩]) [(0, skCell 0 2 1 64)]
    let p : Nat := 0
    let x : Cell := skCell 0 2 1 64
    let r : List (Nat × Cell) := []
    let sop := hdrF x 71 68
    s.sknIn = (p, x) :: r ∧ (sop = 1 ∨ sop = 2) ∧ skeinAgain s x) ∧
    (let s : State := skS 1 ({ skCtx 255 [65, 66, 130] [⟨2, 1, 0, 64, 0, []⟩] with begun := false }) [(0, skCell 0 2 0 66)]
    let p : Nat := 0
    let x : Cell := skCell 0 2 0 66
    let r : List (Nat × Cell) := []
    let c := hdrF x 95 88
    let sop := hdrF x 71 68
    let k := hdrF x 87 72
    let t0 := s.skn c
    s.sknIn = (p, x) :: r ∧ sop = 0 ∧ skeinFits s x ∧ s.sknState c = 1 ∧ (k ≠ s.opseq c ∨ t0.begun = false)) ∧
    (let s : State := skS 2 (skCtx 255 [65, 66, 130] [⟨2, 1, 0, 64, 0, []⟩]) [(0, skCell 0 2 1 128)]
    let p : Nat := 0
    let x : Cell := skCell 0 2 1 128
    let r : List (Nat × Cell) := []
    let c := hdrF x 95 88
    let sop := hdrF x 71 68
    let k := hdrF x 87 72
    let t0 := s.skn c
    let own := s.devId / 64
    let d := (66 : Nat)
    let q := (0 : Nat)
    s.sknIn = (p, x) :: r ∧ d ∈ t0.members ∧ s.portTo d 0 = some q ∧ sop = 1 ∧ skeinFits s x ∧ ¬skeinAgain s x ∧ s.sknState c = 2 ∧ k = s.opseq c ∧ t0.op = 1 ∧ t0.begun = true ∧ (t0.ends.isSome = true ∨ s.memberPays c d = none) ∧ t0.relay (hdrF x 11 6) = true ∧ d ≠ s.devId ∧ d / 64 = own ∧ (∀ e ∈ t0.members, e / 64 = own → e = s.devId ∨ e = d) ∧ t0.members.Nodup ∧ d < 4096) ∧
    (let s : State := skS 2 (skCtx 255 [65, 66, 130] []) [(0, skCell 0 2 0 66)]
    let p : Nat := 0
    let x : Cell := skCell 0 2 0 66
    let r : List (Nat × Cell) := []
    let c := hdrF x 95 88
    let sop := hdrF x 71 68
    let k := hdrF x 87 72
    let t0 := s.skn c
    let own := s.devId / 64
    let q := (2 : Nat)
    s.sknIn = (p, x) :: r ∧ q ∈ s.outs t0 ∧ (s.outs t0).length = 1 ∧ sop = 0 ∧ skeinFits s x ∧ s.sknState c = 2 ∧ k = s.opseq c ∧ t0.op = 1 ∧ t0.begun = true ∧ t0.own = [] ∧ t0.ends = none ∧ t0.pays = false ∧ t0.got = [] ∧ hdrF x 22 12 = 0 ∧ x.pay.length ≤ 64 ∧ (∀ b ∈ x.pay, b = 0) ∧ hdrF x 11 0 ≠ s.devId ∧ (∀ d ∈ t0.members, d / 64 = own → d = s.devId ∨ d = hdrF x 11 0)) ∧
    (let s : State := skS 1 (skCtx 255 [65, 66, 130] [⟨2, 1, 0, 64, 0, []⟩]) []
    let c : Fin 256 := 0
    s.sknState c ≠ 2) ∧
    (let s : State := skS 2 (skCtx 255 [65, 66, 130] [⟨2, 1, 0, 64, 0, []⟩]) []
    let c : Fin 256 := 0
    let t0 := s.skn c
    let own := s.devId / 64
    let ready := s.sknState c = 2 ∧ t0.op = 1 ∧ t0.begun = true ∧ t0.ends = none
    ready ∧ t0.refused = false ∧ (∃ d ∈ t0.members, d < 4096 ∧ d / 64 ≠ own ∧ ∀ y ∈ t0.got, y.orig / 64 ≠ d / 64)) ∧
    (let s : State := skS 2 ({ skCtx 255 [65, 66, 130] [⟨2, 1, 0, 64, 0, []⟩] with refused := true }) []
    let c : Fin 256 := 0
    let t0 := s.skn c
    let ready := s.sknState c = 2 ∧ t0.op = 1 ∧ t0.begun = true ∧ t0.ends = none
    let room := t0.cu = 255 ∨ (s.canPost t0.cu t0.fid).isSome = true
    ready ∧ t0.refused = true ∧ room) ∧
    (let s : State := skS 2 { skCtx 255 [65, 66] [⟨2, 1, 0, 64, 0, []⟩] with got := [⟨2, 0, 0, 66, 0, [0, 0, 0, 0]⟩] } []
    let c : Fin 256 := 0
    let t0 := s.skn c
    let own := s.devId / 64
    let ready := s.sknState c = 2 ∧ t0.op = 1 ∧ t0.begun = true ∧ t0.ends = none
    let y := (⟨2, 1, 0, 64, 0, []⟩ : SkCell)
    ready ∧ t0.refused = false ∧ t0.own = [y] ∧ y.chunk = 0 ∧ y.pay = [] ∧ (∀ d ∈ t0.group own, s.memberPays c d = some false) ∧ t0.groups = [own] ∧ t0.cu = 255) ∧
    (let s : State := let s := grant 48 (skS 2 (skCtx 0 [65, 66] [⟨2, 1, 0, 64, 0, [1, 2, 3, 4]⟩]) []); ((s.setFld (addrPlyRbb 0) fldPlyRbb_BASE (0x10C00000 / 64)).setFld (addrPlyRba 0) fldPlyRba_BASE (0x10C00000 / 64 + 4)).setFld (addrPlyRbsz 0) fldPlyRbsz_SIZE 64
    let c : Fin 256 := 0
    let t0 := s.skn c
    let own := s.devId / 64
    let ready := s.sknState c = 2 ∧ t0.op = 1 ∧ t0.begun = true ∧ t0.ends = none
    let y := (⟨2, 1, 0, 64, 0, [1, 2, 3, 4]⟩ : SkCell)
    ready ∧ t0.refused = false ∧ t0.own = [y] ∧ y.chunk = 0 ∧ y.form = 0 ∧ t0.groups = [own] ∧ t0.cu < 16 ∧ t0.fmt = 0 ∧ t0.func < 3 ∧ t0.form = 0 ∧ y.pay.length = t0.vlen + 1 ∧ (t0.vlen + 1) % 4 = 0 ∧ t0.vlen < 256 ∧ t0.vlen < s.fld (addrPlyRbsz t0.rbuf) fldPlyRbsz_SIZE ∧ s.plyMay t0.cu t0.z false .write (s.backHalf t0.rbuf) (t0.vlen + 1) = true ∧ cleanAt s (s.backHalf t0.rbuf) (t0.vlen + 1) ∧ s.bobHeld t0.evb = false ∧ s.lgrSet 0 = none ∧ (s.canPost t0.cu t0.fid).isSome = true) ∧
    (let s : State := skS 1 (skCtx 255 [65, 66, 130] [⟨2, 1, 0, 64, 0, []⟩]) []
    let c : Fin 256 := 0
    let t0 := s.skn c
    let due := s.sknState c = 2 ∧ t0.ends = none ∧ t0.tmo ≠ 0 ∧ t0.start + 1000 * t0.tmo ≤ s.tb64
    ¬due) ∧
    (let s : State := { skS 2 (skCtx 255 [65, 66, 130] [⟨2, 1, 0, 64, 0, []⟩]) [] with tb := 2 ^ 40 * 1000, shadow := 2 ^ 40 * 1000 }
    let c : Fin 256 := 0
    let t0 := s.skn c
    let due := s.sknState c = 2 ∧ t0.ends = none ∧ t0.tmo ≠ 0 ∧ t0.start + 1000 * t0.tmo ≤ s.tb64
    due ∧ s.sknWaits c = false) ∧
    (let s : State := let s := { skS 2 (skCtx 0 [65, 66] []) [] with tb := 2 ^ 40 * 1000, shadow := 2 ^ 40 * 1000 }; (s.setFld (addrPlyFence 0 0) fldPlyFence_COUNT 255).setFld (addrPlyFence 0 0) fldPlyFence_FID (s.skn 0).fid
    let c : Fin 256 := 0
    let t0 := s.skn c
    let due := s.sknState c = 2 ∧ t0.ends = none ∧ t0.tmo ≠ 0 ∧ t0.start + 1000 * t0.tmo ≤ s.tb64
    due ∧ s.sknWaits c = true) ∧
    (let s : State := skS 2 (skCtx 255 [65, 66, 130] [⟨2, 1, 0, 64, 0, []⟩]) [(143, skCell 0 2 3 66)]
    let p : PortNo := 0
    let i : Nat := 143
    let x : Cell := skCell 0 2 3 66
    let r : List (Nat × Cell) := []
    s.sknIn = (i, x) :: r ∧ (i ≠ p.val ∨ hdrF x 71 68 ≠ 3)) ∧
    (let s : State := skS 2 (skCtx 255 [65, 66, 130] [⟨2, 1, 0, 64, 0, []⟩]) [(143, skCell 0 5 3 66)]
    let p : PortNo := 143
    let i : Nat := 143
    let x : Cell := skCell 0 5 3 66
    let r : List (Nat × Cell) := []
    s.sknIn = (i, x) :: r ∧ i = p.val ∧ hdrF x 71 68 = 3 ∧ ¬skeinFits s x) ∧
    (let s : State := skS 1 (skCtx 255 [65, 66, 130] [⟨2, 1, 0, 64, 0, []⟩]) [(143, skCell 0 2 3 66)]
    let p : PortNo := 143
    let i : Nat := 143
    let x : Cell := skCell 0 2 3 66
    let r : List (Nat × Cell) := []
    let q : Nat := 2
    let c := hdrF x 95 88
    let b := s.fld addrSknSnapbase fldSknSnapbase_BASE * 65536
    let t0 := s.skn c
    s.sknIn = (i, x) :: r ∧ i = p.val ∧ hdrF x 71 68 = 3 ∧ skeinFits s x ∧ s.sknState c = 1 ∧ t0.op ≠ 2 ∧ s.lstate q = 3 ∧ q < 144 ∧ q ≠ p.val ∧ (∀ a, s.lgrSet 0 = some a → a + 88064 ≤ b ∨ b + 131072 ≤ a)) := by
  refine ⟨by decide +kernel, ?_⟩
  refine ⟨by dsimp only [skeinFits]; decide +kernel, ?_⟩
  refine ⟨by dsimp only [skeinAgain]; decide +kernel, ?_⟩
  refine ⟨by dsimp only [skeinFits]; decide +kernel, ?_⟩
  refine ⟨by dsimp only [skeinFits, skeinAgain]; decide +kernel, ?_⟩
  refine ⟨by dsimp only [skeinFits]; decide +kernel, ?_⟩
  iterate 4 refine ⟨by decide +kernel, ?_⟩
  refine ⟨by dsimp only [cleanAt]; decide +kernel, ?_⟩
  iterate 4 refine ⟨by decide +kernel, ?_⟩
  refine ⟨by dsimp only [skeinFits]; decide +kernel, ?_⟩
  dsimp only [skeinFits]; decide +kernel

theorem witness_TimeAndTensioner :
    (let s : State := State.reset
    s.started = false) ∧
    (let s : State := { State.reset with started := true }
    s.started = true) ∧
    (let s : State := schS 0 1 0 (schS 31 1 0 State.reset)
    let j : Fin 32 := 31
    let first := actionDue s j ∧ ∀ i, i < j.val → ¬actionDue s i
    ¬first) ∧
    (let s : State := State.reset
    let j : Fin 32 := 0
    let first := actionDue s j ∧ ∀ i, i < j.val → ¬actionDue s i
    ¬first) ∧
    (let s : State := schS 31 1 31 State.reset
    let j : Fin 32 := 31
    let a := addrSknScha j
    let act := s.fld a fldSknScha_ACT
    let arg := s.fld a fldSknScha_ARG
    let first := actionDue s j ∧ ∀ i, i < j.val → ¬actionDue s i
    first ∧ act = 1 ∧ arg < 32) ∧
    (let s : State := schS 31 2 0 State.reset
    let j : Fin 32 := 31
    let a := addrSknScha j
    let act := s.fld a fldSknScha_ACT
    let first := actionDue s j ∧ ∀ i, i < j.val → ¬actionDue s i
    first ∧ act = 2) ∧
    (let s : State := schS 31 3 255 (State.reset.setFld (addrSknCst 255) fldSknCst_STATE 2)
    let j : Fin 32 := 31
    let a := addrSknScha j
    let act := s.fld a fldSknScha_ACT
    let arg := s.fld a fldSknScha_ARG
    let first := actionDue s j ∧ ∀ i, i < j.val → ¬actionDue s i
    first ∧ act = 3 ∧ arg < 256 ∧ s.sknState arg ≠ 0 ∧ (s.sknState arg ≠ 2 ∨ s.sknWaits arg = false)) ∧
    (let s : State := schS 0 3 255 State.reset
    let j : Fin 32 := 0
    let a := addrSknScha j
    let act := s.fld a fldSknScha_ACT
    let arg := s.fld a fldSknScha_ARG
    let first := actionDue s j ∧ ∀ i, i < j.val → ¬actionDue s i
    first ∧ act = 3 ∧ arg < 256 ∧ s.sknState arg = 0) ∧
    (let s : State := putW ((schS 31 4 0 ((skS 1 (skCtx 255 [65] []) []).setFld addrSknCtl enSTATE 2)).wr addrLgrBase 0x12000000) [(0x12000070, 900), (0x12000074, 900)]
    let j : Fin 32 := 31
    let a := addrSknScha j
    let act := s.fld a fldSknScha_ACT
    let arg := s.fld a fldSknScha_ARG
    let first := actionDue s j ∧ ∀ i, i < j.val → ¬actionDue s i
    first ∧ act = 4 ∧ arg < 256 ∧ s.unitState addrSknCtl = 2 ∧ s.sknState arg = 1 ∧ s.sknCells (s.skn arg) 2 false ≤ s.ctr (s.skn arg).pool .free) ∧
    (let s : State := State.reset
    let p : PortNo := 143
    let due := s.on addrSknTcfg fldSknTcfg_TSEN = true ∧ s.lstate p = 3 ∧ s.fld addrSknTcfg fldSknTcfg_PERIOD ≤ (s.port p).tsCount
    ¬due) ∧
    (let s : State := ((linkS 143 3 State.reset).setFld addrSknTcfg fldSknTcfg_TSEN 1).modPort 143 fun t => { t with tsCount := 4095 }
    let p : PortNo := 143
    let due := s.on addrSknTcfg fldSknTcfg_TSEN = true ∧ s.lstate p = 3 ∧ s.fld addrSknTcfg fldSknTcfg_PERIOD ≤ (s.port p).tsCount
    due) ∧
    (let s : State := linkS 143 1 State.reset
    let p : PortNo := 143
    let c : Cell := ctlCell 0x20 []
    verified s p c ∧ ctlWellFormed c = true ∧ cCT c = 5 ∧ cSUB c = 0x20 ∧ s.beenUp p = false) ∧
    (let s : State := linkS 143 3 State.reset
    let p : PortNo := 143
    let c : Cell := ctlCell 0x20 []
    verified s p c ∧ ctlWellFormed c = true ∧ cCT c = 5 ∧ cSUB c = 0x20 ∧ s.lstate p = 3 ∧ cLACK c = s.txAck p ∧ (∀ tc, tc < 7 → pWord c (4 * tc) % 2 ^ 24 = s.fld (addrLnkCrrx p tc) fldLnkCrrx_CCNT)) ∧
    (let s : State := State.reset
    let p : PortNo := 143
    let w := s.lnkOn p fldLnkState_CWLOCK
    w = false) ∧
    (let s : State := tnsS fldTnsSt_PROB State.reset
    let p : PortNo := 143
    let w := s.lnkOn p fldLnkState_CWLOCK
    w = true) ∧
    (let s : State := State.reset
    let p : PortNo := 143
    let due := s.tns p fldTnsSt_SWPEND = true ∧ s.tns p fldTnsSt_PROB = false ∧ s.lnkOn p fldLnkState_CWLOCK = true
    ¬due) ∧
    (let s : State := tnsS fldTnsSt_SWPEND State.reset
    let p : PortNo := 143
    let due := s.tns p fldTnsSt_SWPEND = true ∧ s.tns p fldTnsSt_PROB = false ∧ s.lnkOn p fldLnkState_CWLOCK = true
    due) ∧
    (let s : State := State.reset
    let p : PortNo := 143
    let prob := s.tns p fldTnsSt_PROB
    let t0 := s.port p
    t0.revReq = false ∧ (prob = false ∨ t0.trigger = false)) ∧
    (let s : State := (tnsS fldTnsSt_PROB State.reset).modPort 143 fun t => { t with trigger := true }
    let p : PortNo := 143
    let prob := s.tns p fldTnsSt_PROB
    let t0 := s.port p
    prob = true ∧ (t0.trigger = true ∨ t0.revReq = true)) ∧
    (let s : State := State.reset.modPort 143 fun t => { t with revReq := true }
    let p : PortNo := 143
    let prob := s.tns p fldTnsSt_PROB
    let t0 := s.port p
    prob = false ∧ t0.revReq = true) ∧
    (let s : State := State.reset
    let p : PortNo := 143
    let ended := s.tns p fldTnsSt_PROB = true ∧ (s.port p).probLeft = 0 ∧ (s.port p).trigger = false
    ¬ended) ∧
    (let s : State := tnsS fldTnsSt_PROB State.reset
    let p : PortNo := 143
    let ended := s.tns p fldTnsSt_PROB = true ∧ (s.port p).probLeft = 0 ∧ (s.port p).trigger = false
    ended) ∧
    (let s : State := State.reset
    let p : PortNo := 143
    s.tns p fldTnsSt_TXPEND = false) ∧
    (let s : State := tnsS fldTnsSt_TXPEND State.reset
    let p : PortNo := 143
    s.tns p fldTnsSt_TXPEND = true) ∧
    (let s : State := tnsS fldTnsSt_DUE State.reset
    let p : PortNo := 143
    let due := s.fld (addrTnsDuet p) fldTnsDuet_SEC ≤ s.agec p ∧ s.tns p fldTnsSt_DUE = false
    ¬due) ∧
    (let s : State := State.reset.setFld (addrTnsDuet 143) fldTnsDuet_SEC 0
    let p : PortNo := 143
    let due := s.fld (addrTnsDuet p) fldTnsDuet_SEC ≤ s.agec p ∧ s.tns p fldTnsSt_DUE = false
    due) ∧
    (let s : State := State.reset
    let w := s.on addrTnsAgectl fldTnsAgectl_BUSY
    w = false) ∧
    (let s : State := State.reset.setFld addrTnsAgectl fldTnsAgectl_BUSY 1
    let w := s.on addrTnsAgectl fldTnsAgectl_BUSY
    w = true) := by
  iterate 2 refine ⟨by decide +kernel, ?_⟩
  iterate 7 refine ⟨by dsimp only [actionDue]; decide +kernel, ?_⟩
  iterate 2 refine ⟨by decide +kernel, ?_⟩
  iterate 2 refine ⟨by dsimp only [verified]; decide +kernel, ?_⟩
  iterate 14 refine ⟨by decide +kernel, ?_⟩
  decide +kernel

theorem witness_TreadleEvents :
    (let s : State := State.reset
    let c : Fin 256 := 255
    c.val ∉ s.pulses) ∧
    (let s : State := { (conS 255 1 0 [255]) with regs := [] }
    let c : Fin 256 := 255
    c.val ∈ s.pulses ∧ ¬passesGate s c) ∧
    (let s : State := conS 255 0 0 [255]
    let c : Fin 256 := 255
    let k := (if (s.tcon c).win = s.stormWindow then (s.tcon c).storm else 0) + 1
    let lim := colFld s c fldTrdCcfg_SLIM
    c.val ∈ s.pulses ∧ passesGate s c ∧ lim < k) ∧
    (let s : State := conS 0 1 1 [0]
    let c : Fin 256 := 0
    let k := (if (s.tcon c).win = s.stormWindow then (s.tcon c).storm else 0) + 1
    let lim := colFld s c fldTrdCcfg_SLIM
    c.val ∈ s.pulses ∧ passesGate s c ∧ k ≤ lim) ∧
    (let s : State := State.reset
    let c : Fin 256 := 255
    let st := addrTrdCst c
    let n := s.fld st fldTrdCst_CNT
    let held := s.on st fldTrdCst_PEND = true ∨ n ≠ 0
    let free := (s.tcon c).until_ ≤ s.aonTime
    (¬held ∨ ¬free)) ∧
    (let s : State := (heldS 167).setFld addrPwrStatus fldPwrStatus_STATE 3
    let c : Fin 256 := 167
    let awake := s.asleep = false
    c.val < 168 ∧ ¬awake) ∧
    (let c : Fin 256 := 188
    188 ≤ c.val ∧ c.val < 192) ∧
    (let c : Fin 256 := 191
    188 ≤ c.val ∧ c.val < 192) ∧
    (let s : State := (conS 159 1 1 []).modTcon 159 fun t => { t with ackDue := true }
    let c : Fin 256 := 159
    let counting := colFld s c fldTrdCcfg_MODE = 1
    c.val < 160 ∧ counting ∧ (s.tcon c).ackDue = true) ∧
    (let s : State := heldS 159
    let c : Fin 256 := 159
    let st := addrTrdCst c
    let n := s.fld st fldTrdCst_CNT
    let held := s.on st fldTrdCst_PEND = true ∨ n ≠ 0
    let counting := colFld s c fldTrdCcfg_MODE = 1
    let awake := s.asleep = false
    let free := (s.tcon c).until_ ≤ s.aonTime
    c.val < 160 ∧ awake ∧ held ∧ free ∧ (¬counting ∨ (s.tcon c).ackDue = false)) ∧
    (let s : State := heldS 0
    let c : Fin 256 := 0
    let st := addrTrdCst c
    let n := s.fld st fldTrdCst_CNT
    let held := s.on st fldTrdCst_PEND = true ∨ n ≠ 0
    let counting := colFld s c fldTrdCcfg_MODE = 1
    let awake := s.asleep = false
    let free := (s.tcon c).until_ ≤ s.aonTime
    c.val < 160 ∧ awake ∧ held ∧ free ∧ (¬counting ∨ (s.tcon c).ackDue = false)) ∧
    (let s : State := heldS 160
    let c : Fin 256 := 160
    let st := addrTrdCst c
    let n := s.fld st fldTrdCst_CNT
    let held := s.on st fldTrdCst_PEND = true ∨ n ≠ 0
    let awake := s.asleep = false
    let free := (s.tcon c).until_ ≤ s.aonTime
    160 ≤ c.val ∧ c.val < 168 ∧ awake ∧ held ∧ free ∧ (s.tcon c).given = false) ∧
    (let s : State := heldS 167
    let c : Fin 256 := 167
    let st := addrTrdCst c
    let n := s.fld st fldTrdCst_CNT
    let held := s.on st fldTrdCst_PEND = true ∨ n ≠ 0
    let awake := s.asleep = false
    let free := (s.tcon c).until_ ≤ s.aonTime
    160 ≤ c.val ∧ c.val < 168 ∧ awake ∧ held ∧ free ∧ (s.tcon c).given = false) ∧
    (let s : State := heldS 168
    let c : Fin 256 := 168
    let st := addrTrdCst c
    let n := s.fld st fldTrdCst_CNT
    let held := s.on st fldTrdCst_PEND = true ∨ n ≠ 0
    let free := (s.tcon c).until_ ≤ s.aonTime
    168 ≤ c.val ∧ c.val < 184 ∧ held ∧ free) ∧
    (let s : State := heldS 183
    let c : Fin 256 := 183
    let st := addrTrdCst c
    let n := s.fld st fldTrdCst_CNT
    let held := s.on st fldTrdCst_PEND = true ∨ n ≠ 0
    let free := (s.tcon c).until_ ≤ s.aonTime
    168 ≤ c.val ∧ c.val < 184 ∧ held ∧ free) ∧
    (let s : State := heldS 184
    let c : Fin 256 := 184
    let st := addrTrdCst c
    let n := s.fld st fldTrdCst_CNT
    let held := s.on st fldTrdCst_PEND = true ∨ n ≠ 0
    let free := (s.tcon c).until_ ≤ s.aonTime
    184 ≤ c.val ∧ c.val < 188 ∧ held ∧ free) ∧
    (let s : State := heldS 187
    let c : Fin 256 := 187
    let st := addrTrdCst c
    let n := s.fld st fldTrdCst_CNT
    let held := s.on st fldTrdCst_PEND = true ∨ n ≠ 0
    let free := (s.tcon c).until_ ≤ s.aonTime
    184 ≤ c.val ∧ c.val < 188 ∧ held ∧ free) ∧
    (let s : State := heldS 192
    let c : Fin 256 := 192
    let st := addrTrdCst c
    let n := s.fld st fldTrdCst_CNT
    let held := s.on st fldTrdCst_PEND = true ∨ n ≠ 0
    let free := (s.tcon c).until_ ≤ s.aonTime
    192 ≤ c.val ∧ held ∧ free) ∧
    (let s : State := heldS 255
    let c : Fin 256 := 255
    let st := addrTrdCst c
    let n := s.fld st fldTrdCst_CNT
    let held := s.on st fldTrdCst_PEND = true ∨ n ≠ 0
    let free := (s.tcon c).until_ ≤ s.aonTime
    192 ≤ c.val ∧ held ∧ free) := by
  refine ⟨by decide +kernel, ?_⟩
  iterate 3 refine ⟨by dsimp only [passesGate]; decide +kernel, ?_⟩
  iterate 14 refine ⟨by decide +kernel, ?_⟩
  decide +kernel

theorem witness_Pins :
    (let s : State := State.reset
    let i : Fin 16 := 15
    let es := (s.pin i).edges
    es = []) ∧
    (let s : State := State.reset.modPin 15 fun p => { p with edges := [⟨true, 32767, false⟩] }
    let i : Fin 16 := 15
    let es := (s.pin i).edges
    let ends := s.aonEnd / 2 ^ 24 % 2 ^ 64
    let due := fun (e : TEdge) => e.late = true ∨ 2 ^ 63 ≤ (e.time + 2 ^ 64 - ends) % 2 ^ 64
    let e := (⟨true, 32767, false⟩ : TEdge)
    e ∈ es.head? ∧ ¬due e) ∧
    (let s : State := State.reset.modPin 15 fun p => { p with edges := [⟨true, 2 ^ 63 + 32766, false⟩] }
    let i : Fin 16 := 15
    let es := (s.pin i).edges
    let ends := s.aonEnd / 2 ^ 24 % 2 ^ 64
    let due := fun (e : TEdge) => e.late = true ∨ 2 ^ 63 ≤ (e.time + 2 ^ 64 - ends) % 2 ^ 64
    let e := (⟨true, 2 ^ 63 + 32766, false⟩ : TEdge)
    e ∈ es.head? ∧ ¬due e) ∧
    (let s : State := State.reset.modPin 15 fun p => { p with edges := [⟨true, 32766, false⟩] }
    let i : Fin 16 := 15
    let es := (s.pin i).edges
    let ends := s.aonEnd / 2 ^ 24 % 2 ^ 64
    let due := fun (e : TEdge) => e.late = true ∨ 2 ^ 63 ≤ (e.time + 2 ^ 64 - ends) % 2 ^ 64
    let e := (⟨true, 32766, false⟩ : TEdge)
    e ∈ es.head? ∧ due e) ∧
    (let s : State := State.reset.modPin 15 fun p => { p with edges := [⟨true, 2 ^ 63 + 32767, false⟩] }
    let i : Fin 16 := 15
    let es := (s.pin i).edges
    let ends := s.aonEnd / 2 ^ 24 % 2 ^ 64
    let due := fun (e : TEdge) => e.late = true ∨ 2 ^ 63 ≤ (e.time + 2 ^ 64 - ends) % 2 ^ 64
    let e := (⟨true, 2 ^ 63 + 32767, false⟩ : TEdge)
    e ∈ es.head? ∧ due e) ∧
    (let s : State := State.reset.setFld (addrPinTctl 15) fldPinTctl_CAPE 1
    let i : Fin 16 := 15
    let up : Bool := false
    let c := s.fld (addrPinTctl i) fldPinTctl_CAPE
    let sel := (c = 1 ∧ up = true) ∨ (c = 2 ∧ up = false) ∨ c = 3
    ¬sel) ∧
    (let s : State := State.reset.setFld (addrPinTctl 15) fldPinTctl_CAPE 2
    let i : Fin 16 := 15
    let up : Bool := false
    let c := s.fld (addrPinTctl i) fldPinTctl_CAPE
    let sel := (c = 1 ∧ up = true) ∨ (c = 2 ∧ up = false) ∨ c = 3
    let a := addrPinTqst i
    sel ∧ s.on a fldPinTqst_CVALID = false) ∧
    (let s : State := (State.reset.setFld (addrPinTctl 15) fldPinTctl_CAPE 3).setFld (addrPinTqst 15) fldPinTqst_CVALID 1
    let i : Fin 16 := 15
    let up : Bool := true
    let c := s.fld (addrPinTctl i) fldPinTctl_CAPE
    let sel := (c = 1 ∧ up = true) ∨ (c = 2 ∧ up = false) ∨ c = 3
    let a := addrPinTqst i
    sel ∧ s.on a fldPinTqst_CVALID = true) := by
  iterate 7 refine ⟨by decide +kernel, ?_⟩
  decide +kernel

theorem witness_SecurityEngine :
    (let s : State := State.reset
    s.secNext = none) ∧
    (let s : State := secS 0 1 0 0 0 48 State.reset
    let j : Nat := 16
    let n := 0
    let k := nth 0 (tget (fun _ => []) s.secq n) 0
    let w := fun (i : Nat) => wordAt s (k + 4 * i)
    let op := w 0 % 256
    s.secNext = some n ∧ blockOk s n k ∧ 1 ≤ j ∧ j ≤ 16 ∧ op ≠ j ∧ 1 ≤ op ∧ op ≤ 16) ∧
    (let s : State := secS 39 16 0 0 0 48 State.reset
    let j : Nat := 1
    let n := 39
    let k := nth 0 (tget (fun _ => []) s.secq n) 0
    let w := fun (i : Nat) => wordAt s (k + 4 * i)
    let op := w 0 % 256
    s.secNext = some n ∧ blockOk s n k ∧ 1 ≤ j ∧ j ≤ 16 ∧ op ≠ j ∧ 1 ≤ op ∧ op ≤ 16) ∧
    (let s : State := secS 0 0 0 0 0 48 State.reset
    let n := 0
    let k := nth 0 (tget (fun _ => []) s.secq n) 0
    let w := fun (i : Nat) => wordAt s (k + 4 * i)
    let op := w 0 % 256
    s.secNext = some n ∧ blockOk s n k ∧ (op = 0 ∨ 16 < op)) ∧
    (let s : State := secS 39 17 0 0 0 48 State.reset
    let n := 39
    let k := nth 0 (tget (fun _ => []) s.secq n) 0
    let w := fun (i : Nat) => wordAt s (k + 4 * i)
    let op := w 0 % 256
    s.secNext = some n ∧ blockOk s n k ∧ (op = 0 ∨ 16 < op)) ∧
    (let s : State := secS 38 10 0 0 0 48 State.reset
    let n := 38
    let k := nth 0 (tget (fun _ => []) s.secq n) 0
    let w := fun (i : Nat) => wordAt s (k + 4 * i)
    let op := w 0 % 256
    s.secNext = some n ∧ blockOk s n k ∧ 1 ≤ op ∧ op ≤ 16 ∧ op ≠ 14 ∧ n ≠ 39 ∧ linkOp op = false) ∧
    (let s : State := secS 39 1 0 0 19 48 State.reset
    let n := 39
    let k := nth 0 (tget (fun _ => []) s.secq n) 0
    let w := fun (i : Nat) => wordAt s (k + 4 * i)
    let op := w 0 % 256
    let il := w 6
    s.secNext = some n ∧ blockOk s n k ∧ op = 1 ∧ areasOk s n k il 48) ∧
    (let s : State := secS 39 2 0 0 0 33 State.reset
    let n := 39
    let k := nth 0 (tget (fun _ => []) s.secq n) 0
    let w := fun (i : Nat) => wordAt s (k + 4 * i)
    let op := w 0 % 256
    s.secNext = some n ∧ blockOk s n k ∧ op = 2 ∧ areasOk s n k 0 (w 8)) ∧
    (let s : State := secS 39 3 0 0 0 (16 + lenKeys) State.reset
    let n := 39
    let k := nth 0 (tget (fun _ => []) s.secq n) 0
    let w := fun (i : Nat) => wordAt s (k + 4 * i)
    let op := w 0 % 256
    s.secNext = some n ∧ blockOk s n k ∧ op = 3 ∧ areasOk s n k 0 (16 + lenKeys)) ∧
    (let s : State := secS 39 4 0 0 48 lenSigs State.reset
    let n := 39
    let k := nth 0 (tget (fun _ => []) s.secq n) 0
    let w := fun (i : Nat) => wordAt s (k + 4 * i)
    let op := w 0 % 256
    s.secNext = some n ∧ blockOk s n k ∧ op = 4 ∧ areasOk s n k 48 lenSigs) ∧
    (let s : State := secS 39 5 0 0 19 lenKeys State.reset
    let n := 39
    let k := nth 0 (tget (fun _ => []) s.secq n) 0
    let w := fun (i : Nat) => wordAt s (k + 4 * i)
    let op := w 0 % 256
    let il := w 6
    let oa := w 7
    s.secNext = some n ∧ blockOk s n k ∧ op = 5 ∧ areasOk s n k il lenKeys ∧ s.secMay n .read oa lenKeys = true) ∧
    (let s : State := secS 0 6 0 0 0 lenKem (keysS ((List.range 255).map fun i => (i, ⟨0, []⟩)) State.reset)
    let n := 0
    let k := nth 0 (tget (fun _ => []) s.secq n) 0
    let w := fun (i : Nat) => wordAt s (k + 4 * i)
    let op := w 0 % 256
    let h := 255
    s.secNext = some n ∧ blockOk s n k ∧ h < 256 ∧ freeHandle s h ∧ op = 6 ∧ areasOk s n k 0 lenKem) ∧
    (let s : State := secS 39 6 0 0 0 lenKem State.reset
    let n := 39
    let k := nth 0 (tget (fun _ => []) s.secq n) 0
    let w := fun (i : Nat) => wordAt s (k + 4 * i)
    let op := w 0 % 256
    let h := 0
    s.secNext = some n ∧ blockOk s n k ∧ h < 256 ∧ freeHandle s h ∧ op = 6 ∧ areasOk s n k 0 lenKem) ∧
    (let s : State := secS 39 7 0 0 lenKem lenKem State.reset
    let n := 39
    let k := nth 0 (tget (fun _ => []) s.secq n) 0
    let w := fun (i : Nat) => wordAt s (k + 4 * i)
    let op := w 0 % 256
    let h := 0
    s.secNext = some n ∧ blockOk s n k ∧ h < 256 ∧ freeHandle s h ∧ op = 7 ∧ areasOk s n k lenKem lenKem) ∧
    (let s : State := secS 39 8 0 0 lenKem 0 (keysS [(0, ⟨0, [3]⟩)] State.reset)
    let n := 39
    let k := nth 0 (tget (fun _ => []) s.secq n) 0
    let w := fun (i : Nat) => wordAt s (k + 4 * i)
    let op := w 0 % 256
    let h := 1
    let d := [(3 : Byte)]
    s.secNext = some n ∧ blockOk s n k ∧ h < 256 ∧ freeHandle s h ∧ s.secretOf 0 (w 1) = some d ∧ op = 8 ∧ areasOk s n k lenKem 0) ∧
    (let s : State := secS 39 8 0 255 lenKem 0 State.reset
    let n := 39
    let k := nth 0 (tget (fun _ => []) s.secq n) 0
    let w := fun (i : Nat) => wordAt s (k + 4 * i)
    let op := w 0 % 256
    s.secNext = some n ∧ blockOk s n k ∧ op = 8 ∧ s.secretOf 0 (w 1) = none) ∧
    (let s : State := secS 0 9 259 0 48 96 (keysS [(0, ⟨1, [3]⟩)] State.reset)
    let n := 0
    let k := nth 0 (tget (fun _ => []) s.secq n) 0
    let w := fun (i : Nat) => wordAt s (k + 4 * i)
    let op := w 0 % 256
    let par := w 0 / 256 % 65536
    let p := par % 256
    let e := par / 256 % 4
    let d := [(3 : Byte)]
    s.secNext = some n ∧ blockOk s n k ∧ s.secretOf 1 (w 1) = some d ∧ op = 9 ∧ p < 144 ∧ (e = 1 ∨ e = 2) ∧ par / 2048 = 0 ∧ ownPort n p = true ∧ areasOk s n k 48 96) ∧
    (let s : State := secS 0 9 (143 + 512) 0 48 96 (keysS [(0, ⟨1, [3]⟩)] State.reset)
    let n := 0
    let k := nth 0 (tget (fun _ => []) s.secq n) 0
    let w := fun (i : Nat) => wordAt s (k + 4 * i)
    let op := w 0 % 256
    let par := w 0 / 256 % 65536
    let p := par % 256
    let e := par / 256 % 4
    s.secNext = some n ∧ blockOk s n k ∧ op = 9 ∧ p < 144 ∧ (e = 1 ∨ e = 2) ∧ par / 2048 = 0 ∧ ownPort n p = false) ∧
    (let s : State := secS 39 10 0 0 19 48 (keysS [(0, ⟨2, [3]⟩)] State.reset)
    let n := 39
    let k := nth 0 (tget (fun _ => []) s.secq n) 0
    let w := fun (i : Nat) => wordAt s (k + 4 * i)
    let op := w 0 % 256
    let il := w 6
    let d := [(3 : Byte)]
    s.secNext = some n ∧ blockOk s n k ∧ s.secretOf 2 (w 1) = some d ∧ op = 10 ∧ n = 39 ∧ areasOk s n k il 48) ∧
    (let s : State := secS 39 11 3 0 (lenKeys + lenKem + lenSigs) 0 State.reset
    let n := 39
    let k := nth 0 (tget (fun _ => []) s.secq n) 0
    let w := fun (i : Nat) => wordAt s (k + 4 * i)
    let op := w 0 % 256
    let par := w 0 / 256 % 65536
    s.secNext = some n ∧ blockOk s n k ∧ op = 11 ∧ n = 39 ∧ areasOk s n k (lenKeys + lenKem + lenSigs) 0 ∧ 1 ≤ par ∧ par ≤ 3 ∧ s.chal = none) ∧
    (let s : State := secS 39 12 8191 1 (lenKem + 48) 0 (sesS 2 (ses false) State.reset)
    let n := 39
    let k := nth 0 (tget (fun _ => []) s.secq n) 0
    let w := fun (i : Nat) => wordAt s (k + 4 * i)
    let op := w 0 % 256
    let par := w 0 / 256 % 65536
    let x := (2, ses false)
    s.secNext = some n ∧ blockOk s n k ∧ x ∈ s.sessions.head? ∧ x.2.handle = w 1 ∧ s.bootKem = none ∧ op = 12 ∧ n = 39 ∧ par / 8192 = 0 ∧ areasOk s n k (lenKem + 48) 0) ∧
    (let s : State := secS 39 13 0 255 0 0 (keysS [(255, ⟨2, [3]⟩)] State.reset)
    let n := 39
    let k := nth 0 (tget (fun _ => []) s.secq n) 0
    let w := fun (i : Nat) => wordAt s (k + 4 * i)
    let op := w 0 % 256
    let par := w 0 / 256 % 65536
    s.secNext = some n ∧ blockOk s n k ∧ op = 13 ∧ par / 16384 = 0 ∧ s.secret (w 1) ≠ none) ∧
    (let s : State := secS 39 13 (2 * 16384 + 4095) 0 0 0 State.reset
    let n := 39
    let k := nth 0 (tget (fun _ => []) s.secq n) 0
    let w := fun (i : Nat) => wordAt s (k + 4 * i)
    let op := w 0 % 256
    let par := w 0 / 256 % 65536
    s.secNext = some n ∧ blockOk s n k ∧ op = 13 ∧ par / 16384 = 2 ∧ n = 39) ∧
    (let s : State := secS 0 13 (16384 + 256) 0 0 0 State.reset
    let n := 0
    let k := nth 0 (tget (fun _ => []) s.secq n) 0
    let w := fun (i : Nat) => wordAt s (k + 4 * i)
    let op := w 0 % 256
    let par := w 0 / 256 % 65536
    let p := par % 256
    s.secNext = some n ∧ blockOk s n k ∧ op = 13 ∧ par / 16384 = 1 ∧ p < 144 ∧ ownPort n p = true) ∧
    (let s : State := let s := secS 39 14 0 0 80 0 State.reset; s.wr addrSecAudbase 0x10C
    let n := 39
    let k := nth 0 (tget (fun _ => []) s.secq n) 0
    let w := fun (i : Nat) => wordAt s (k + 4 * i)
    let op := w 0 % 256
    let a := lapBlk 39 (s.fld addrSecAudbase fldSecAudbase_BASE * 65536 + s.audNext % 512 * 128)
    s.secNext = some n ∧ blockOk s n k ∧ op = 14 ∧ n = 39 ∧ areasOk s n k 80 0 ∧ s.audReady 1 = true ∧ apart a 128 k 64 ∧ cleanAt s a 128) ∧
    (let s : State := secS 39 15 0 0 48 (608 + lenSigs) State.reset
    let n := 39
    let k := nth 0 (tget (fun _ => []) s.secq n) 0
    let w := fun (i : Nat) => wordAt s (k + 4 * i)
    let op := w 0 % 256
    s.secNext = some n ∧ blockOk s n k ∧ op = 15 ∧ n = 39 ∧ areasOk s n k 48 (608 + lenSigs)) ∧
    (let s : State := secS 39 16 0 1 0 0 ({ State.reset with sessions := [(1, ses false)] }.setFld addrSecStatus fldSecStatus_LCS 2)
    let n := 39
    let k := nth 0 (tget (fun _ => []) s.secq n) 0
    let w := fun (i : Nat) => wordAt s (k + 4 * i)
    let op := w 0 % 256
    let x := (1, ses false)
    s.secNext = some n ∧ blockOk s n k ∧ x ∈ s.sessions.head? ∧ x.2.sid = w 9 ∧ x.2.handle = w 1 ∧ 1 ≤ x.1 ∧ x.1 ≤ 3 ∧ op = 16 ∧ n = 39 ∧ (x.1 ≠ 3 ∨ s.lcs ≠ 2 ∨ x.2.cosig = true)) ∧
    (let s : State := secS 39 16 0 1 0 0 ({ State.reset with sessions := [(3, ses false)] }.setFld addrSecStatus fldSecStatus_LCS 1)
    let n := 39
    let k := nth 0 (tget (fun _ => []) s.secq n) 0
    let w := fun (i : Nat) => wordAt s (k + 4 * i)
    let op := w 0 % 256
    let x := (3, ses false)
    s.secNext = some n ∧ blockOk s n k ∧ x ∈ s.sessions.head? ∧ x.2.sid = w 9 ∧ x.2.handle = w 1 ∧ 1 ≤ x.1 ∧ x.1 ≤ 3 ∧ op = 16 ∧ n = 39 ∧ (x.1 ≠ 3 ∨ s.lcs ≠ 2 ∨ x.2.cosig = true)) ∧
    (let s : State := secS 39 16 0 1 0 0 ({ State.reset with sessions := [(3, ses true)] }.setFld addrSecStatus fldSecStatus_LCS 2)
    let n := 39
    let k := nth 0 (tget (fun _ => []) s.secq n) 0
    let w := fun (i : Nat) => wordAt s (k + 4 * i)
    let op := w 0 % 256
    let x := (3, ses true)
    s.secNext = some n ∧ blockOk s n k ∧ x ∈ s.sessions.head? ∧ x.2.sid = w 9 ∧ x.2.handle = w 1 ∧ 1 ≤ x.1 ∧ x.1 ≤ 3 ∧ op = 16 ∧ n = 39 ∧ (x.1 ≠ 3 ∨ s.lcs ≠ 2 ∨ x.2.cosig = true)) ∧
    (let s : State := secS 39 16 0 1 0 0 ({ State.reset with sessions := [(3, ses false)] }.setFld addrSecStatus fldSecStatus_LCS 2)
    let n := 39
    let k := nth 0 (tget (fun _ => []) s.secq n) 0
    let w := fun (i : Nat) => wordAt s (k + 4 * i)
    let op := w 0 % 256
    let x := (3, ses false)
    s.secNext = some n ∧ blockOk s n k ∧ x ∈ s.sessions.head? ∧ x.2.sid = w 9 ∧ x.2.handle = w 1 ∧ 1 ≤ x.1 ∧ x.1 ≤ 3 ∧ op = 16 ∧ n = 39 ∧ x.1 = 3 ∧ s.lcs = 2 ∧ x.2.cosig = false) ∧
    (let s : State := instS [(0, sha384 (List.replicate lenKeys 0))] (secS 39 11 2 0 (lenKeys + lenKem + lenSigs) 0 (bootS State.reset))
    let n := 39
    let ch := [(1 : Byte), 2]
    let bk := ((0, [(5 : Byte)]) : Nat × List Byte)
    let priv := [(1 : Byte)]
    let k := nth 0 (tget (fun _ => []) s.secq n) 0
    let w := fun (i : Nat) => wordAt s (k + 4 * i)
    let par := w 0 / 256 % 65536
    let inp := bytesAt s (w 5) (w 6)
    let keys := inp.take lenKeys
    let h := 1
    s.secNext = some n ∧ s.chal = some ch ∧ s.bootKem = some bk ∧ s.secretOf 0 bk.1 = some priv ∧ blockOk s n k ∧ n = 39 ∧ w 0 % 256 = 11 ∧ 1 ≤ par ∧ par ≤ 3 ∧ areasOk s n k (lenKeys + lenKem + lenSigs) 0 ∧ s.barred par = false ∧ s.roleKeys par keys = true ∧ s.session par = none ∧ h < 256 ∧ freeHandle s h) ∧
    (let s : State := { secS 39 11 3 0 (lenKeys + lenKem + lenSigs) 0 (bootS State.reset) with openBar := [(3, 1)] }
    let n := 39
    let ch := [(1 : Byte), 2]
    let bk := ((0, [(5 : Byte)]) : Nat × List Byte)
    let priv := [(1 : Byte)]
    let k := nth 0 (tget (fun _ => []) s.secq n) 0
    let w := fun (i : Nat) => wordAt s (k + 4 * i)
    let par := w 0 / 256 % 65536
    let inp := bytesAt s (w 5) (w 6)
    let keys := inp.take lenKeys
    let enc := (inp.drop lenKeys).take lenKem
    let good := s.barred par = false ∧ s.roleKeys par keys = true ∧ Config.cryptoOk 5 (sha384 (ch ++ bytesLE 2 s.devId ++ bytesLE 2 par ++ enc) ++ inp.drop (lenKeys + lenKem) ++ keys) = true
    s.secNext = some n ∧ s.chal = some ch ∧ s.bootKem = some bk ∧ s.secretOf 0 bk.1 = some priv ∧ blockOk s n k ∧ n = 39 ∧ w 0 % 256 = 11 ∧ 1 ≤ par ∧ par ≤ 3 ∧ areasOk s n k (lenKeys + lenKem + lenSigs) 0 ∧ ¬good) ∧
    (let s : State := secS 39 12 8191 1 (lenKem + 48) 0 (sesS 2 (ses false) (bootS State.reset))
    let n := 39
    let ch := [(1 : Byte), 2]
    let bk := ((0, [(5 : Byte)]) : Nat × List Byte)
    let priv := [(1 : Byte)]
    let k := nth 0 (tget (fun _ => []) s.secq n) 0
    let w := fun (i : Nat) => wordAt s (k + 4 * i)
    let par := w 0 / 256 % 65536
    let inp := bytesAt s (w 5) (w 6)
    let slot := par % 4096
    let ok := fun (c : List Byte) => let wk := cryptoN 0x0C (cryptoN 8 (priv ++ inp.take lenKem) 0 80 ++ c ++ bytesLE 2 slot ++ bytesLE 4 (w 9)) 0 32; Config.cryptoOk 0x11 (wk ++ inp.drop lenKem)
    let x := (2, ses false)
    s.secNext = some n ∧ s.chal = some ch ∧ s.bootKem = some bk ∧ s.secretOf 0 bk.1 = some priv ∧ blockOk s n k ∧ n = 39 ∧ x ∈ s.sessions.head? ∧ x.2.handle = w 1 ∧ w 0 % 256 = 12 ∧ par / 8192 = 0 ∧ areasOk s n k (lenKem + 48) 0 ∧ (ok x.2.chal = true ∨ ok x.2.chal = false)) ∧
    (let s : State := secS 39 12 8191 1 (lenKem + 48) 0 (sesS 2 (ses false) (bootS State.reset))
    let n := 39
    let ch := [(1 : Byte), 2]
    let bk := ((0, [(5 : Byte)]) : Nat × List Byte)
    let priv := [(1 : Byte)]
    let k := nth 0 (tget (fun _ => []) s.secq n) 0
    let w := fun (i : Nat) => wordAt s (k + 4 * i)
    let par := w 0 / 256 % 65536
    let inp := bytesAt s (w 5) (w 6)
    let slot := par % 4096
    let ok := fun (c : List Byte) => let wk := cryptoN 0x0C (cryptoN 8 (priv ++ inp.take lenKem) 0 80 ++ c ++ bytesLE 2 slot ++ bytesLE 4 (w 9)) 0 32; Config.cryptoOk 0x11 (wk ++ inp.drop lenKem)
    let x := (2, ses false)
    s.secNext = some n ∧ s.chal = some ch ∧ s.bootKem = some bk ∧ s.secretOf 0 bk.1 = some priv ∧ blockOk s n k ∧ n = 39 ∧ x ∈ s.sessions.head? ∧ x.2.handle = w 1 ∧ w 0 % 256 = 12 ∧ par / 8192 = 0 ∧ areasOk s n k (lenKem + 48) 0 ∧ (ok x.2.chal = true ∨ ok x.2.chal = false)) := by
  refine ⟨by decide +kernel, ?_⟩
  iterate 5 refine ⟨by dsimp only [blockOk, cleanAt]; decide +kernel, ?_⟩
  iterate 5 refine ⟨by dsimp only [blockOk, areasOk, cleanAt, apart]; decide +kernel, ?_⟩
  iterate 4 refine ⟨by dsimp only [blockOk, areasOk, freeHandle, cleanAt, apart]; decide +kernel, ?_⟩
  refine ⟨by dsimp only [blockOk, cleanAt]; decide +kernel, ?_⟩
  refine ⟨by dsimp only [blockOk, areasOk, cleanAt, apart]; decide +kernel, ?_⟩
  refine ⟨by dsimp only [blockOk, cleanAt]; decide +kernel, ?_⟩
  iterate 3 refine ⟨by dsimp only [blockOk, areasOk, cleanAt, apart]; decide +kernel, ?_⟩
  iterate 3 refine ⟨by dsimp only [blockOk, cleanAt]; decide +kernel, ?_⟩
  refine ⟨by dsimp only [cleanAt, blockOk, apart, areasOk]; decide +kernel, ?_⟩
  refine ⟨by dsimp only [blockOk, areasOk, cleanAt, apart]; decide +kernel, ?_⟩
  iterate 4 refine ⟨by dsimp only [blockOk, cleanAt]; decide +kernel, ?_⟩
  refine ⟨by (try dsimp only [blockOk, areasOk, freeHandle, cleanAt, apart]) <;> (repeat' apply And.intro) <;> first | decide +kernel | rfl | (refine roleKeys_two _ _ _ (List.replicate lenKeys 0) ?_ ?_ ?_ ?_ <;> first | decide +kernel | rfl), ?_⟩
  refine ⟨by (try dsimp only [blockOk, areasOk, cleanAt, apart]) <;> (repeat' apply And.intro) <;> first | decide +kernel | rfl | (rintro ⟨h, -⟩; revert h; decide +kernel), ?_⟩
  refine ⟨by (try dsimp only [blockOk, areasOk, cleanAt, apart]) <;> (repeat' apply And.intro) <;> first | decide +kernel | rfl | exact (Bool.eq_false_or_eq_true _), ?_⟩
  (try dsimp only [blockOk, areasOk, cleanAt, apart]) <;> (repeat' apply And.intro) <;> first | decide +kernel | rfl | exact (Bool.eq_false_or_eq_true _)

theorem witness_RoleDialogue :
    (let s : State := State.reset
    let bob : Bool := false
    let f : List Byte := []
    ¬mayTake s bob f) ∧
    (let s : State := (List.range 4).foldl (fun s j => s.wr (addrSecMbxin j) (wordOf (leBytes (((bareFrame 0 1).drop (4 * j)).take 4)))) (millS State.reset)
    let bob : Bool := false
    let f : List Byte := (bareFrame 0 1).take 15
    let t := parseFrame bob f
    let whole := 16 ≤ f.length ∧ t.body.length = leBytes ((f.drop 12).take 4)
    mayTake s bob f ∧ ¬whole) ∧
    (let s : State := (List.range 4).foldl (fun s j => s.wr (addrSecMbxin j) (wordOf (leBytes (((bareFrame 0 4).drop (4 * j)).take 4)))) (millS State.reset)
    let bob : Bool := false
    let f : List Byte := bareFrame 0 4
    let t := parseFrame bob f
    let whole := 16 ≤ f.length ∧ t.body.length = leBytes ((f.drop 12).take 4)
    mayTake s bob f ∧ whole ∧ t.sid = 0 ∧ freeCode t.code = true) ∧
    (let s : State := millS (queueS State.reset)
    let bob : Bool := true
    let f : List Byte := bareFrame 0 1
    let t := parseFrame bob f
    let whole := 16 ≤ f.length ∧ t.body.length = leBytes ((f.drop 12).take 4)
    mayTake s bob f ∧ whole ∧ t.sid = 0 ∧ freeCode t.code = true) ∧
    (let s : State := (List.range 4).foldl (fun s j => s.wr (addrSecMbxin j) (wordOf (leBytes (((bareFrame 0 3).drop (4 * j)).take 4)))) (millS State.reset)
    let bob : Bool := false
    let f : List Byte := bareFrame 0 3
    let t := parseFrame bob f
    let whole := 16 ≤ f.length ∧ t.body.length = leBytes ((f.drop 12).take 4)
    mayTake s bob f ∧ whole ∧ t.sid = 0 ∧ freeCode t.code = false) ∧
    (let s : State := (List.range 4).foldl (fun s j => s.wr (addrSecMbxin j) (wordOf (leBytes (((bareFrame 1 3).drop (4 * j)).take 4)))) (millS State.reset)
    let bob : Bool := false
    let f : List Byte := bareFrame 1 3
    let t := parseFrame bob f
    let whole := 16 ≤ f.length ∧ t.body.length = leBytes ((f.drop 12).take 4)
    mayTake s bob f ∧ whole ∧ t.sid ≠ 0 ∧ (∀ y ∈ s.sessions, y.2.sid ≠ t.sid)) ∧
    (let s : State := { millS (queueS State.reset) with sessions := [(1, sesL 0 6)] }
    let bob : Bool := true
    let f : List Byte := frameOf 5 4 3 2 []
    let t := parseFrame bob f
    let body := 16 + t.body.length
    let whole := 16 ≤ f.length ∧ t.body.length = leBytes ((f.drop 12).take 4)
    let y := (1, sesL 0 6)
    let good := t.role = y.1 ∧ t.tail.take 48 = hmac384 (s.keyOf y.2) (f.take body)
    y ∈ s.sessions.head? ∧ s.sessions.length = 1 ∧ mayTake s bob f ∧ whole ∧ t.sid ≠ 0 ∧ y.2.sid = t.sid ∧ ¬good) ∧
    (let s : State := { millS (queueS State.reset) with sessions := [(1, sesL 0 7)] }
    let bob : Bool := true
    let f : List Byte := frameOf 5 4 3 2 []
    let t := parseFrame bob f
    let body := 16 + t.body.length
    let whole := 16 ≤ f.length ∧ t.body.length = leBytes ((f.drop 12).take 4)
    let y := (1, sesL 0 7)
    let good := t.role = y.1 ∧ t.tail.take 48 = hmac384 (s.keyOf y.2) (f.take body)
    y ∈ s.sessions.head? ∧ s.sessions.length = 1 ∧ mayTake s bob f ∧ whole ∧ t.sid ≠ 0 ∧ y.2.sid = t.sid ∧ ¬good) ∧
    (let s : State := { millS (queueS State.reset) with sessions := [(1, sesL 0 0)] }
    let bob : Bool := true
    let f : List Byte := frameOf 5 3 3 1 [] ++ hmac384 [9] (frameOf 5 3 3 1 [])
    let t := parseFrame bob f
    let body := 16 + t.body.length
    let whole := 16 ≤ f.length ∧ t.body.length = leBytes ((f.drop 12).take 4)
    let y := (1, sesL 0 0)
    let good := t.role = y.1 ∧ t.tail.take 48 = hmac384 (s.keyOf y.2) (f.take body)
    y ∈ s.sessions.head? ∧ s.sessions.length = 1 ∧ mayTake s bob f ∧ whole ∧ t.sid ≠ 0 ∧ y.2.sid = t.sid ∧ good ∧ t.cseq ≠ y.2.cseq + 1) ∧
    (let s : State := { millS (queueS State.reset) with sessions := [(1, sesL 0 0)] }
    let bob : Bool := true
    let f : List Byte := frameOf 5 4 771 1 [] ++ hmac384 [9] (frameOf 5 4 771 1 [])
    let t := parseFrame bob f
    let body := 16 + t.body.length
    let whole := 16 ≤ f.length ∧ t.body.length = leBytes ((f.drop 12).take 4)
    let y := (1, sesL 0 0)
    let good := t.role = y.1 ∧ t.tail.take 48 = hmac384 (s.keyOf y.2) (f.take body)
    y ∈ s.sessions.head? ∧ s.sessions.length = 1 ∧ mayTake s bob f ∧ whole ∧ t.sid ≠ 0 ∧ y.2.sid = t.sid ∧ good ∧ t.cseq = y.2.cseq + 1 ∧ t.tail.length = 48 ∧ (y.1 ≠ 3 ∨ s.lcs ≠ 2) ∧ knownCode t.code = true ∧ t.code ≠ 1 ∧ t.code ≠ 2) ∧
    (let s : State := { millS (queueS State.reset) with sessions := [(1, sesL 0 0)] }
    let bob : Bool := true
    let f : List Byte := frameOf 5 4 772 1 [] ++ hmac384 [9] (frameOf 5 4 772 1 [])
    let t := parseFrame bob f
    let body := 16 + t.body.length
    let whole := 16 ≤ f.length ∧ t.body.length = leBytes ((f.drop 12).take 4)
    let y := (1, sesL 0 0)
    let good := t.role = y.1 ∧ t.tail.take 48 = hmac384 (s.keyOf y.2) (f.take body)
    y ∈ s.sessions.head? ∧ s.sessions.length = 1 ∧ mayTake s bob f ∧ whole ∧ t.sid ≠ 0 ∧ y.2.sid = t.sid ∧ good ∧ t.cseq = y.2.cseq + 1 ∧ t.tail.length = 48 ∧ (y.1 ≠ 3 ∨ s.lcs ≠ 2) ∧ knownCode t.code = false) ∧
    (let s : State := takeS 1 2 0 ([]) (ses false) (State.reset)
    let t := (⟨true, 0, 4, 2, 1, [], []⟩ : Taken)
    s.taken = some t ∧ t.code ≠ 1) ∧
    (let s : State := takeS 1 1 0 ([]) (ses false) (State.reset)
    let t := (⟨true, 0, 4, 1, 1, [], []⟩ : Taken)
    s.taken = some t ∧ t.code ≠ 2) ∧
    (let s : State := takeS 1 1 0 ([]) (ses false) (State.reset)
    let t := (⟨true, 0, 4, 1, 1, [], []⟩ : Taken)
    s.taken = some t ∧ t.code ≠ 4) ∧
    (let s : State := takeS 1 1 0 ([]) (ses false) (bootS State.reset)
    let t := (⟨true, 0, 4, 1, 1, [], []⟩ : Taken)
    s.taken = some t ∧ s.audReady 4 = true ∧ t.code = 1 ∧ s.bootKem.isSome = true) ∧
    (let s : State := takeS 1 4 0 (List.replicate 48 0) (ses false) (State.reset)
    let t := (⟨true, 0, 4, 4, 1, List.replicate 48 0, []⟩ : Taken)
    s.taken = some t ∧ s.audReady 4 = true ∧ t.code = 4 ∧ t.body.length = 48) ∧
    (let s : State := takeS 1 4 0 (List.replicate 47 0) (ses false) (State.reset)
    let t := (⟨true, 0, 4, 4, 1, List.replicate 47 0, []⟩ : Taken)
    s.taken = some t ∧ s.audReady 4 = true ∧ t.code = 4 ∧ t.body.length ≠ 48) ∧
    (let s : State := takeS 3 2 0 (List.replicate (lenKeys + lenKem + lenSigs) 0) (ses false) (State.reset)
    let t := (⟨true, 0, 4, 2, 3, List.replicate (lenKeys + lenKem + lenSigs) 0, []⟩ : Taken)
    s.taken = some t ∧ s.audReady 4 = true ∧ t.code = 2 ∧ 1 ≤ t.role ∧ t.role ≤ 3 ∧ t.body.length + t.tail.length = lenKeys + lenKem + lenSigs ∧ s.chal = none) ∧
    (let s : State := { takeS 2 2 0 (List.replicate (lenKeys + lenKem + lenSigs) 0) (ses false) (instS [(0, sha384 (List.replicate lenKeys 0))] (bootS State.reset)) with sessions := [] }
    let t := (⟨true, 0, 4, 2, 2, List.replicate (lenKeys + lenKem + lenSigs) 0, []⟩ : Taken)
    let ch := [(1 : Byte), 2]
    let bk := ((0, [(5 : Byte)]) : Nat × List Byte)
    let priv := [(1 : Byte)]
    let h := 1
    let d := t.body ++ t.tail
    let keys := d.take lenKeys
    s.taken = some t ∧ s.chal = some ch ∧ s.bootKem = some bk ∧ s.secretOf 0 bk.1 = some priv ∧ h < 256 ∧ freeHandle s h ∧ s.audReady 4 = true ∧ t.code = 2 ∧ 1 ≤ t.role ∧ t.role ≤ 3 ∧ d.length = lenKeys + lenKem + lenSigs ∧ s.session t.role = none ∧ s.barred t.role = false ∧ s.roleKeys t.role keys = true) ∧
    (let s : State := { State.reset with sessions := [(3, sesL 0 0)], tb := 300000000000 * 2 ^ 24, shadow := 300000000000 * 2 ^ 40 }
    let r : Fin 4 := 3
    let y := (3, sesL 0 0)
    y ∈ s.sessions.head? ∧ s.sessions.length = 1 ∧ y.1 = r.val ∧ s.audReady 2 = true ∧ y.2.last + 300000000000 ≤ s.tb64) ∧
    (let s : State := { State.reset with sessions := [(3, sesL 1 0)] }
    let r : Fin 4 := 3
    let y := (3, sesL 1 0)
    y ∈ s.sessions.head? ∧ s.sessions.length = 1 ∧ y.1 = r.val ∧ s.audReady 2 = true ∧ s.tb64 < y.2.last + 300000000000) ∧
    (let s : State := takeS 1 2 0 ([]) (ses false) (State.reset)
    let c : Instr := .restart
    let r := (0x206, 0, mayInstall)
    let t := (⟨true, 0, 4, 2, 1, [], []⟩ : Taken)
    let y := (1, ses false)
    roleCmd s c = some r ∧ s.taken = some t ∧ y ∈ s.sessions.head? ∧ t.code ≠ r.1) ∧
    (let s : State := takeS 3 518 5 ([]) (ses false) (State.reset)
    let c : Instr := .restart
    let r := (0x206, 0, mayInstall)
    let t := (⟨true, 5, 4, 518, 3, [], []⟩ : Taken)
    let y := (3, ses false)
    roleCmd s c = some r ∧ s.taken = some t ∧ y ∈ s.sessions.head? ∧ inHand s t y r.1 (r.2.1 + 4) ∧ r.2.2 y.1 = false) := by
  iterate 8 refine ⟨by dsimp only [mayTake]; decide +kernel, ?_⟩
  iterate 3 refine ⟨by (repeat' apply And.intro) <;> first | decide +kernel | rfl, ?_⟩
  iterate 7 refine ⟨by decide +kernel, ?_⟩
  refine ⟨by (try dsimp only [freeHandle]) <;> (repeat' apply And.intro) <;> first | decide +kernel | rfl | (refine roleKeys_two _ _ _ (List.replicate lenKeys 0) ?_ ?_ ?_ ?_ <;> first | decide +kernel | rfl), ?_⟩
  iterate 2 refine ⟨by decide +kernel, ?_⟩
  refine ⟨by dsimp only; exact ⟨rfl, by decide +kernel⟩, ?_⟩
  dsimp only [inHand]; exact ⟨rfl, by decide +kernel⟩

theorem witness_RoleCommands :
    (let s : State := takeS 3 3 5 ([]) (sesL 0 0) (State.reset)
    let t := (⟨true, 5, 4, 3, 3, [], []⟩ : Taken)
    let y := (3, sesL 0 0)
    s.taken = some t ∧ y ∈ s.sessions.head? ∧ inHand s t y 3 4) ∧
    (let s : State := takeS 1 260 5 ([]) (sesL 0 0) (State.reset)
    let sc : Bool := false
    let t := (⟨true, 5, 4, 260, 1, [], []⟩ : Taken)
    let y := (1, sesL 0 0)
    s.taken = some t ∧ y ∈ s.sessions.head? ∧ inHand s t y 0x104 5 ∧ (y.1 = 2 ∨ (y.1 = 1 ∧ sc = false)) ∧ s.dbg = none) ∧
    (let s : State := takeS 2 260 5 ([]) (sesL 0 0) (State.reset)
    let sc : Bool := true
    let t := (⟨true, 5, 4, 260, 2, [], []⟩ : Taken)
    let y := (2, sesL 0 0)
    s.taken = some t ∧ y ∈ s.sessions.head? ∧ inHand s t y 0x104 5 ∧ (y.1 = 2 ∨ (y.1 = 1 ∧ sc = false)) ∧ s.dbg = none) ∧
    (let s : State := takeS 2 260 5 ([]) (sesL 0 0) ({ State.reset with dbg := some (false, 1) })
    let sc : Bool := false
    let t := (⟨true, 5, 4, 260, 2, [], []⟩ : Taken)
    let y := (2, sesL 0 0)
    s.taken = some t ∧ y ∈ s.sessions.head? ∧ inHand s t y 0x104 5 ∧ (y.1 = 2 ∨ (y.1 = 1 ∧ sc = false)) ∧ s.dbg.isSome = true) ∧
    (let s : State := takeS 1 259 5 ([]) (sesL 0 0) (State.reset)
    let t := (⟨true, 5, 4, 259, 1, [], []⟩ : Taken)
    let y := (1, sesL 0 0)
    s.taken = some t ∧ y ∈ s.sessions.head? ∧ inHand s t y 0x103 4 ∧ (y.1 = 1 ∨ y.1 = 2)) ∧
    (let s : State := takeS 2 516 5 ([]) (sesL 0 0) (State.reset)
    let t := (⟨true, 5, 4, 516, 2, [], []⟩ : Taken)
    let y := (2, sesL 0 0)
    s.taken = some t ∧ y ∈ s.sessions.head? ∧ inHand s t y 0x204 4 ∧ y.1 = 2) ∧
    (let s : State := takeS 3 771 5 ([]) (sesL 0 0) (State.reset.setFld addrSecStatus fldSecStatus_LCS 1)
    let t := (⟨true, 5, 4, 771, 3, [], []⟩ : Taken)
    let y := (3, sesL 0 0)
    s.taken = some t ∧ y ∈ s.sessions.head? ∧ inHand s t y 0x303 4 ∧ y.1 = 3 ∧ s.lcs = 1) ∧
    (let s : State := takeS 1 256 5 ([]) (sesL 0 0) (((grant 0 State.reset).modWhl 0 fun x => { x with wmap := 0x100 }))
    let o : SignedObj := objS 2
    let a : Nat × List Byte := (0x0C000000, [(1 : Byte), 2, 3, 4])
    let g : ThreadNo := 8
    let t := (⟨true, 5, 4, 256, 1, [], []⟩ : Taken)
    let y := (1, sesL 0 0)
    s.taken = some t ∧ y ∈ s.sessions.head? ∧ inHand s t y 0x100 6 ∧ (y.1 = 1 ∨ y.1 = 2) ∧ a.2 = o.body ∧ s.areaOk a = true ∧ (s.thr g).state = .halted ∧ s.mapZ g = true ∧ s.mapOk (g.val / 32) = true ∧ cleanAt s a.1 a.2.length) ∧
    (let s : State := takeS 2 256 5 ([]) (sesL 0 0) (State.reset)
    let o : SignedObj := objS 2
    let a : Nat × List Byte := (0x0C000000, [(1 : Byte), 2, 3, 4])
    let g : ThreadNo := 5
    let t := (⟨true, 5, 4, 256, 2, [], []⟩ : Taken)
    let y := (2, sesL 0 0)
    let good := objOk o 2 (tget (fun _ => []) s.lists 5) = true ∧ s.areaOk a = true ∧ (s.thr g).state = .halted ∧ s.mapZ g = true ∧ s.mapOk (g.val / 32) = true
    s.taken = some t ∧ y ∈ s.sessions.head? ∧ inHand s t y 0x100 6 ∧ (y.1 = 1 ∨ y.1 = 2) ∧ a.2 = o.body ∧ ¬good) ∧
    (let s : State := takeS 1 257 5 ([]) (sesL 0 0) (State.reset)
    let t := (⟨true, 5, 4, 257, 1, [], []⟩ : Taken)
    let y := (1, sesL 0 0)
    s.taken = some t ∧ y ∈ s.sessions.head? ∧ inHand s t y 0x101 6 ∧ (y.1 = 1 ∨ y.1 = 2)) ∧
    (let s : State := takeS 2 258 5 ([]) (sesL 0 0) (sup39)
    let i : Fin 4 := 3
    let t := (⟨true, 5, 4, 258, 2, [], []⟩ : Taken)
    let y := (2, sesL 0 0)
    s.taken = some t ∧ y ∈ s.sessions.head? ∧ inHand s t y 0x102 4 ∧ (y.1 = 1 ∨ y.1 = 2) ∧ s.ctlGranted (s.reqOf 1250) false (addrSknCnt i) = true) ∧
    (let s : State := takeS 2 512 5 ([]) (sesL 0 0) (sup39)
    let p : PortNo := 143
    let m : Word := 1
    let t := (⟨true, 5, 4, 512, 2, [], []⟩ : Taken)
    let y := (2, sesL 0 0)
    let a := addrSknAsym p
    let b := addrLgrOvrval 1
    s.taken = some t ∧ y ∈ s.sessions.head? ∧ s.ctlGranted (s.reqOf 1250) true a = true ∧ s.ctlGranted (s.reqOf 1250) true b = true ∧ (s.reqOf 1250).sup = true ∧ m ≠ 0 ∧ inHand s t y 0x200 6 ∧ y.1 = 2) ∧
    (let s : State := takeS 3 768 5 ([]) (sesL 0 0) (sup39)
    let p : PortNo := 0
    let m : Word := 1
    let t := (⟨true, 5, 4, 768, 3, [], []⟩ : Taken)
    let y := (3, sesL 0 0)
    let a := addrSknAsym p
    let b := addrLgrOvrval 1
    s.taken = some t ∧ y ∈ s.sessions.head? ∧ s.ctlGranted (s.reqOf 1250) true a = true ∧ s.ctlGranted (s.reqOf 1250) true b = true ∧ (s.reqOf 1250).sup = true ∧ m ≠ 0 ∧ inHand s t y 0x300 6 ∧ y.1 = 3 ∧ (s.lcs ≠ 2 ∨ y.2.cosig = true)) ∧
    (let s : State := takeS 2 513 5 ([]) (sesL 0 0) (State.reset)
    let g : ThreadNo := 5
    let t := (⟨true, 5, 4, 513, 2, [], []⟩ : Taken)
    let y := (2, sesL 0 0)
    s.taken = some t ∧ y ∈ s.sessions.head? ∧ inHand s t y 0x201 5 ∧ y.1 = 2 ∧ (s.thr g).state = .halted) ∧
    (let s : State := takeS 2 513 5 ([]) (sesL 0 0) (on1 5 (rdy 0x13))
    let g : ThreadNo := 5
    let t := (⟨true, 5, 4, 513, 2, [], []⟩ : Taken)
    let y := (2, sesL 0 0)
    s.taken = some t ∧ y ∈ s.sessions.head? ∧ inHand s t y 0x201 5 ∧ y.1 = 2 ∧ (s.thr g).state ≠ .halted) ∧
    (let s : State := takeS 2 514 5 ([]) (sesL 0 0) (sup39)
    let t := (⟨true, 5, 4, 514, 2, [], []⟩ : Taken)
    let y := (2, sesL 0 0)
    s.taken = some t ∧ y ∈ s.sessions.head? ∧ inHand s t y 0x202 262 ∧ y.1 = 2 ∧ (∀ a ∈ [addrSngCtl, addrSngAudack], s.ctlGranted (s.reqOf 1250) true a = true) ∧ (s.reqOf 1250).sup = true ∧ s.unitState addrSngCtl = 0 ∧ s.fld addrSngCtl enEN = 0) ∧
    (let s : State := takeS 2 515 5 ([]) (sesL 0 0) (State.reset)
    let o : SignedObj := objU 3
    let t := (⟨true, 5, 4, 515, 2, [], []⟩ : Taken)
    let y := (2, sesL 0 0)
    let good := objOk o (objType o) s.installerKeys = true
    s.taken = some t ∧ y ∈ s.sessions.head? ∧ inHand s t y 0x203 4 ∧ y.1 = 2 ∧ 3 ≤ objType o ∧ objType o ≤ 7 ∧ ¬good) ∧
    (let s : State := takeS 2 515 5 ([]) (sesL 0 0) (State.reset)
    let o : SignedObj := objU 7
    let t := (⟨true, 5, 4, 515, 2, [], []⟩ : Taken)
    let y := (2, sesL 0 0)
    let good := objOk o (objType o) s.installerKeys = true
    s.taken = some t ∧ y ∈ s.sessions.head? ∧ inHand s t y 0x203 4 ∧ y.1 = 2 ∧ 3 ≤ objType o ∧ objType o ≤ 7 ∧ ¬good) ∧
    (let s : State := takeS 2 515 5 ([]) (sesL 0 0) (State.reset)
    let o : SignedObj := objS 3
    let t := (⟨true, 5, 4, 515, 2, [], []⟩ : Taken)
    let y := (2, sesL 0 0)
    s.taken = some t ∧ y ∈ s.sessions.head? ∧ inHand s t y 0x203 4 ∧ y.1 = 2 ∧ 3 ≤ objType o ∧ objType o ≤ 7 ∧ objType o ≠ 7) ∧
    (let s : State := takeS 2 515 5 ([]) (sesL 0 0) (State.reset)
    let o : SignedObj := objS 6
    let t := (⟨true, 5, 4, 515, 2, [], []⟩ : Taken)
    let y := (2, sesL 0 0)
    s.taken = some t ∧ y ∈ s.sessions.head? ∧ inHand s t y 0x203 4 ∧ y.1 = 2 ∧ 3 ≤ objType o ∧ objType o ≤ 7 ∧ objType o ≠ 7) ∧
    (let s : State := takeS 2 517 5 ([]) (sesL 0 0) (State.reset)
    let l : List (Nat × Nat) := [(0, 1)]
    let t := (⟨true, 5, 4, 517, 2, [], []⟩ : Taken)
    let y := (2, sesL 0 0)
    s.taken = some t ∧ y ∈ s.sessions.head? ∧ inHand s t y 0x205 (l.length + 4) ∧ y.1 = 2) ∧
    (let s : State := takeS 2 518 5 ([]) (sesL 0 0) (sup39)
    let t := (⟨true, 5, 4, 518, 2, [], []⟩ : Taken)
    let y := (2, sesL 0 0)
    s.taken = some t ∧ y ∈ s.sessions.head? ∧ inHand s t y 0x206 4 ∧ y.1 = 2 ∧ s.ctlGranted (s.reqOf 1250) true (addrWhlTctl 39 0) = true ∧ (s.reqOf 1250).sup = true ∧ ((s.thr 1248).state = .halted ∨ (s.thr 1248).state = .faulted) ∧ s.mapOk 39 = true) ∧
    (let s : State := takeS 2 518 5 ([]) (sesL 0 0) ((sup39.modWhl 39 fun x => { x with wmap := 1 }))
    let t := (⟨true, 5, 4, 518, 2, [], []⟩ : Taken)
    let y := (2, sesL 0 0)
    s.taken = some t ∧ y ∈ s.sessions.head? ∧ inHand s t y 0x206 4 ∧ y.1 = 2 ∧ s.ctlGranted (s.reqOf 1250) true (addrWhlTctl 39 0) = true ∧ (s.reqOf 1250).sup = true ∧ ((s.thr 1248).state = .halted ∨ (s.thr 1248).state = .faulted) ∧ s.mapOk 39 = false) ∧
    (let s : State := takeS 3 769 5 ([]) (sesL 0 0) (sup39)
    let j : Word := 5503
    let t := (⟨true, 5, 4, 769, 3, [], []⟩ : Taken)
    let y := (3, sesL 0 0)
    s.taken = some t ∧ y ∈ s.sessions.head? ∧ inHand s t y 0x301 18 ∧ y.1 = 3 ∧ (s.lcs ≠ 2 ∨ y.2.cosig = true) ∧ (s.reqOf 1250).sup = true ∧ j.toNat < 5504 ∧ (∀ a ∈ [addrLgrOvrset, addrLgrOvrcmd, addrLgrOvrval 0, addrLgrOvrval 1, addrLgrOvrval 2, addrLgrOvrval 3], s.ctlGranted (s.reqOf 1250) true a = true)) ∧
    (let s : State := takeS 3 770 5 ([]) (sesL 0 0) (((instS [(0, []), (1, []), (2, []), (3, [])] State.reset).setFld addrSecStatus fldSecStatus_LCS 1))
    let fp : List Byte := List.replicate 48 0
    let t := (⟨true, 5, 4, 770, 3, [], []⟩ : Taken)
    let y := (3, sesL 0 0)
    s.taken = some t ∧ y ∈ s.sessions.head? ∧ inHand s t y 0x302 4 ∧ y.1 = 3 ∧ s.lcs = 1 ∧ fp.length = 48 ∧ (∀ j, j < 4 → ∃ x ∈ s.instKeys, x.1 = j)) ∧
    (let s : State := takeS 3 770 5 ([]) (sesL 0 0) (((instS [(0, []), (1, []), (2, [])] State.reset).setFld addrSecStatus fldSecStatus_LCS 1))
    let fp : List Byte := List.replicate 48 0
    let t := (⟨true, 5, 4, 770, 3, [], []⟩ : Taken)
    let y := (3, sesL 0 0)
    let i := 3
    s.taken = some t ∧ y ∈ s.sessions.head? ∧ inHand s t y 0x302 4 ∧ y.1 = 3 ∧ s.lcs = 1 ∧ fp.length = 48 ∧ i < 4 ∧ (∀ x ∈ s.instKeys, x.1 ≠ i) ∧ (∀ j, j < i → ∃ x ∈ s.instKeys, x.1 = j) ∧ s.vppOk = true) ∧
    (let s : State := takeS 3 770 5 ([]) (sesL 0 0) (((State.reset).setFld addrSecStatus fldSecStatus_LCS 1))
    let fp : List Byte := List.replicate 48 0
    let t := (⟨true, 5, 4, 770, 3, [], []⟩ : Taken)
    let y := (3, sesL 0 0)
    let i := 0
    s.taken = some t ∧ y ∈ s.sessions.head? ∧ inHand s t y 0x302 4 ∧ y.1 = 3 ∧ s.lcs = 1 ∧ fp.length = 48 ∧ i < 4 ∧ (∀ x ∈ s.instKeys, x.1 ≠ i) ∧ (∀ j, j < i → ∃ x ∈ s.instKeys, x.1 = j) ∧ s.vppOk = true) ∧
    (let s : State := takeS 3 770 5 ([]) (sesL 0 0) ((((vppS (instS [(0, []), (1, []), (2, [])] State.reset)).wr (addrSecAudseq 0) 5).setFld addrSecStatus fldSecStatus_LCS 1))
    let fp : List Byte := List.replicate 48 0
    let t := (⟨true, 5, 4, 770, 3, [], []⟩ : Taken)
    let y := (3, sesL 0 0)
    let i := 3
    s.taken = some t ∧ y ∈ s.sessions.head? ∧ inHand s t y 0x302 4 ∧ y.1 = 3 ∧ s.lcs = 1 ∧ fp.length = 48 ∧ i < 4 ∧ (∀ x ∈ s.instKeys, x.1 ≠ i) ∧ (∀ j, j < i → ∃ x ∈ s.instKeys, x.1 = j) ∧ s.vppOk = false) := by
  iterate 7 refine ⟨by dsimp only [inHand]; decide +kernel, ?_⟩
  refine ⟨by dsimp only [cleanAt, inHand]; decide +kernel, ?_⟩
  refine ⟨by (try dsimp only [inHand]) <;> (repeat' apply And.intro) <;> first | decide +kernel | rfl | (rintro ⟨-, -, -, h, -⟩; revert h; decide +kernel), ?_⟩
  iterate 7 refine ⟨by dsimp only [inHand]; decide +kernel, ?_⟩
  iterate 2 refine ⟨by (try dsimp only [inHand]) <;> (repeat' apply And.intro) <;> first | decide +kernel | rfl | (intro h; have h2 := h.symm.trans (objBad _ _ _ (.inr (by decide +kernel))); cases h2), ?_⟩
  iterate 9 refine ⟨by dsimp only [inHand]; decide +kernel, ?_⟩
  dsimp only [inHand]; decide +kernel

theorem witness_HostRequests :
    (let h : BitVec 128 := hdrOf 1 0 0 0 281018368
    hqOp h < 3 ∧ hqOp h ≠ 0) ∧
    (let h : BitVec 128 := hdrOf 2 0 0 0 281018368
    hqOp h < 3 ∧ hqOp h ≠ 1) ∧
    (let h : BitVec 128 := hdrOf 0 0 0 0 281018368
    hqOp h < 3 ∧ hqOp h ≠ 2) ∧
    (let s : State := State.reset
    let c : Fin 8 := 7
    let h : BitVec 128 := hdrOf 0 0 0 0 281018368
    ¬credited s c ∧ hqOp h = 0) ∧
    (let s : State := State.reset
    let c : Fin 8 := 7
    let h : BitVec 128 := hdrOf 1 0 0 0 281018368
    ¬credited s c ∧ hqOp h = 1) ∧
    (let s : State := State.reset
    let c : Fin 8 := 7
    let h : BitVec 128 := hdrOf 2 0 0 0 281018368
    ¬credited s c ∧ hqOp h = 2) ∧
    (let s : State := hapS 7 4 State.reset
    let c : Fin 8 := 7
    let h : BitVec 128 := hdrOf 0 3 1 0 281018368
    let n := hqLen h + 1
    credited s c ∧ hqOp h = 0 ∧ answersNow s c n ∧ hqBad h = true) ∧
    (let s : State := hapS 7 4 State.reset
    let c : Fin 8 := 7
    let h : BitVec 128 := hdrOf 0 3 0 0 281018368
    let a := hqAddr h
    let n := hqLen h + 1
    credited s c ∧ hqOp h = 0 ∧ answersNow s c n ∧ hqBad h = false ∧ (∀ i, i < n → inCtl (a + 128 * i) = false ∧ hostMem (a + 128 * i) = true ∧ s.grantedAll (208 + c) true false .read (a + 128 * i) 128 = true ∧ cleanAt s (a + 128 * i) 128)) ∧
    (let s : State := hapS 0 1 State.reset
    let c : Fin 8 := 0
    let h : BitVec 128 := hdrOf 0 0 0 0 369098624
    let a := hqAddr h
    let n := hqLen h + 1
    credited s c ∧ hqOp h = 0 ∧ answersNow s c n ∧ hqBad h = false ∧ (∀ i, i < n → inCtl (a + 128 * i) = false ∧ hostMem (a + 128 * i) = true ∧ s.grantedAll (208 + c) true false .read (a + 128 * i) 128 = true ∧ cleanAt s (a + 128 * i) 128)) ∧
    (let s : State := hapS 7 4 State.reset
    let c : Fin 8 := 7
    let h : BitVec 128 := hdrOf 0 3 0 0 201326592
    let a := hqAddr h
    let n := hqLen h + 1
    credited s c ∧ hqOp h = 0 ∧ answersNow s c n ∧ hqBad h = false ∧ (∀ i, i < n → inCtl (a + 128 * i) = false ∧ (hostMem (a + 128 * i) = false ∨ s.grantedAll (208 + c) true false .read (a + 128 * i) 128 = false))) ∧
    (let s : State := eccS 0x10C00078 3 (hapS 7 1 State.reset)
    let c : Fin 8 := 7
    let h : BitVec 128 := hdrOf 0 0 0 0 281018368
    let a := hqAddr h
    let n := hqLen h + 1
    credited s c ∧ hqOp h = 0 ∧ answersNow s c n ∧ hqBad h = false ∧ hqLen h = 0 ∧ inCtl a = false ∧ hostMem a = true ∧ s.grantedAll (208 + c) true false .read a 128 = true ∧ (∃ wb ∈ eccWords a 128, s.synd wb = .bad)) ∧
    (let s : State := hapS 7 4 State.reset
    let c : Fin 8 := 7
    let h : BitVec 128 := hdrOf 0 3 0 0 1073741824
    let a := hqAddr h
    let n := hqLen h + 1
    credited s c ∧ hqOp h = 0 ∧ answersNow s c n ∧ inCtl a = true ∧ (hqLen h ≠ 0 ∨ (∀ i, i < 32 → s.ctlGranted (hostReq c) false (a + 4 * i) = false))) ∧
    (let s : State := (hapS 7 4 State.reset).setFld (addrMemRgnattr 215 1) fldMemRgnattr_EN 0
    let c : Fin 8 := 7
    let h : BitVec 128 := hdrOf 0 0 0 0 1073741824
    let a := hqAddr h
    let n := hqLen h + 1
    credited s c ∧ hqOp h = 0 ∧ answersNow s c n ∧ inCtl a = true ∧ (hqLen h ≠ 0 ∨ (∀ i, i < 32 → s.ctlGranted (hostReq c) false (a + 4 * i) = false))) ∧
    (let s : State := hapS 7 4 State.reset
    let c : Fin 8 := 7
    let h : BitVec 128 := hdrOf 0 0 0 0 1073741824
    let a := hqAddr h
    let n := hqLen h + 1
    credited s c ∧ hqOp h = 0 ∧ answersNow s c n ∧ hqBad h = false ∧ hqLen h = 0 ∧ inCtl a = true ∧ (∃ i, i < 32 ∧ s.ctlGranted (hostReq c) false (a + 4 * i) = true)) ∧
    (let s : State := hapS 7 4 State.reset
    let c : Fin 8 := 7
    let h : BitVec 128 := hdrOf 1 0 0 0 281018368
    let be : BitVec 128 := BitVec.ofNat 128 (2 ^ 128 - 1)
    let a := hqAddr h
    credited s c ∧ hqOp h = 1 ∧ hqBad h = false ∧ lineWritable s c be a) ∧
    (let s : State := hapS 7 4 State.reset
    let c : Fin 8 := 7
    let h : BitVec 128 := hdrOf 1 1 0 0 281018368
    let be : BitVec 128 := BitVec.ofNat 128 (2 ^ 128 - 1)
    let i : Fin 32 := 0
    let a := hqAddr h
    credited s c ∧ hqOp h = 1 ∧ answersNow s c 1 ∧ (hqBad h = true ∨ (inCtl a = false ∧ be ≠ 0 ∧ hostMem a = false) ∨ (inCtl a = false ∧ ∃ j, j < 128 ∧ be.getLsbD j = true ∧ s.grantedAll (208 + c) true false .write (a + j) 1 = false) ∨ (inCtl a = true ∧ be.toNat / 2 ^ (4 * i.val) % 16 = 7 ∧ be.toNat % 2 ^ (4 * i.val) = 0))) ∧
    (let s : State := hapS 7 4 State.reset
    let c : Fin 8 := 7
    let h : BitVec 128 := hdrOf 1 0 0 0 201326592
    let be : BitVec 128 := 1
    let i : Fin 32 := 0
    let a := hqAddr h
    credited s c ∧ hqOp h = 1 ∧ answersNow s c 1 ∧ (hqBad h = true ∨ (inCtl a = false ∧ be ≠ 0 ∧ hostMem a = false) ∨ (inCtl a = false ∧ ∃ j, j < 128 ∧ be.getLsbD j = true ∧ s.grantedAll (208 + c) true false .write (a + j) 1 = false) ∨ (inCtl a = true ∧ be.toNat / 2 ^ (4 * i.val) % 16 = 7 ∧ be.toNat % 2 ^ (4 * i.val) = 0))) ∧
    (let s : State := (hapS 7 4 State.reset).setFld (addrMemRgnattr 215 1) fldMemRgnattr_W 0
    let c : Fin 8 := 7
    let h : BitVec 128 := hdrOf 1 0 0 0 281018368
    let be : BitVec 128 := 1
    let i : Fin 32 := 0
    let a := hqAddr h
    credited s c ∧ hqOp h = 1 ∧ answersNow s c 1 ∧ (hqBad h = true ∨ (inCtl a = false ∧ be ≠ 0 ∧ hostMem a = false) ∨ (inCtl a = false ∧ ∃ j, j < 128 ∧ be.getLsbD j = true ∧ s.grantedAll (208 + c) true false .write (a + j) 1 = false) ∨ (inCtl a = true ∧ be.toNat / 2 ^ (4 * i.val) % 16 = 7 ∧ be.toNat % 2 ^ (4 * i.val) = 0))) ∧
    (let s : State := hapS 7 4 State.reset
    let c : Fin 8 := 7
    let h : BitVec 128 := hdrOf 1 0 0 0 1073741824
    let be : BitVec 128 := BitVec.ofNat 128 (7 * 2 ^ 124)
    let i : Fin 32 := 31
    let a := hqAddr h
    credited s c ∧ hqOp h = 1 ∧ answersNow s c 1 ∧ (hqBad h = true ∨ (inCtl a = false ∧ be ≠ 0 ∧ hostMem a = false) ∨ (inCtl a = false ∧ ∃ j, j < 128 ∧ be.getLsbD j = true ∧ s.grantedAll (208 + c) true false .write (a + j) 1 = false) ∨ (inCtl a = true ∧ be.toNat / 2 ^ (4 * i.val) % 16 = 7 ∧ be.toNat % 2 ^ (4 * i.val) = 0))) ∧
    (let s : State := hapS 7 4 State.reset
    let c : Fin 8 := 7
    let h : BitVec 128 := hdrOf 1 0 0 0 (addrSecMbxin 1023 / 128 * 128)
    let be : BitVec 128 := BitVec.ofNat 128 (15 * 2 ^ (4 * (addrSecMbxin 1023 % 128 / 4)))
    let d : List Byte := List.replicate 128 0
    let i : Fin 32 := ⟨addrSecMbxin 1023 % 128 / 4, by decide +kernel⟩
    let a := hqAddr h
    let u := (s.hapCount c 0).active
    let v := BitVec.ofNat 32 (leBytes ((d.drop (4 * i.val)).take 4))
    credited s c ∧ hqOp h = 1 ∧ hqBad h = false ∧ inCtl a = true ∧ be.toNat = 15 * 2 ^ (4 * i.val) ∧ (u.regWrite (hostReq c) (a + 4 * i.val) v).2 = .done) ∧
    (let s : State := hapS 7 4 State.reset
    let c : Fin 8 := 7
    let h : BitVec 128 := hdrOf 2 1 0 0 281018368
    let a := hqAddr h
    credited s c ∧ hqOp h = 2 ∧ answersNow s c 1 ∧ (hqBad h = true ∨ inCtl a = true)) ∧
    (let s : State := hapS 7 4 State.reset
    let c : Fin 8 := 7
    let h : BitVec 128 := hdrOf 2 0 1 0 1073741824
    let a := hqAddr h
    credited s c ∧ hqOp h = 2 ∧ answersNow s c 1 ∧ (hqBad h = true ∨ inCtl a = true)) ∧
    (let s : State := bobS (hapS 7 4 State.reset) 0 0 4 4
    let c : Fin 8 := 7
    let h : BitVec 128 := hdrOf 2 0 60 0 281018368
    let be : BitVec 128 := BitVec.ofNat 128 (2 ^ 128 - 1)
    let a := hqAddr h
    let k := hqBob h
    credited s c ∧ hqOp h = 2 ∧ hqBad h = false ∧ lineWritable s c be a ∧ apart a 128 (bdAddr k 0) 32 ∧ cleanAt s (bdAddr k 4) 4 ∧ (s.dbWrite k (hostReq c) (BitVec.ofNat 32 (hqCnt h))).2 = true) ∧
    (let s : State := bobS (hapS 7 4 State.reset) 0 0 4 4
    let c : Fin 8 := 7
    let h : BitVec 128 := hdrOf 2 0 65536 65535 281018368
    let be : BitVec 128 := BitVec.ofNat 128 (2 ^ 128 - 1)
    let a := hqAddr h
    let k := hqBob h
    credited s c ∧ hqOp h = 2 ∧ answersNow s c 1 ∧ hqBad h = false ∧ lineWritable s c be a ∧ apart a 128 (bdAddr k 0) 32 ∧ (s.dbWrite k (hostReq c) (BitVec.ofNat 32 (hqCnt h))).2 = false) := by
  iterate 3 refine ⟨by decide +kernel, ?_⟩
  iterate 3 refine ⟨by dsimp only [credited]; decide +kernel, ?_⟩
  refine ⟨by dsimp only [answersNow, credited]; decide +kernel, ?_⟩
  iterate 2 refine ⟨by dsimp only [cleanAt, answersNow, credited]; decide +kernel, ?_⟩
  refine ⟨by dsimp only [answersNow, credited]; decide +kernel, ?_⟩
  refine ⟨by (try dsimp only [answersNow, credited]) <;> (repeat' apply And.intro) <;> first | decide +kernel | rfl | exact ⟨0x10C00078, by decide +kernel, by decide +kernel⟩, ?_⟩
  iterate 2 refine ⟨by dsimp only [answersNow, credited]; decide +kernel, ?_⟩
  refine ⟨by (try dsimp only [answersNow, credited]) <;> (repeat' apply And.intro) <;> first | decide +kernel | rfl | exact ⟨31, by decide +kernel⟩, ?_⟩
  refine ⟨by dsimp only [credited, lineWritable, cleanAt]; decide +kernel, ?_⟩
  iterate 2 refine ⟨by dsimp only [answersNow, credited]; decide +kernel, ?_⟩
  refine ⟨by (try dsimp only [answersNow, credited]) <;> (repeat' apply And.intro) <;> first | decide +kernel | rfl | exact .inr (.inr (.inl ⟨by decide +kernel, 0, by decide +kernel⟩)), ?_⟩
  refine ⟨by dsimp only [answersNow, credited]; decide +kernel, ?_⟩
  refine ⟨by dsimp only [credited]; decide +kernel, ?_⟩
  iterate 2 refine ⟨by dsimp only [answersNow, credited]; decide +kernel, ?_⟩
  refine ⟨by dsimp only [cleanAt, apart, credited, lineWritable]; decide +kernel, ?_⟩
  dsimp only [apart, answersNow, credited, lineWritable, cleanAt]; decide +kernel

theorem witness_HostResponses :
    (let s : State := State.reset
    let c : Fin 8 := 7
    s.hapOn c = false) ∧
    (let s : State := hapS 7 4 State.reset
    let c : Fin 8 := 7
    let h := s.hapc c
    s.hapOn c = true ∧ h.hrspQ = [] ∧ h.dreqQ = []) ∧
    (let s : State := hrS 7
    let c : Fin 8 := 7
    let x : Fin 4 := 1
    let h := s.hapc c
    let f := (⟨7, 0, 3, 0, [1]⟩ : Hrsp)
    f ∈ h.hrspQ.head? ∧ h.hrspQ.length = 1 ∧ s.hapOn c = true ∧ s.on addrHapGstat fldHapGstat_HCLKOK = true ∧ h.crHrsp = 0 ∧ x.val = 1 ∧ h.dreqQ = []) ∧
    (let h : BitVec 64 := rsp 2 5 0
    let st := dsStatus h
    st = 2) ∧
    (let s : State := State.reset
    let c : Fin 8 := 7
    let h : BitVec 64 := rsp 0 5 0
    let x := s.hapc c
    let st := dsStatus h
    st ≠ 2 ∧ x.outDrsp = 0) ∧
    (let s : State := State.reset
    let c : Fin 8 := 7
    let h : BitVec 64 := rsp 15 5 0
    let x := s.hapc c
    let st := dsStatus h
    st ≠ 2 ∧ x.outDrsp = 0) ∧
    (let s : State := drS 7 [] []
    let c : Fin 8 := 7
    let h : BitVec 64 := rsp 3 5 0
    let x := s.hapc c
    let st := dsStatus h
    2 < st ∧ x.outDrsp ≠ 0) ∧
    (let s : State := drS 7 [] [1023]
    let c : Fin 8 := 7
    let h : BitVec 64 := rsp 1 1023 3
    let x := s.hapc c
    let tag := dsTag h
    let st := dsStatus h
    st < 2 ∧ x.outDrsp ≠ 0 ∧ x.quar.contains tag = true) ∧
    (let s : State := drS 7 [] [1023]
    let c : Fin 8 := 7
    let h : BitVec 64 := rsp 1 1022 3
    let x := s.hapc c
    let tag := dsTag h
    let st := dsStatus h
    st < 2 ∧ x.outDrsp ≠ 0 ∧ x.quar.contains tag = false ∧ (∀ r ∈ x.reads, r.tag ≠ tag)) ∧
    (let s : State := drS 7 [rdS 1023 2 ([]) (.none)] []
    let c : Fin 8 := 7
    let h : BitVec 64 := rsp 1 1023 3
    let x := s.hapc c
    let tag := dsTag h
    let st := dsStatus h
    let r := rdS 1023 2 ([]) (.none)
    r ∈ x.reads.head? ∧ st < 2 ∧ x.outDrsp ≠ 0 ∧ x.quar.contains tag = false ∧ r.tag = tag ∧ (r.len < dsIdx h ∨ (∃ y ∈ r.got, y.1 = dsIdx h))) ∧
    (let s : State := drS 7 [rdS 1023 3 ([(3, none)]) (.none)] []
    let c : Fin 8 := 7
    let h : BitVec 64 := rsp 1 1023 3
    let x := s.hapc c
    let tag := dsTag h
    let st := dsStatus h
    let r := rdS 1023 3 ([(3, none)]) (.none)
    r ∈ x.reads.head? ∧ st < 2 ∧ x.outDrsp ≠ 0 ∧ x.quar.contains tag = false ∧ r.tag = tag ∧ (r.len < dsIdx h ∨ (∃ y ∈ r.got, y.1 = dsIdx h))) ∧
    (let s : State := drS 7 [rdS 1023 3 ([(0, none)]) (.thread 1279)] []
    let c : Fin 8 := 7
    let h : BitVec 64 := rsp 1 1023 3
    let x := s.hapc c
    let tag := dsTag h
    let st := dsStatus h
    let r := rdS 1023 3 ([(0, none)]) (.thread 1279)
    let g := 1279
    r ∈ x.reads.head? ∧ st < 2 ∧ x.outDrsp ≠ 0 ∧ x.quar.contains tag = false ∧ r.tag = tag ∧ dsIdx h ≤ r.len ∧ (∀ y ∈ r.got, y.1 ≠ dsIdx h) ∧ (∀ f ∈ x.dreqQ, f.op ≠ 0 ∨ f.tag ≠ tag) ∧ g < 1280 ∧ r.who = .thread g) ∧
    (let s : State := drS 0 [rdS 1023 0 ([]) (.draft 7 (0, 0, 0))] []
    let c : Fin 8 := 0
    let h : BitVec 64 := rsp 0 1023 0
    let x := s.hapc c
    let tag := dsTag h
    let st := dsStatus h
    let r := rdS 1023 0 ([]) (.draft 7 (0, 0, 0))
    let e := 7
    let ix := (0, 0, 0)
    r ∈ x.reads.head? ∧ st < 2 ∧ x.outDrsp ≠ 0 ∧ x.quar.contains tag = false ∧ r.tag = tag ∧ dsIdx h ≤ r.len ∧ (∀ y ∈ r.got, y.1 ≠ dsIdx h) ∧ (∀ f ∈ x.dreqQ, f.op ≠ 0 ∨ f.tag ≠ tag) ∧ e < 8 ∧ r.who = .draft e ix) ∧
    (let h : BitVec 64 := rsp 1 5 0
    dsStatus h ≠ 2) ∧
    (let s : State := State.reset
    let c : Fin 8 := 7
    let h : BitVec 64 := rsp 2 5 0
    let x := s.hapc c
    dsStatus h = 2 ∧ x.outDrsp = 0) ∧
    (let s : State := drS 7 [] []
    let c : Fin 8 := 7
    let h : BitVec 64 := rsp 2 1022 0
    let x := s.hapc c
    let tag := dsTag h
    dsStatus h = 2 ∧ x.outDrsp ≠ 0 ∧ (∀ w ∈ x.wlog, w.wseq ≠ tag)) ∧
    (let s : State := drS 7 [] []
    let c : Fin 8 := 7
    let h : BitVec 64 := rsp 2 1023 0
    let x := s.hapc c
    let tag := dsTag h
    let w := (⟨1023, .thread 32, 0x80000004⟩ : PWrite)
    w ∈ x.wlog.getLast? ∧ dsStatus h = 2 ∧ x.outDrsp ≠ 0 ∧ w.wseq = tag) ∧
    (let s : State := State.reset
    let c : Fin 8 := 7
    let tag : Fin 1024 := 1023
    let x := s.hapc c
    ((∀ r ∈ x.reads, r.tag ≠ tag.val) ∨ (∃ f ∈ x.dreqQ, f.op = 0 ∧ f.tag = tag.val))) ∧
    (let s : State := drS 7 [rdS 1023 3 ([]) (.none)] []
    let c : Fin 8 := 7
    let tag : Fin 1024 := 1023
    let x := s.hapc c
    let r := rdS 1023 3 ([]) (.none)
    r ∈ x.reads.head? ∧ r.tag = tag.val ∧ r.got = [] ∧ (∀ f ∈ x.dreqQ, f.op ≠ 0 ∨ f.tag ≠ tag.val)) := by
  iterate 10 refine ⟨by decide +kernel, ?_⟩
  refine ⟨by (try dsimp only) <;> (repeat' apply And.intro) <;> first | decide +kernel | rfl | exact .inr ⟨(3, none), by decide +kernel, by decide +kernel⟩, ?_⟩
  iterate 7 refine ⟨by decide +kernel, ?_⟩
  decide +kernel

theorem witness_ResetPowerBoot :
    (let d : Fin 5 := 3
    d.val ≠ 4) ∧
    (let d : Fin 5 := 0
    d.val ≠ 4) ∧
    (let d : Fin 5 := 4
    d.val = 4) ∧
    (let s : State := State.reset
    s.supplies.length = 5) ∧
    (let s : State := upS
    (s.started = true ∨ false ∈ s.supplies)) ∧
    (let s : State := supS [true, true, true, true, false]
    (s.started = true ∨ false ∈ s.supplies)) ∧
    (let s : State := State.reset
    s.started = false ∧ false ∉ s.supplies) ∧
    (let s : State := sleepS 0
    let w : Fin 4 := 3
    let go := s.fld addrPwrStatus fldPwrStatus_STATE = 3 ∧ (s.fld addrPwrWake fldPwrWake_SEEN).testBit w = true
    ¬go) ∧
    (let s : State := sleepS 8
    let w : Fin 4 := 3
    let go := s.fld addrPwrStatus fldPwrStatus_STATE = 3 ∧ (s.fld addrPwrWake fldPwrWake_SEEN).testBit w = true
    go) ∧
    (let s : State := { State.reset.setFld addrClkStatus fldClkStatus_DIVPEND 1 with cycle := 65 }
    let due := s.on addrClkStatus fldClkStatus_DIVPEND = true ∧ s.cycle % 64 = 0
    ¬due) ∧
    (let s : State := { State.reset.setFld addrClkStatus fldClkStatus_DIVPEND 1 with cycle := 128 }
    let due := s.on addrClkStatus fldClkStatus_DIVPEND = true ∧ s.cycle % 64 = 0
    due) ∧
    (let s : State := State.reset
    let q : Fin 4 := 3
    let used := ∃ i, i < 36 ∧ s.unitState (addrLnkCtl (36 * q.val + i)) ≠ 0
    ¬used) ∧
    (let s : State := State.reset.setFld (addrLnkCtl 143) enSTATE 1
    let q : Fin 4 := 3
    let used := ∃ i, i < 36 ∧ s.unitState (addrLnkCtl (36 * q.val + i)) ≠ 0
    used) ∧
    (let s : State := sleepS 0
    let sl := s.fld addrPwrStatus fldPwrStatus_STATE = 3
    sl) ∧
    (let s : State := State.reset
    let sl := s.fld addrPwrStatus fldPwrStatus_STATE = 3
    ¬sl) ∧
    (let s : State := State.reset
    let can := s.started = true ∧ s.on addrSecStatus fldSecStatus_BOOTV = false ∧ s.recov = none ∧ s.audReady 2 = true
    ¬can) ∧
    (let s : State := upS
    let can := s.started = true ∧ s.on addrSecStatus fldSecStatus_BOOTV = false ∧ s.recov = none ∧ s.audReady 2 = true
    let cold := ∀ x, s.imgHash = some x → s.on addrRstCause fldRstCause_WAKE = true → sha384 ((List.range x.1).map fun i => s.goodByte (spoolBlk 39 (0x8000 + i))) ≠ x.2
    let dead := s.flashDead = true
    let early := s.recovLow = false ∧ dead ∧ s.tb64 < s.romAt + 10000000
    can ∧ cold ∧ early) ∧
    (let s : State := imgS (sha384 [0])
    let can := s.started = true ∧ s.on addrSecStatus fldSecStatus_BOOTV = false ∧ s.recov = none ∧ s.audReady 2 = true
    let cold := ∀ x, s.imgHash = some x → s.on addrRstCause fldRstCause_WAKE = true → sha384 ((List.range x.1).map fun i => s.goodByte (spoolBlk 39 (0x8000 + i))) ≠ x.2
    can ∧ ¬cold) ∧
    (let s : State := (State.reset.setFld addrSecStatus fldSecStatus_LCS 1).setFld (addrPinBank 5) fldPinBank_PG 1 |> fun s => { s with started := true }
    let fw : SignedObj := objS 1
    let im : List (BitVec 8) := []
    let m : Fin 8 := 7
    let can := s.started = true ∧ s.on addrSecStatus fldSecStatus_BOOTV = false ∧ s.recov = none ∧ s.audReady 2 = true
    let cold := ∀ x, s.imgHash = some x → s.on addrRstCause fldRstCause_WAKE = true → sha384 ((List.range x.1).map fun i => s.goodByte (spoolBlk 39 (0x8000 + i))) ≠ x.2
    let dead := s.flashDead = true
    can ∧ cold ∧ s.recovLow = false ∧ ¬dead ∧ s.fld addrSecSvn fldSecSvn_SVN ≤ objSvn fw ∧ im.length ≤ 98304 ∧ s.lcs ≠ 2 ∧ 2 ≤ m.val) ∧
    (let s : State := { upS with recovLow := true }
    let fw : SignedObj := objU 1
    let ap : SignedObj := objU 3
    let im : List (BitVec 8) := []
    let can := s.started = true ∧ s.on addrSecStatus fldSecStatus_BOOTV = false ∧ s.recov = none ∧ s.audReady 2 = true
    let cold := ∀ x, s.imgHash = some x → s.on addrRstCause fldRstCause_WAKE = true → sha384 ((List.range x.1).map fun i => s.goodByte (spoolBlk 39 (0x8000 + i))) ≠ x.2
    let dead := s.flashDead = true
    let early := s.recovLow = false ∧ dead ∧ s.tb64 < s.romAt + 10000000
    let ok := certUnderRoot fw.cert = true ∧ objOk fw 1 (certKeys fw.cert) = true ∧ s.fld addrSecSvn fldSecSvn_SVN ≤ objSvn fw ∧ im.length ≤ 98304 ∧ (s.lcs ≠ 2 ∨ (objOk ap 3 s.installerKeys = true ∧ listsHash ap (objHash fw) = true))
    can ∧ cold ∧ ¬early ∧ (s.recovLow = true ∨ dead ∨ ¬ok)) ∧
    (let s : State := { upS with shadow := 2 ^ 103 }
    let fw : SignedObj := objU 1
    let ap : SignedObj := objU 3
    let im : List (BitVec 8) := []
    let can := s.started = true ∧ s.on addrSecStatus fldSecStatus_BOOTV = false ∧ s.recov = none ∧ s.audReady 2 = true
    let cold := ∀ x, s.imgHash = some x → s.on addrRstCause fldRstCause_WAKE = true → sha384 ((List.range x.1).map fun i => s.goodByte (spoolBlk 39 (0x8000 + i))) ≠ x.2
    let dead := s.flashDead = true
    let early := s.recovLow = false ∧ dead ∧ s.tb64 < s.romAt + 10000000
    let ok := certUnderRoot fw.cert = true ∧ objOk fw 1 (certKeys fw.cert) = true ∧ s.fld addrSecSvn fldSecSvn_SVN ≤ objSvn fw ∧ im.length ≤ 98304 ∧ (s.lcs ≠ 2 ∨ (objOk ap 3 s.installerKeys = true ∧ listsHash ap (objHash fw) = true))
    can ∧ cold ∧ ¬early ∧ (s.recovLow = true ∨ dead ∨ ¬ok)) ∧
    (let s : State := upS.setFld (addrPinBank 5) fldPinBank_PG 1
    let fw : SignedObj := objU 1
    let ap : SignedObj := objU 3
    let im : List (BitVec 8) := []
    let can := s.started = true ∧ s.on addrSecStatus fldSecStatus_BOOTV = false ∧ s.recov = none ∧ s.audReady 2 = true
    let cold := ∀ x, s.imgHash = some x → s.on addrRstCause fldRstCause_WAKE = true → sha384 ((List.range x.1).map fun i => s.goodByte (spoolBlk 39 (0x8000 + i))) ≠ x.2
    let dead := s.flashDead = true
    let early := s.recovLow = false ∧ dead ∧ s.tb64 < s.romAt + 10000000
    let ok := certUnderRoot fw.cert = true ∧ objOk fw 1 (certKeys fw.cert) = true ∧ s.fld addrSecSvn fldSecSvn_SVN ≤ objSvn fw ∧ im.length ≤ 98304 ∧ (s.lcs ≠ 2 ∨ (objOk ap 3 s.installerKeys = true ∧ listsHash ap (objHash fw) = true))
    can ∧ cold ∧ ¬early ∧ (s.recovLow = true ∨ dead ∨ ¬ok)) := by
  iterate 12 refine ⟨by decide +kernel, ?_⟩
  refine ⟨by (try dsimp only) <;> (repeat' apply And.intro) <;> first | decide +kernel | rfl | exact ⟨35, by decide +kernel⟩, ?_⟩
  iterate 3 refine ⟨by decide +kernel, ?_⟩
  refine ⟨by (try dsimp only) <;> (repeat' apply And.intro) <;> first | decide +kernel | rfl | first | (intro x h; exact absurd h (by intro h2; cases h2)) | decide +kernel, ?_⟩
  refine ⟨by (try dsimp only) <;> (repeat' apply And.intro) <;> first | decide +kernel | rfl | (intro h; refine h (1, sha384 [0]) rfl (by decide +kernel) (congrArg sha384 ?_); decide +kernel), ?_⟩
  refine ⟨by (try dsimp only) <;> (repeat' apply And.intro) <;> first | decide +kernel | rfl | (intro x h; exact absurd h (by intro h2; cases h2)), ?_⟩
  iterate 2 refine ⟨by (try dsimp only) <;> (repeat' apply And.intro) <;> first | decide +kernel | rfl | first | (intro x h; exact absurd h (by intro h2; cases h2)) | decide +kernel, ?_⟩
  (try dsimp only) <;> (repeat' apply And.intro) <;> first | decide +kernel | rfl | first | (intro x h; exact absurd h (by intro h2; cases h2)) | decide +kernel

theorem witness_DebugUnit :
    (let s : State := State.reset
    let who : Writer := .debugPort
    mayWrite s who addrDbgCmd 1 ∧ s.dbgBusy = false) ∧
    (let s : State := State.reset
    let who : Writer := .debugPort
    mayWrite s who addrDbgCmd 2 ∧ s.dbgBusy = false) ∧
    (let s : State := State.reset
    let who : Writer := .debugPort
    mayWrite s who addrDbgCmd 4 ∧ s.dbgBusy = false) ∧
    (let s : State := State.reset
    let who : Writer := .debugPort
    let val : Word := 0
    mayWrite s who addrDbgRdata val) ∧
    (let s : State := State.reset
    let who : Writer := .debugPort
    let val : Word := 0
    mayWrite s who addrDbgMdata val) ∧
    (let s : State := State.reset
    let who : Writer := .debugPort
    let val : Word := 1
    mayWrite s who addrDbgTrcctl val ∧ val = 1) ∧
    (let s : State := State.reset
    let who : Writer := .debugPort
    s.ctlGranted (s.reqBy who) false addrDbgRdata = true ∧ s.dbg = none) ∧
    (let s : State := State.reset
    let who : Writer := .debugPort
    s.ctlGranted (s.reqBy who) false addrDbgMdata = true ∧ s.dbg = none) ∧
    (let s : State := dbS 5 ({ dth .ready with lastTurn := none, stopReq := true }) 0 0 0
    let who : Writer := .debugPort
    let busy := s.dbgBusy = true
    let open_ := fun (v : Word) => mayWrite s who addrDbgCmd v ∧ inScope s
    open_ 1 ∧ busy) ∧
    (let s : State := dbS 5 ({ dth .ready with lastTurn := none, stopReq := true }) 0 0 0
    let who : Writer := .debugPort
    let busy := s.dbgBusy = true
    let open_ := fun (v : Word) => mayWrite s who addrDbgCmd v ∧ inScope s
    open_ 2 ∧ busy) ∧
    (let s : State := dbS 5 ({ dth .ready with lastTurn := none, stopReq := true }) 0 0 0
    let who : Writer := .debugPort
    let busy := s.dbgBusy = true
    let open_ := fun (v : Word) => mayWrite s who addrDbgCmd v ∧ inScope s
    open_ 4 ∧ busy) ∧
    (let s : State := dbS 5 ({ dth .stopped with lastTurn := none }) 0 0 0
    let who : Writer := .debugPort
    let g := s.dbgThr
    let th := s.thr g
    let rest := th.state = .stopped ∨ th.state = .halted ∨ th.state = .faulted
    let busy := s.dbgBusy = true
    let open_ := fun (v : Word) => mayWrite s who addrDbgCmd v ∧ inScope s
    open_ 1 ∧ ¬busy ∧ rest) ∧
    (let s : State := dbS 5 ({ dth .halted with lastTurn := none }) 0 0 0
    let who : Writer := .debugPort
    let g := s.dbgThr
    let th := s.thr g
    let rest := th.state = .stopped ∨ th.state = .halted ∨ th.state = .faulted
    let busy := s.dbgBusy = true
    let open_ := fun (v : Word) => mayWrite s who addrDbgCmd v ∧ inScope s
    open_ 1 ∧ ¬busy ∧ rest) ∧
    (let s : State := dbS 5 ({ dth .faulted with lastTurn := none }) 0 0 0
    let who : Writer := .debugPort
    let g := s.dbgThr
    let th := s.thr g
    let rest := th.state = .stopped ∨ th.state = .halted ∨ th.state = .faulted
    let busy := s.dbgBusy = true
    let open_ := fun (v : Word) => mayWrite s who addrDbgCmd v ∧ inScope s
    open_ 1 ∧ ¬busy ∧ rest) ∧
    (let s : State := dbS 5 ({ dth .ready with lastTurn := none }) 0 0 0
    let who : Writer := .debugPort
    let g := s.dbgThr
    let th := s.thr g
    let busy := s.dbgBusy = true
    let open_ := fun (v : Word) => mayWrite s who addrDbgCmd v ∧ inScope s
    open_ 1 ∧ ¬busy ∧ th.state = .ready ∧ th.issued = none ∧ th.entry = none) ∧
    (let s : State := dbS 5 ({ dth .ready with lastTurn := none, issued := some 0 }) 0 0 0
    let who : Writer := .debugPort
    let g := s.dbgThr
    let th := s.thr g
    let busy := s.dbgBusy = true
    let open_ := fun (v : Word) => mayWrite s who addrDbgCmd v ∧ inScope s
    open_ 1 ∧ ¬busy ∧ th.state = .ready ∧ (th.issued ≠ none ∨ th.entry ≠ none)) ∧
    (let s : State := dbS 5 ({ dth .ready with lastTurn := none, entry := some ⟨4, 1, false, 4, 4, 0⟩ }) 0 0 0
    let who : Writer := .debugPort
    let g := s.dbgThr
    let th := s.thr g
    let busy := s.dbgBusy = true
    let open_ := fun (v : Word) => mayWrite s who addrDbgCmd v ∧ inScope s
    open_ 1 ∧ ¬busy ∧ th.state = .ready ∧ (th.issued ≠ none ∨ th.entry ≠ none)) ∧
    (let s : State := dbS 5 ({ dth .halted with lastTurn := none }) 0 0 0
    let who : Writer := .debugPort
    let g := s.dbgThr
    let th := s.thr g
    let busy := s.dbgBusy = true
    let open_ := fun (v : Word) => mayWrite s who addrDbgCmd v ∧ inScope s
    open_ 2 ∧ ¬busy ∧ th.state ≠ .stopped) ∧
    (let s : State := dbS 5 ({ dth .ready with lastTurn := none }) 0 0 0
    let who : Writer := .debugPort
    let g := s.dbgThr
    let th := s.thr g
    let busy := s.dbgBusy = true
    let open_ := fun (v : Word) => mayWrite s who addrDbgCmd v ∧ inScope s
    open_ 4 ∧ ¬busy ∧ th.state ≠ .stopped) ∧
    (let s : State := dbS 1279 ({ dth .stopped with lastTurn := none }) 0 0 0
    let who : Writer := .debugPort
    let g := s.dbgThr
    let th := s.thr g
    let busy := s.dbgBusy = true
    let open_ := fun (v : Word) => mayWrite s who addrDbgCmd v ∧ inScope s
    open_ 2 ∧ ¬busy ∧ th.state = .stopped ∧ th.wait = .none) ∧
    (let s : State := stepS 5 4 2 3
    let who : Writer := .debugPort
    let d : Reg := 4
    let a : Reg := 2
    let b : Reg := 3
    let g := Fin.ofNat 1280 s.dbgThr
    let th := s.thr g
    let x := (((s.setThr g { th with state := .ready, stopReq := false }).countTurns g 1).active).fetchWord g
    let w := (match encodeWord (.addu 5 4 2 3) with | some w => w | none => (0, 0))
    w ∈ encodeWord (.addu g d a b) ∧ mayWrite s who addrDbgCmd 4 ∧ inScope s ∧ s.dbgBusy = false ∧ th.state = .stopped ∧ th.wait = .none ∧ th.rep = none ∧ th.owed = 0 ∧ th.entry = none ∧ (x.thr g).issued = some (BitVec.ofNat 32 w.2) ∧ (x.thr g).state = .ready ∧ g.val ≠ 1250) ∧
    (let s : State := on1 1279 { dth .ready with stopReq := true }
    let g : ThreadNo := 1279
    let th := s.thr g
    let still := (th.state = .ready ∧ th.entry = none ∧ th.issued = none) ∨ (th.state = .waiting ∧ th.wait = .storeSpace)
    th.stopReq = true ∧ still) ∧
    (let s : State := on1 0 { dth .waiting with stopReq := true, wait := .storeSpace }
    let g : ThreadNo := 0
    let th := s.thr g
    let still := (th.state = .ready ∧ th.entry = none ∧ th.issued = none) ∨ (th.state = .waiting ∧ th.wait = .storeSpace)
    th.stopReq = true ∧ still) ∧
    (let s : State := State.reset
    let g : ThreadNo := 1279
    let th := s.thr g
    (th.stopReq = false ∨ (th.state = .ready ∧ (th.entry ≠ none ∨ th.issued ≠ none)))) ∧
    (let s : State := on1 0 { dth .ready with stopReq := true, issued := some 0 }
    let g : ThreadNo := 0
    let th := s.thr g
    (th.stopReq = false ∨ (th.state = .ready ∧ (th.entry ≠ none ∨ th.issued ≠ none)))) ∧
    (let s : State := dbS 5 ({ dth .ready with lastTurn := none }) 0 0 0
    let who : Writer := .debugPort
    let g := s.dbgThr
    let th := s.thr g
    let rest := th.state = .stopped ∨ th.state = .halted ∨ th.state = .faulted
    let r := s.ctlGranted (s.reqBy who) false addrDbgRdata = true ∧ inScope s
    r ∧ ¬rest) ∧
    (let s : State := dbS 5 ({ dth .waiting with lastTurn := none }) 0 0 0
    let who : Writer := .debugPort
    let val : Word := 0
    let g := s.dbgThr
    let th := s.thr g
    let rest := th.state = .stopped ∨ th.state = .halted ∨ th.state = .faulted
    let w := mayWrite s who addrDbgRdata val ∧ inScope s
    w ∧ ¬rest) ∧
    (let s : State := dbS 5 ({ dth .stopped with lastTurn := none }) 0 31 0
    let who : Writer := .debugPort
    let g := s.dbgThr
    let th := s.thr g
    let rest := th.state = .stopped ∨ th.state = .halted ∨ th.state = .faulted
    let bank := s.fld addrDbgRsel fldDbgRsel_BANK
    let r := s.ctlGranted (s.reqBy who) false addrDbgRdata = true ∧ inScope s
    r ∧ rest ∧ bank = 0) ∧
    (let s : State := dbS 5 ({ dth .halted with lastTurn := none }) 1 0 0
    let who : Writer := .debugPort
    let g := s.dbgThr
    let th := s.thr g
    let rest := th.state = .stopped ∨ th.state = .halted ∨ th.state = .faulted
    let bank := s.fld addrDbgRsel fldDbgRsel_BANK
    let i := s.fld addrDbgRsel fldDbgRsel_INDEX
    let r := s.ctlGranted (s.reqBy who) false addrDbgRdata = true ∧ inScope s
    r ∧ rest ∧ bank = 1 ∧ i = 0) ∧
    (let s : State := dbS 5 ({ dth .faulted with lastTurn := none }) 1 17 0
    let who : Writer := .debugPort
    let g := s.dbgThr
    let th := s.thr g
    let rest := th.state = .stopped ∨ th.state = .halted ∨ th.state = .faulted
    let bank := s.fld addrDbgRsel fldDbgRsel_BANK
    let i := s.fld addrDbgRsel fldDbgRsel_INDEX
    let r := s.ctlGranted (s.reqBy who) false addrDbgRdata = true ∧ inScope s
    r ∧ rest ∧ bank = 1 ∧ i = 17) ∧
    (let s : State := dbS 5 ({ dth .stopped with lastTurn := none }) 2 14 0
    let who : Writer := .debugPort
    let g := s.dbgThr
    let th := s.thr g
    let rest := th.state = .stopped ∨ th.state = .halted ∨ th.state = .faulted
    let bank := s.fld addrDbgRsel fldDbgRsel_BANK
    let i := s.fld addrDbgRsel fldDbgRsel_INDEX
    let r := s.ctlGranted (s.reqBy who) false addrDbgRdata = true ∧ inScope s
    r ∧ rest ∧ bank = 2 ∧ i < 16 ∧ i % 4 < 3) ∧
    (let s : State := dbS 5 ({ dth .stopped with lastTurn := none }) 3 7 0
    let who : Writer := .debugPort
    let g := s.dbgThr
    let th := s.thr g
    let rest := th.state = .stopped ∨ th.state = .halted ∨ th.state = .faulted
    let bank := s.fld addrDbgRsel fldDbgRsel_BANK
    let i := s.fld addrDbgRsel fldDbgRsel_INDEX
    let r := s.ctlGranted (s.reqBy who) false addrDbgRdata = true ∧ inScope s
    r ∧ rest ∧ bank = 3 ∧ i < 8) ∧
    (let s : State := dbS 5 ({ dth .stopped with lastTurn := none }) 1 18 0
    let who : Writer := .debugPort
    let g := s.dbgThr
    let th := s.thr g
    let rest := th.state = .stopped ∨ th.state = .halted ∨ th.state = .faulted
    let bank := s.fld addrDbgRsel fldDbgRsel_BANK
    let i := s.fld addrDbgRsel fldDbgRsel_INDEX
    let r := s.ctlGranted (s.reqBy who) false addrDbgRdata = true ∧ inScope s
    r ∧ rest ∧ ((bank = 1 ∧ 17 < i) ∨ (bank = 2 ∧ (16 ≤ i ∨ i % 4 = 3)) ∨ (bank = 3 ∧ 8 ≤ i))) ∧
    (let s : State := dbS 5 ({ dth .stopped with lastTurn := none }) 2 16 0
    let who : Writer := .debugPort
    let g := s.dbgThr
    let th := s.thr g
    let rest := th.state = .stopped ∨ th.state = .halted ∨ th.state = .faulted
    let bank := s.fld addrDbgRsel fldDbgRsel_BANK
    let i := s.fld addrDbgRsel fldDbgRsel_INDEX
    let r := s.ctlGranted (s.reqBy who) false addrDbgRdata = true ∧ inScope s
    r ∧ rest ∧ ((bank = 1 ∧ 17 < i) ∨ (bank = 2 ∧ (16 ≤ i ∨ i % 4 = 3)) ∨ (bank = 3 ∧ 8 ≤ i))) ∧
    (let s : State := dbS 5 ({ dth .stopped with lastTurn := none }) 2 15 0
    let who : Writer := .debugPort
    let g := s.dbgThr
    let th := s.thr g
    let rest := th.state = .stopped ∨ th.state = .halted ∨ th.state = .faulted
    let bank := s.fld addrDbgRsel fldDbgRsel_BANK
    let i := s.fld addrDbgRsel fldDbgRsel_INDEX
    let r := s.ctlGranted (s.reqBy who) false addrDbgRdata = true ∧ inScope s
    r ∧ rest ∧ ((bank = 1 ∧ 17 < i) ∨ (bank = 2 ∧ (16 ≤ i ∨ i % 4 = 3)) ∨ (bank = 3 ∧ 8 ≤ i))) ∧
    (let s : State := dbS 5 ({ dth .stopped with lastTurn := none }) 3 8 0
    let who : Writer := .debugPort
    let g := s.dbgThr
    let th := s.thr g
    let rest := th.state = .stopped ∨ th.state = .halted ∨ th.state = .faulted
    let bank := s.fld addrDbgRsel fldDbgRsel_BANK
    let i := s.fld addrDbgRsel fldDbgRsel_INDEX
    let r := s.ctlGranted (s.reqBy who) false addrDbgRdata = true ∧ inScope s
    r ∧ rest ∧ ((bank = 1 ∧ 17 < i) ∨ (bank = 2 ∧ (16 ≤ i ∨ i % 4 = 3)) ∨ (bank = 3 ∧ 8 ≤ i))) ∧
    (let s : State := dbS 5 ({ dth .stopped with lastTurn := none }) 0 31 0
    let who : Writer := .debugPort
    let val : Word := 0xFFFFFFFF
    let g := s.dbgThr
    let th := s.thr g
    let rest := th.state = .stopped ∨ th.state = .halted ∨ th.state = .faulted
    let bank := s.fld addrDbgRsel fldDbgRsel_BANK
    let w := mayWrite s who addrDbgRdata val ∧ inScope s
    w ∧ rest ∧ bank = 0) ∧
    (let s : State := dbS 5 ({ dth .stopped with lastTurn := none }) 1 0 0
    let who : Writer := .debugPort
    let val : Word := 0xFFFFFFFC
    let g := s.dbgThr
    let th := s.thr g
    let rest := th.state = .stopped ∨ th.state = .halted ∨ th.state = .faulted
    let bank := s.fld addrDbgRsel fldDbgRsel_BANK
    let i := s.fld addrDbgRsel fldDbgRsel_INDEX
    let w := mayWrite s who addrDbgRdata val ∧ inScope s
    w ∧ rest ∧ bank = 1 ∧ i = 0 ∧ val.toNat % 4 = 0) ∧
    (let s : State := dbS 5 ({ dth .stopped with lastTurn := none }) 1 0 0
    let who : Writer := .debugPort
    let val : Word := 1
    let g := s.dbgThr
    let th := s.thr g
    let rest := th.state = .stopped ∨ th.state = .halted ∨ th.state = .faulted
    let bank := s.fld addrDbgRsel fldDbgRsel_BANK
    let i := s.fld addrDbgRsel fldDbgRsel_INDEX
    let w := mayWrite s who addrDbgRdata val ∧ inScope s
    w ∧ rest ∧ bank = 1 ∧ i = 0 ∧ val.toNat % 4 ≠ 0) ∧
    (let s : State := dbS 5 ({ dth .stopped with lastTurn := none }) 1 2 0
    let who : Writer := .debugPort
    let val : Word := 0x13
    let g := s.dbgThr
    let th := s.thr g
    let rest := th.state = .stopped ∨ th.state = .halted ∨ th.state = .faulted
    let bank := s.fld addrDbgRsel fldDbgRsel_BANK
    let i := s.fld addrDbgRsel fldDbgRsel_INDEX
    let w := mayWrite s who addrDbgRdata val ∧ inScope s
    w ∧ rest ∧ bank = 1 ∧ i = 2) ∧
    (let s : State := dbS 5 ({ dth .stopped with lastTurn := none }) 2 4 0
    let who : Writer := .debugPort
    let val : Word := 1
    let g := s.dbgThr
    let th := s.thr g
    let rest := th.state = .stopped ∨ th.state = .halted ∨ th.state = .faulted
    let bank := s.fld addrDbgRsel fldDbgRsel_BANK
    let i := s.fld addrDbgRsel fldDbgRsel_INDEX
    let w := mayWrite s who addrDbgRdata val ∧ inScope s
    w ∧ rest ∧ bank = 2 ∧ i = 4) ∧
    (let s : State := dbS 5 ({ dth .stopped with lastTurn := none }) 3 0 0
    let who : Writer := .debugPort
    let val : Word := 1
    let g := s.dbgThr
    let th := s.thr g
    let rest := th.state = .stopped ∨ th.state = .halted ∨ th.state = .faulted
    let bank := s.fld addrDbgRsel fldDbgRsel_BANK
    let w := mayWrite s who addrDbgRdata val ∧ inScope s
    w ∧ rest ∧ bank = 3) ∧
    (let s : State := dbS 5 ({ dth .stopped with lastTurn := none }) 0 0 1048572
    let who : Writer := .debugPort
    let g := s.dbgThr
    let th := s.thr g
    let a := s.fld addrDbgMaddr fldDbgMaddr_ADDR * 4
    let r := s.ctlGranted (s.reqBy who) false addrDbgMdata = true ∧ inScope s
    let grant := fun k => s.granted (g / 32) th.isZ th.isSup k a
    let blk := lapBlk (g / 32) a
    r ∧ a < 0x100000 ∧ grant .read = true ∧ cleanAt s blk 4) ∧
    (let s : State := dbS 5 ({ dth .stopped with lastTurn := none }) 0 0 1048576
    let who : Writer := .debugPort
    let g := s.dbgThr
    let th := s.thr g
    let a := s.fld addrDbgMaddr fldDbgMaddr_ADDR * 4
    let r := s.ctlGranted (s.reqBy who) false addrDbgMdata = true ∧ inScope s
    let grant := fun k => s.granted (g / 32) th.isZ th.isSup k a
    r ∧ (grant .read = false ∨ (0x100000 ≤ a ∧ a < 0x08000000))) ∧
    (let s : State := dbS 33 ({ dth .stopped with lastTurn := none }) 0 0 0
    let who : Writer := .debugPort
    let g := s.dbgThr
    let th := s.thr g
    let a := s.fld addrDbgMaddr fldDbgMaddr_ADDR * 4
    let r := s.ctlGranted (s.reqBy who) false addrDbgMdata = true ∧ inScope s
    let grant := fun k => s.granted (g / 32) th.isZ th.isSup k a
    r ∧ (grant .read = false ∨ (0x100000 ≤ a ∧ a < 0x08000000))) ∧
    (let s : State := dbS 5 ({ dth .stopped with lastTurn := none }) 0 0 1048572
    let who : Writer := .debugPort
    let val : Word := 1
    let g := s.dbgThr
    let th := s.thr g
    let a := s.fld addrDbgMaddr fldDbgMaddr_ADDR * 4
    let w := mayWrite s who addrDbgMdata val ∧ inScope s
    let blk := lapBlk (g / 32) a
    w ∧ a < 0x100000 ∧ s.grantedAll (g / 32) th.isZ th.isSup .write a 4 = true ∧ cleanAt s blk 4) ∧
    (let s : State := dbS 5 ({ dth .stopped with lastTurn := none }) 0 0 1048576
    let who : Writer := .debugPort
    let val : Word := 1
    let g := s.dbgThr
    let th := s.thr g
    let a := s.fld addrDbgMaddr fldDbgMaddr_ADDR * 4
    let w := mayWrite s who addrDbgMdata val ∧ inScope s
    w ∧ (s.grantedAll (g / 32) th.isZ th.isSup .write a 4 = false ∨ (0x100000 ≤ a ∧ a < 0x08000000))) ∧
    (let s : State := dbS 5 ({ dth .stopped with lastTurn := none }) 0 0 134217724
    let who : Writer := .debugPort
    let val : Word := 1
    let g := s.dbgThr
    let th := s.thr g
    let a := s.fld addrDbgMaddr fldDbgMaddr_ADDR * 4
    let w := mayWrite s who addrDbgMdata val ∧ inScope s
    w ∧ (s.grantedAll (g / 32) th.isZ th.isSup .write a 4 = false ∨ (0x100000 ≤ a ∧ a < 0x08000000))) ∧
    (let s : State := State.reset
    let who : Writer := .debugPort
    mayWrite s who addrDbgTrcctl 0) ∧
    (let s : State := dbS 5 ({ dth .stopped with lastTurn := none }) 0 0 0
    let who : Writer := .debugPort
    mayWrite s who addrDbgTrcctl 1 ∧ inScope s) := by
  iterate 6 refine ⟨by dsimp only [mayWrite]; decide +kernel, ?_⟩
  iterate 2 refine ⟨by decide +kernel, ?_⟩
  iterate 13 refine ⟨by (try dsimp only [inScope, mayWrite]) <;> (repeat' apply And.intro) <;> first | decide +kernel | rfl | (first | exact ⟨(true, 2), by decide +kernel, by decide +kernel⟩ | exact ⟨(true, 2), rfl, .inl rfl⟩ | (refine ⟨?_, ?_⟩ <;> first | decide +kernel | exact ⟨(true, 2), rfl, .inl rfl⟩)), ?_⟩
  iterate 4 refine ⟨by decide +kernel, ?_⟩
  refine ⟨by (try dsimp only [inScope]) <;> (repeat' apply And.intro) <;> first | decide +kernel | rfl | (first | exact ⟨(true, 2), by decide +kernel, by decide +kernel⟩ | exact ⟨(true, 2), rfl, .inl rfl⟩ | (refine ⟨?_, ?_⟩ <;> first | decide +kernel | exact ⟨(true, 2), rfl, .inl rfl⟩)), ?_⟩
  refine ⟨by (try dsimp only [inScope, mayWrite]) <;> (repeat' apply And.intro) <;> first | decide +kernel | rfl | (first | exact ⟨(true, 2), by decide +kernel, by decide +kernel⟩ | exact ⟨(true, 2), rfl, .inl rfl⟩ | (refine ⟨?_, ?_⟩ <;> first | decide +kernel | exact ⟨(true, 2), rfl, .inl rfl⟩)), ?_⟩
  iterate 9 refine ⟨by (try dsimp only [inScope]) <;> (repeat' apply And.intro) <;> first | decide +kernel | rfl | (first | exact ⟨(true, 2), by decide +kernel, by decide +kernel⟩ | exact ⟨(true, 2), rfl, .inl rfl⟩ | (refine ⟨?_, ?_⟩ <;> first | decide +kernel | exact ⟨(true, 2), rfl, .inl rfl⟩)), ?_⟩
  iterate 6 refine ⟨by (try dsimp only [inScope, mayWrite]) <;> (repeat' apply And.intro) <;> first | decide +kernel | rfl | (first | exact ⟨(true, 2), by decide +kernel, by decide +kernel⟩ | exact ⟨(true, 2), rfl, .inl rfl⟩ | (refine ⟨?_, ?_⟩ <;> first | decide +kernel | exact ⟨(true, 2), rfl, .inl rfl⟩)), ?_⟩
  refine ⟨by (try dsimp only [cleanAt, inScope]) <;> (repeat' apply And.intro) <;> first | decide +kernel | rfl | (first | exact ⟨(true, 2), by decide +kernel, by decide +kernel⟩ | exact ⟨(true, 2), rfl, .inl rfl⟩ | (refine ⟨?_, ?_⟩ <;> first | decide +kernel | exact ⟨(true, 2), rfl, .inl rfl⟩)), ?_⟩
  iterate 2 refine ⟨by (try dsimp only [inScope]) <;> (repeat' apply And.intro) <;> first | decide +kernel | rfl | (first | exact ⟨(true, 2), by decide +kernel, by decide +kernel⟩ | exact ⟨(true, 2), rfl, .inl rfl⟩ | (refine ⟨?_, ?_⟩ <;> first | decide +kernel | exact ⟨(true, 2), rfl, .inl rfl⟩)), ?_⟩
  refine ⟨by (try dsimp only [cleanAt, inScope, mayWrite]) <;> (repeat' apply And.intro) <;> first | decide +kernel | rfl | (first | exact ⟨(true, 2), by decide +kernel, by decide +kernel⟩ | exact ⟨(true, 2), rfl, .inl rfl⟩ | (refine ⟨?_, ?_⟩ <;> first | decide +kernel | exact ⟨(true, 2), rfl, .inl rfl⟩)), ?_⟩
  iterate 2 refine ⟨by (try dsimp only [inScope, mayWrite]) <;> (repeat' apply And.intro) <;> first | decide +kernel | rfl | (first | exact ⟨(true, 2), by decide +kernel, by decide +kernel⟩ | exact ⟨(true, 2), rfl, .inl rfl⟩ | (refine ⟨?_, ?_⟩ <;> first | decide +kernel | exact ⟨(true, 2), rfl, .inl rfl⟩)), ?_⟩
  refine ⟨by (try dsimp only [mayWrite]) <;> (repeat' apply And.intro) <;> first | decide +kernel | rfl | (first | exact ⟨(true, 2), by decide +kernel, by decide +kernel⟩ | exact ⟨(true, 2), rfl, .inl rfl⟩ | (refine ⟨?_, ?_⟩ <;> first | decide +kernel | exact ⟨(true, 2), rfl, .inl rfl⟩)), ?_⟩
  (try dsimp only [inScope, mayWrite]) <;> (repeat' apply And.intro) <;> first | decide +kernel | rfl | (first | exact ⟨(true, 2), by decide +kernel, by decide +kernel⟩ | exact ⟨(true, 2), rfl, .inl rfl⟩ | (refine ⟨?_, ?_⟩ <;> first | decide +kernel | exact ⟨(true, 2), rfl, .inl rfl⟩))

theorem witness_WhorlWrites : metIf whorlRow [
    (makerS, .threadStart me 1279 true, decide ((makerS.thr 1279).state = .halted)),
    (thS 0 .ready .none, .threadStart me 0 false, decide (((thS 0 .ready .none).thr 0).state ≠ .halted)),
    (thS 0 .ready .none, .threadHalt me 0 false, decide (((thS 0 .ready .none).thr 0).state = .ready)),
    (thS 5 .waiting (.event 1), .threadHalt me 5 false, decide (((thS 5 .waiting (.event 1)).thr 5).wait = .event 1)),
    (makerS, .threadHalt me 1279 true, decide ((makerS.thr 1279).state = .halted)),
    (thS 0 .faulted .none, .threadClrf me 0 true, decide (((thS 0 .faulted .none).thr 0).state = .faulted)),
    (makerS, .threadClrf me 1279 false, decide ((makerS.thr 1279).state ≠ .faulted)),
    (chnS 0, .channelConfig me 39 63 0, (chnS 0).on (addrWhlChcfg 39 63) fldWhlChcfg_EN),
    (makerS, .channelConfig me 0 0 1, !makerS.on (addrWhlChcfg 0 0) fldWhlChcfg_EN),
    (makerS, .xchanConfig me 39 15 1, !makerS.on (addrWhlXcfg 39 15) fldWhlXcfg_EN),
    (chnS 0, .channelFlush me 39 63, ((chnS 0).chan 39 63).open_ == 0),
    (chnS 3, .channelFlush me 39 63, 0 < ((chnS 3).chan 39 63).open_),
    (makerS, .notePop me 39 false, true),
    (makerS, .notePop me 0 true, true),
    (makerS, .slotWrite me 39 63 0x9F, true),
    (makerS, .slotHold me 39 true, true),
    (makerS, .evpendClear me 1279 0xFFFFFFFF, true),
    (makerS, .deadlineArm me 1279 0, true),
    (makerS, .channelFlush me 0 79, true)] := metIf_of (by decide +kernel)

theorem witness_StoreWrites : metIf storeRow [
    (storeS, .scrub me 0x15FFFFF8, (scrubWords 0x15FFFFF8).all fun w => decide (storeS.synd w ≠ .bad)),
    (storeS, .rawRead me 1, true),
    (storeS, .rawWrite me 2, true),
    (makerS, .eccCountClear me 1, true),
    (makerS, .remapLock me 1, true),
    (makerS.setFld addrMemRemapctl fldMemRemapctl_LOCK 1, .remapWrite me (.creel 63 7) 1, true),
    (makerS, .remapWrite me (.lap 39 7 3) 0x80000001, !(makerS.rd (remapAddr (.lap 39 7 3))).toNat.testBit 30),
    (stagedS 0, .bobSetWrite me 65533, (stagedS 0).unitState (addrBobBctl 65533) == 0 && (stagedS 0).stageOk fun i => ((stagedS 0).rd (addrBobStage i)).toNat),
    (stagedS 2, .bobSetWrite me 65533, (stagedS 2).unitState (addrBobBctl 65533) != 0),
    (makerS, .bobSetWrite me 0, !makerS.stageOk fun i => (makerS.rd (addrBobStage i)).toNat),
    (storeS, .bobSetRead me 65535, true),
    (makerS, .bobSetClear me 65535, makerS.unitState (addrBobBctl 65535) == 0),
    (storeS, .bobSetClear me 65535, storeS.unitState (addrBobBctl 65535) != 0),
    (storeS.wr (addrBobBctl 65535) 0, .bobbinEnable me 65535 1, true),
    (storeS, .bobbinEnable me 65535 0, storeS.unitState (addrBobBctl 65535) == 2),
    (storeS, .doorbell me 65535 1, storeS.synd (bdAddr 65535 4 / 8 * 8) == .clean),
    (bobS storeS 65534 2 9 4, .release me 65534 1, (bobS storeS 65534 2 9 4).bobType 65534 != 1),
    (sendS, .retire me 7, sendS.sends.any fun r => r.bob == 0 && r.idx == 7),
    (makerS, .retire me 7, true),
    (makerS, .grantAdjust me 0xFFFFFFFF, decide ((makerS.ctr 0 .free : Int) + (0xFFFFFFFF : Word).toInt < 0)),
    (freeS 1, .grantAdjust me 0xFFFFFFFF, decide (((freeS 1).lgrSet 0).isSome ∧ 0 ≤ ((freeS 1).ctr 0 .free : Int) + (0xFFFFFFFF : Word).toInt)),
    (makerS, .ledgerOverride me 1, true),
    (makerS, .guaranteeBreak me 8, true),
    (makerS, .guaranteeBreak me 16, true)] := metIf_of (by decide +kernel)

theorem witness_WireWrites : metIf wireRow [
    (makerS, .controlSend me 143 1, !makerS.on (addrLnkCtxcmd 143) fldLnkCtxcmd_BUSY),
    (busyS 143, .controlSend me 143 1, (busyS 143).on (addrLnkCtxcmd 143) fldLnkCtxcmd_BUSY),
    (makerS, .controlPop me 143 1, true),
    (makerS, .linkCounterClear me 143 1, true),
    (makerS, .linkEnable me 143 1, makerS.unitState (addrLnkCtl 143) == 0 && makerS.fld (addrLnkCtl 143) enEN == 0),
    (unitS (addrLnkCtl 0) 1 2, .linkEnable me 0 0, (unitS (addrLnkCtl 0) 1 2).unitState (addrLnkCtl 0) == 2),
    (makerS, .routeCommit me 4095 0, true),
    (ctxS 8191, .ctxHold me 8191, (((ctxS 8191).ctx 8191).map fun x => x.expired) == some true),
    (ctxS 0, .ctxResend me 0, (((ctxS 0).ctx 0).map fun x => x.expired) == some true),
    (ctxS 1, .ctxAbort me 1, (((ctxS 1).ctx 1).map fun x => x.expired) == some true),
    (makerS, .routeCounterClear me 1, true),
    (makerS, .reelSwapRequest me 143 1, true),
    (reelS, .reelArm me 1, true)] := metIf_of (by decide +kernel)

theorem witness_EngineWrites : metIf engineRow [
    (goS 7 0 0, .draftGoWrite me 7 1, decide ((goS 7 0 0).goList 7 ((goS 7 0 0).reqBy me) = none)),
    (goS 7 0 1, .draftGoWrite me 7 1, decide (((goS 7 0 1).goList 7 ((goS 7 0 1).reqBy me)).isSome ∧ (goS 7 0 1).drfRun 7 = 0 ∧ ((goS 7 0 1).drf 7).cur = none)),
    (goS 0 1 1, .draftGoWrite me 0 1, decide (((goS 0 1 1).goList 0 ((goS 0 1 1).reqBy me)).isSome ∧ (goS 0 1 1).drfRun 0 ≠ 0)),
    (makerS, .draftEnable me 7 1, makerS.unitState (addrDrfCtl 7) == 0),
    (unitS (addrDrfCtl 7) 1 2, .draftEnable me 7 0, (unitS (addrDrfCtl 7) 1 2).unitState (addrDrfCtl 7) == 2),
    (goS 7 2 1, .draftPause me 7, (goS 7 2 1).drfRun 7 ≤ 2),
    ((goS 7 3 1).modDrf 7 fun d => { d with begun := true }, .draftResume me 7, (goS 7 3 1).drfRun 7 == 3),
    (makerS, .draftAbort me 7, true),
    (goS 7 4 1, .draftClrf me 7, decide ((goS 7 4 1).drfRun 7 = 4 ∧ ((goS 7 4 1).drf 7).queue = [])),
    (makerS, .draftCounterClear me 7 1, true),
    (makerS.wr (addrPlyCgctl 31) 0x80000000, .groupDisarm me 31 0x40000000, true),
    (engS, .plyClrf me 14, (engS.ply 14).passes.length ≤ 1),
    (makerS, .plyAbort me 15, true),
    (makerS, .plyEnable me 15 1, makerS.unitState (addrPlyCtl 15) == 0),
    (unitS (addrPlyCtl 15) 1 2, .plyEnable me 15 0, (unitS (addrPlyCtl 15) 1 2).unitState (addrPlyCtl 15) == 2),
    (makerS, .plyCounterClear me 15 1, true),
    (makerS, .tbRateWrite me 0xFFF, true),
    (makerS, .tbSlew me 1, true),
    (makerS, .tbStep me 2, decide (makerS.rd (addrSknStep 1) = 0 ∧ makerS.rd (addrSknStep 2) = 0)),
    (makerS, .tbSnap me 1, true),
    (makerS, .skeinEnable me 1, makerS.unitState addrSknCtl == 0),
    (unitS addrSknCtl 1 2, .skeinEnable me 0, (unitS addrSknCtl 1 2).unitState addrSknCtl == 2),
    (makerS, .tnsSwapRequest me 143 (tnsV fldTnsCtl_SWAP), (tnsV fldTnsCtl_SWAP).toNat.testBit 0),
    (engS, .tnsRevertCmd me 143 (tnsV fldTnsCtl_REVERT), (tnsV fldTnsCtl_REVERT).toNat.testBit 1),
    (makerS, .tnsCounterClear me 143 1, true),
    (makerS, .ageingMeasure me (setF 0 fldTnsAgectl_GO 1), isOn (setF 0 fldTnsAgectl_GO 1) fldTnsAgectl_GO),
    (makerS, .snagEnable me 1, makerS.unitState addrSngCtl == 0),
    (engS, .snagAudack me 1, engS.unitState addrSngCtl == 1 && engS.fld addrSngCtl enDSQ == 0)] := metIf_of (by decide +kernel)

theorem witness_NetworkWrites : metIf networkRow [
    (makerS, .swfire me 1 0x80000000, makerS.rowZ 63 == (makerS.reqBy me).z),
    (makerS, .consumerAck me 159 1, true),
    (makerS, .consumerConfig me 255 0x10001, true),
    (makerS, .consumerConfig me 255 0x10000, true),
    (makerS, .groupControl me 31 1, true),
    (makerS, .matrixWrite me 255 0 1, !(makerS.reqBy me).z),
    (zS, .matrixWrite (.thread 0) 255 0 0, (zS.reqBy (.thread 0)).z),
    (makerS, .pinOutWrite me 2 0, true),
    (makerS, .pinSet me 2 1, true),
    (makerS, .pinClr me 2 1, true),
    (makerS, .pinTgl me 2 1, true),
    (makerS, .pinConfig me 95 1, true),
    (makerS, .pinFlush me 15 (setF 0 fldPinTctl_FLUSH 1), isOn (setF 0 fldPinTctl_FLUSH 1) fldPinTctl_FLUSH)] := metIf_of (by decide +kernel)

theorem witness_SystemWrites : metIf systemRow [
    (qS 7, .secSubmit me 39 0x10C00000, (tget (fun _ => []) (qS 7).secq 39).length < 8),
    (qS 8, .secSubmit me 39 0x10C00000, 8 ≤ (tget (fun _ => []) (qS 8).secq 39).length),
    (makerS, .grantClear me 1, true),
    (makerS, .mailboxGo me 1, !makerS.on addrSecMbxctl fldSecMbxctl_GO),
    (makerS, .mailboxPost me 1, true),
    (intS 255 0 0, .interruptRearm me 7 0x80000000, !(intS 255 0 0).on (addrHapIctl 255) fldHapIctl_PEND),
    (intS 255 2 0, .interruptSoftwareFire me 7 0x80000000, (intS 255 2 0).fld (addrHapIctl 255) fldHapIctl_CLASS == 2),
    (makerS, .hapEnable me 7 1, makerS.unitState (addrHapCtl 7) == 0),
    (unitS (addrHapCtl 7) 1 2, .hapEnable me 7 0, (unitS (addrHapCtl 7) 1 2).unitState (addrHapCtl 7) == 2),
    (makerS, .hapCounterClear me 7 1, true),
    (makerS, .resetCommand me 1, true),
    (makerS.setFld addrPwrStatus fldPwrStatus_STATE 2, .powerRun me, true),
    (makerS, .powerRun me, makerS.fld addrPwrStatus fldPwrStatus_STATE != 2),
    (makerS, .powerDoze me, true),
    (offS, .powerDeepSleep me, offS.allOff),
    (unitS (addrLnkCtl 0) 1 2, .powerDeepSleep me, !(unitS (addrLnkCtl 0) 1 2).allOff),
    (makerS, .wclkDivider me 8, true)] := metIf_of (by decide +kernel)


theorem witness_NetworkWrites_owner :
    (let s := makerS; let row := ownRow
     locate (addrPinOwn 0) = some (row, [0]) ∧ takesEffect s me row [95] (pinOwnKey 95) (addrPinOwn 95) 1) := by
  dsimp only [takesEffect] <;> (repeat' apply And.intro) <;> decide +kernel

/-! ### Ill-formed commands are refused -/

def bytes (n : Nat) : List Byte := List.replicate n 0
def badCell : Cell := ⟨mkHdr [], bytes 65⟩
def goodCell : Cell := ⟨mkHdr [], bytes 64⟩
def obj (n : Nat) : SignedObj := ⟨bytes n, [], []⟩
def fetched (n : Nat) : DraftHost := ⟨some (bytes n), none, [], []⟩

/-- R192: a codeword has 272 symbols. -/
theorem test_wf_codeword : (Instr.codewordReceived 0 (List.replicate 271 0)).wf = false ∧ (Instr.codewordReceived 0 (List.replicate 272 0)).wf = true := by
  decide +kernel
/-- R196: a payload of 65 bytes is neither a full nor a short cell's. -/
theorem test_wf_cells : (Instr.cellReceived 0 badCell .current).wf = false ∧ (Instr.controlCellReceived 0 badCell .current true).wf = false ∧
    (Instr.nakReceived 0 badCell .current).wf = false ∧ (Instr.creditBlock 0 badCell .current).wf = false ∧ (Instr.syncReceived 0 badCell .current).wf = false ∧
    (Instr.tsinfoReceived 0 badCell .current).wf = false ∧ (Instr.cellReceived 0 goodCell .current).wf = true := by decide +kernel
/-- R335 and R345: a gradient has 8 words, an ageing measurement 64 and 64. -/
theorem test_wf_sensors : (Instr.gradientBlock 0 0 0 [0]).wf = false ∧ (Instr.ageingDone [] (List.replicate 64 0)).wf = false ∧
    (Instr.ageingDone (List.replicate 64 0) (List.replicate 64 0)).wf = true := by decide +kernel
/-- R262: a draft command has 64 bytes. -/
theorem test_wf_draft : (Instr.draftCopy 0 (fetched 63)).wf = false ∧ (Instr.serviceCommand 0 ⟨none, some [], [], []⟩).wf = false ∧
    (Instr.draftStop 0 (fetched 64)).wf = true := by decide +kernel
/-- R411, R417: a data flit carries a line of 128 bytes. -/
theorem test_wf_host : (Instr.hreqWr 0 0 0 (bytes 127)).wf = false ∧ (Instr.hreqWrdb 0 0 0 (bytes 129)).wf = false ∧
    (Instr.drspReceived 0 0 []).wf = false ∧ (Instr.hreqWr 0 0 0 (bytes 128)).wf = true := by decide +kernel
/-- R384, R389, R394, R398: role commands. -/
theorem test_wf_roles : (Instr.roleFrame false (bytes 15)).wf = false ∧ (Instr.zload (obj 4863) [] []).wf = false ∧
    (Instr.jobkey [.install 0 false 0 (bytes 1665) (bytes 47)]).wf = false ∧ (Instr.jobkey [.install 0 false 0 (bytes 1664) (bytes 48)]).wf = false ∧
    (Instr.audexport (2 ^ 64)).wf = false ∧ (Instr.regw [(1, 0, 0)]).wf = false ∧ (Instr.snagCommand [(2, 0, 0)]).wf = false ∧
    (Instr.regwm [(3, 0, 0)]).wf = false ∧ (Instr.approve [obj 4865]).wf = false ∧ (Instr.inskey (bytes 49)).wf = false ∧
    (Instr.approve [obj 4864]).wf = true := by decide +kernel
/-- R438: a spool image is at most 98,304 bytes; R468: register addresses are words'. -/
theorem test_wf_boot : (Instr.bootVerify (obj 4864) (obj 4863) [] []).wf = false ∧ (Instr.bootVerify (obj 4863) (obj 4864) [] []).wf = false ∧
    (Instr.registerWrite .debugPort 2 0).wf = false ∧ (Instr.registerWrite .debugPort 4 0).wf = true := by decide +kernel

/-! ### Decoding words written out from the tables of spec/04 -/

def dec (w : Nat) : Decoded := decodeWord 0 (fun _ => true) w

/-- spec/04, "Encoding a repeated pair": REP 16 with I, and the pair LWS w2, 0(w5) with ADDIU w5, w5, 4. -/
theorem test_decode_worked_example : dec 0x4800400F = .ok (.rep 0 true none 15) ∧
    dec 0xF8947AAC = .ok (.pair 0 ⟨0x1E, 2, 5, 0⟩ ⟨0x0F, 5, 5, 2⟩) ∧ dec 0x38228008 = .ok (.lw 0 2 5 8) := by decide +kernel
/-- The same words of other families by hand: ADD (major 0x00, fn 1), ADDI (0x08), J (0x27). -/
theorem test_decode_by_hand : dec 0x00310801 = .ok (.add 0 3 2 2) ∧ dec 0x10C07FFF = .ok (.addi 0 12 0 0x7FFF) ∧ dec 0x4E000001 = .ok (.j 0 1) := by
  decide +kernel
/-- R117: the word 0 names no function, a reserved field set is refused. -/
theorem test_decode_refuses : dec 0 = .bad .function ∧ dec 0x06001400 = .bad .reserved := by decide +kernel

/-! ### Single steps -/

/-- spec/03, "One extraction in each mode": a0 = 2^63 + 2^31, EXTQ with RM = RNE and SE = 0 gives 0x8000_0000, with SE = 1 the bound. -/
def accS (fx : Word) : State := on1 5 { rdy 0x13 with fx := fx, a := (rdy 0x13).a.set 0 (BitVec.ofNat 80 (2 ^ 63 + 2 ^ 31)) }
def nextReg (o : Out) (g : ThreadNo) (r : Reg) : Option Word := match o with | .next s => some ((s.thr g).get r) | _ => none
theorem test_extq_worked_example : nextReg (exec (.extq 5 5 0 false) (accS 0)) 5 5 = some 0x80000000 ∧
    nextReg (exec (.extq 5 5 0 false) (accS 1)) 5 5 = some 0x80000001 ∧ nextReg (exec (.extq 5 5 0 false) (accS 4)) 5 5 = some 0x7FFFFFFF := by decide +kernel
/-- The two MACQ before it (the sum 2^63 + 2^31 from −1.0 squared and 0.5 times 2^−31). -/
theorem test_macq_worked_example :
    (match exec (.macq 5 0 2 2) (on1 5 (regs2 0x13 0x80000000 0)) with | .next s => (s.thr 5).a[0] | _ => 0) = BitVec.ofNat 80 (2 ^ 63) := by decide +kernel
/-- R75: 0x7FFFFFFF + 1 wraps with OVE and SAT 0. -/
theorem test_add_wraps : nextReg (exec (.add 5 4 2 3) (on1 5 (regs2 0x13 0x7FFFFFFF 1))) 5 4 = some 0x80000000 := by decide +kernel
/-- R76: −7 / 2 truncates toward zero, once the divider is done. -/
theorem test_div_truncates : (match exec (.div 5 4 2 3) (on1 5 (regs2 0x13 0xFFFFFFF9 2)) with
    | .next s => nextReg (exec (.divideComplete 5) s) 5 4 | _ => none) = some 0xFFFFFFFD := by decide +kernel
/-- The front command of the queue runs, and leaves the queue. -/
theorem test_step_front : (match step { on1 5 (regs2 0x13 1 2) with pending := [.addu 5 4 2 3, .halt 5] } with
    | .next s => some ((s.thr 5).get 4, s.pending.length) | _ => none) = some (3, 1) := by decide +kernel

end Sys2Proof.Tests
end

section
/-! PROOFS. Signed-checked words (R75): a result fitted to its width, and what a word that works on its thread alone does. -/

namespace Sys2Proof.Machine

/-! ### Single bits of the status words (R72, R73) -/

theorem getF_bit (w : Word) (k : Nat) : getF w ⟨k, k⟩ = (w.toNat.testBit k).toNat := by
  simp [getF, natField, Bits.width, Nat.toNat_testBit, Nat.shiftRight_eq_div_pow]

/-- A one-bit field is on when its bit is set. -/
theorem isOn_bit (w : Word) (k : Nat) : isOn w ⟨k, k⟩ = w.toNat.testBit k := by
  cases h : w.toNat.testBit k <;> simp [isOn, getF_bit, h]

theorem or_twoPow_of_testBit {w : Word} {k : Nat} (h : w.toNat.testBit k = true) : w ||| BitVec.twoPow 32 k = w := by
  refine BitVec.eq_of_getLsbD_eq fun i _ => ?_
  by_cases hik : k = i
  · subst hik
    rw [BitVec.getLsbD_or, ← BitVec.testBit_toNat w, h, Bool.true_or]
  · rw [BitVec.getLsbD_or, BitVec.getLsbD_twoPow, decide_eq_false hik, Bool.and_false, Bool.or_false]

theorem or_twoPow_of_not_testBit {w : Word} {k : Nat} (h : w.toNat.testBit k = false) :
    w ||| BitVec.twoPow 32 k = w + BitVec.twoPow 32 k := by
  refine (BitVec.add_eq_or_of_and_eq_zero _ _ ?_).symm
  simp [BitVec.and_twoPow, ← BitVec.testBit_toNat, h]

/-- A sticky flag set is the bit set. -/
theorem setOn_bit (w : Word) (k : Nat) : setOn w ⟨k, k⟩ = w ||| BitVec.twoPow 32 k := by
  have hfield : natField w.toNat ⟨k, k⟩ = (w.toNat.testBit k).toNat := getF_bit w k
  cases h : w.toNat.testBit k with
  | false =>
    rw [or_twoPow_of_not_testBit h]
    exact BitVec.eq_of_toNat_eq (by simp [setOn, setF, hfield, h, Bits.width])
  | true =>
    rw [or_twoPow_of_testBit h]
    have hle : 2 ^ k ≤ w.toNat := Nat.ge_two_pow_of_testBit h
    simp [setOn, setF, hfield, h, Bits.width, Nat.sub_add_cancel hle]

/-! ### A word that works on its thread alone (R34, R85, R122) -/

section
variable {s : State} {g : Nat} {f : Thread → Res} (hrun : s.runs g = true)
include hrun

theorem runOp_done {t : Thread} (hf : f (s.thr g) = .done t) : runOp g s f = s.setThr g t.advance := by
  simp [runOp, hrun, hf]

theorem runOp_goto {t : Thread} {pc : Word} {k : Nat} (hf : f (s.thr g) = .goto t pc k) :
    runOp g s f = (s.setThr g (t.jump pc)).traced g k 0 (s.thr g).wordAddr pc := by
  simp [runOp, hrun, hf]

theorem runOp_trap {c d : Nat} {e : Word} (hf : f (s.thr g) = .trap c d e) : runOp g s f = s.trap g c d e := by
  simp [runOp, hrun, hf]

theorem issue_runs (f : Thread → State) : s.issue g f = f (s.thr g) := by simp [State.issue, hrun]

end

/-- With legal pair registers a pair word does what it does. -/
theorem withPairs_even {l : List Reg} (h : ∀ r ∈ l, r.val % 2 = 0) (f : Thread → Res) : withPairs l f = f := by
  have hl : l.all evenReg = true := List.all_eq_true.mpr fun r hr => by simp [evenReg, h r hr]
  funext th
  simp [withPairs, hl]

@[simp] theorem Thread.set_fx (th : Thread) (r : Reg) (v : Word) : (th.set r v).fx = th.fx := by
  unfold Thread.set; split <;> rfl
@[simp] theorem pairPut_fx (th : Thread) (r : Reg) (v : BitVec 64) : (pairPut th r v).fx = th.fx := by
  simp [pairPut]

/-! ### Signed-checked results (R75) -/

theorem inRange_iff_fits (b : Nat) (x : Int) : inRange b x = true ↔ fits b x := by
  simp [inRange, fits]

theorem ofNat_wrapTo (b : Nat) (x : Int) : BitVec.ofNat b (wrapTo b x) = BitVec.ofInt b x := by
  refine BitVec.eq_of_toNat_eq ?_
  have hlt : (x % ((2 ^ b : Nat) : Int)).toNat < 2 ^ b := by
    have hpos : (0 : Int) < ((2 ^ b : Nat) : Int) := Int.natCast_pos.mpr (Nat.two_pow_pos b)
    exact (Int.toNat_lt (Int.emod_nonneg x (Int.ne_of_gt hpos))).mpr (Int.emod_lt_of_pos x hpos)
  rw [BitVec.toNat_ofNat, BitVec.toNat_ofInt, wrapTo, Nat.mod_eq_of_lt hlt]

/-- The bound of the signed range that is nearest to a value outside it (R75). -/
def nearestBound (b : Nat) (x : Int) : Int := if x < 0 then -(2 ^ (b - 1) : Nat) else (2 ^ (b - 1) : Nat) - 1

theorem satInt_of_not_fits {b : Nat} {x : Int} (h : ¬fits b x) : satInt x b = nearestBound b x := by
  have hpos : (0 : Int) < (2 ^ (b - 1) : Nat) := Int.natCast_pos.mpr (Nat.two_pow_pos (b - 1))
  have hout : ¬(-((2 ^ (b - 1) : Nat) : Int) ≤ x ∧ x < (2 ^ (b - 1) : Nat)) := by
    simpa [fits] using h
  unfold satInt nearestBound
  generalize ((2 ^ (b - 1) : Nat) : Int) = m at hpos hout ⊢
  split <;> omega

/-- What a signed-checked word does with its exact result, whose bits `put` writes. -/
def checkedRes (b : Nat) (put : Thread → BitVec b → Thread) (x : Int) (th : Thread) : Res :=
  match checked th.st th.fx b x with
  | none => .trap 8 0 0
  | some (v, fx) => .done { put th (BitVec.ofNat b v) with fx := fx }

theorem opChk_eq_checkedRes (d : Reg) (x : Int) : opChk d x = checkedRes 32 (·.set d) x := by
  funext th; unfold opChk checkedRes wordOf; rfl
theorem opChk64_eq_checkedRes (d : Reg) (x : Int) : opChk64 d x = checkedRes 64 (pairPut · d) x := by
  funext th; unfold opChk64 checkedRes; rfl

section
variable {b : Nat} {put : Thread → BitVec b → Thread} {x : Int} {th : Thread}

/-- A result that is written as it is: in range, or wrapped. -/
theorem checkedRes_plain (hput : ∀ v, (put th v).fx = th.fx)
    (h : fits b x ∨ th.st.toNat.testBit 5 = false ∧ th.st.toNat.testBit 6 = false) :
    checkedRes b put x th = .done (put th (BitVec.ofInt b x)) := by
  have hval : checked th.st th.fx b x = some (wrapTo b x, th.fx) := by
    unfold checked stOVE stSAT
    rw [isOn_bit, isOn_bit]
    rcases h with hfit | ⟨hove, hsat⟩
    · rw [if_pos ((inRange_iff_fits b x).mpr hfit)]
    · simp [hove, hsat]
  simp only [checkedRes, hval, ofNat_wrapTo]
  rw [← hput]

theorem checkedRes_trap (h : ¬fits b x) (hove : th.st.toNat.testBit 5 = true) : checkedRes b put x th = .trap 8 0 0 := by
  have hval : checked th.st th.fx b x = none := by
    simp [checked, inRange_iff_fits, h, stOVE, isOn_bit, hove]
  simp only [checkedRes, hval]

theorem checkedRes_saturated (h : ¬fits b x) (hove : th.st.toNat.testBit 5 = false) (hsat : th.st.toNat.testBit 6 = true) :
    checkedRes b put x th = .done { put th (BitVec.ofInt b (nearestBound b x)) with fx := th.fx ||| 0x10 } := by
  have hval : checked th.st th.fx b x = some (wrapTo b (nearestBound b x), th.fx ||| 0x10) := by
    simp [checked, inRange_iff_fits, h, stOVE, stSAT, fxQS, isOn_bit, hove, hsat, satInt_of_not_fits h, setOn_bit,
      BitVec.twoPow_eq]
  simp only [checkedRes, hval, ofNat_wrapTo]

end

/-- R75 for a word whose operation ends in a signed-checked result. -/
theorem runOp_checkedRes {b : Nat} {put : Thread → BitVec b → Thread} {x : Int} {s : State} {g : Nat} {f : Thread → Res}
    (hrun : s.runs g = true) (hput : ∀ v, (put (s.thr g) v).fx = (s.thr g).fx)
    (hf : f (s.thr g) = checkedRes b put x (s.thr g)) :
    let th := s.thr g
    let ove := th.st.toNat.testBit 5
    let sat := th.st.toNat.testBit 6
    (fits b x → runOp g s f = s.setThr g (put th (BitVec.ofInt b x)).advance) ∧
    (¬fits b x → ove = true → runOp g s f = s.trap g 8 0 0) ∧
    (¬fits b x → ove = false → sat = true → runOp g s f = s.setThr g
      ({ put th (BitVec.ofInt b (nearestBound b x)) with fx := th.fx ||| 0x10 }).advance) ∧
    (¬fits b x → ove = false → sat = false → runOp g s f = s.setThr g (put th (BitVec.ofInt b x)).advance) := by
  refine ⟨fun hfit => ?_, fun hfit hove => ?_, fun hfit hove hsat => ?_, fun _ hove hsat => ?_⟩
  · exact runOp_done hrun (hf.trans (checkedRes_plain hput (.inl hfit)))
  · exact runOp_trap hrun (hf.trans (checkedRes_trap hfit hove))
  · exact runOp_done hrun (hf.trans (checkedRes_saturated hfit hove hsat))
  · exact runOp_done hrun (hf.trans (checkedRes_plain hput (.inr ⟨hove, hsat⟩)))

theorem sext15_toInt (k : BitVec 15) : (sext15 k).toInt = k.toInt := BitVec.toInt_signExtend_of_le (by decide)

/-- Every word of `checkedResult` is an operation with that signed-checked result. -/
theorem exec_checkedResult {s : State} {i : Instr} {g : ThreadNo} {d : Reg} {x : Int}
    (h : checkedResult s i = some (g, d, x)) :
    ∃ f, exec i s = .next (runOp g s f) ∧ f (s.thr g) = checkedRes 32 (·.set d) x (s.thr g) := by
  rw [← opChk_eq_checkedRes]
  unfold checkedResult at h
  split at h
  case h_6 => cases h
  case h_3 => cases h; exact ⟨_, rfl, by simp only [Int.zero_sub]⟩
  case h_5 => cases h; exact ⟨_, rfl, by simp only [sext15_toInt]⟩
  all_goals cases h; exact ⟨_, rfl, rfl⟩

/-- Every word of `checkedPair` is a pair operation with that signed-checked result. -/
theorem exec_checkedPair {s : State} {i : Instr} {g : ThreadNo} {d : Reg} {x : Int} {l : List Reg}
    (h : checkedPair s i = some (g, d, x, l)) :
    ∃ f, exec i s = .next (runOp g s (withPairs l f)) ∧ f (s.thr g) = checkedRes 64 (pairPut · d) x (s.thr g) := by
  rw [← opChk64_eq_checkedRes]
  unfold checkedPair at h
  split at h
  case h_3 => cases h
  all_goals cases h; exact ⟨_, rfl, rfl⟩

theorem ofInt_nearestBound_32 (x : Int) :
    BitVec.ofInt 32 (nearestBound 32 x) = if x < 0 then 0x80000000 else 0x7FFFFFFF := by
  unfold nearestBound; split <;> rfl
theorem ofInt_nearestBound_64 (x : Int) :
    BitVec.ofInt 64 (nearestBound 64 x) = if x < 0 then 0x8000000000000000 else 0x7FFFFFFFFFFFFFFF := by
  unfold nearestBound; split <;> rfl

/-- Settles O11: both widths are one signed-checked result, written by `Thread.set` or `Thread.setPair`. -/
theorem signedChecked : Obligations.SignedChecked := by
  unfold Obligations.SignedChecked
  refine ⟨fun s i g d x h hrun => ?_, fun s i g d x l h hrun heven => ?_⟩
  · obtain ⟨f, hexec, hf⟩ := exec_checkedResult h
    rw [hexec, ← ofInt_nearestBound_32]
    simpa only [Host.Outcome.next.injEq] using runOp_checkedRes hrun (fun v => Thread.set_fx _ d v) hf
  · obtain ⟨f, hexec, hf⟩ := exec_checkedPair h
    rw [hexec, withPairs_even heven, ← ofInt_nearestBound_64]
    simpa only [Host.Outcome.next.injEq] using runOp_checkedRes hrun (fun v => pairPut_fx _ d v) hf

end Sys2Proof.Machine
end

section
/-! PROOFS. Calls, returns and the return stack (R86 to R88), with reads of clean memory and writes of whole ECC words (R158). -/

namespace Sys2Proof.Machine

/-! ### Calls and returns (R86, R87) -/

section
variable {t : Word} {th : Thread}

theorem opCall_not_full (h : th.hrs.length ≠ 8) :
    opCall t th = .goto { th with hrs := th.hrs ++ [th.lk], lk := th.wordAddr + 4 } t 2 := by
  simp [opCall, h]

theorem opCall_full (h : th.hrs.length = 8) (hht : th.st.toNat.testBit 7 = false) :
    opCall t th = .goto { th with hrs := th.hrs.drop 1 ++ [th.lk], lk := th.wordAddr + 4 } t 2 := by
  simp [opCall, h, stHT, isOn_bit, hht]

theorem opCall_full_trap (h : th.hrs.length = 8) (hht : th.st.toNat.testBit 7 = true) : opCall t th = .trap 9 0 0 := by
  simp [opCall, h, stHT, isOn_bit, hht]

theorem opRet_pop (h : th.hrs ≠ []) :
    opRet th = .goto { th with lk := th.hrs.getLastD 0, hrs := th.hrs.dropLast } th.lk 3 := by
  have hlast : th.hrs.getLast? = some (th.hrs.getLastD 0) := by
    rw [List.getLast?_eq_some_getLast h, List.getLastD_eq_getLast?, List.getLast?_eq_some_getLast h, Option.getD_some]
  simp only [opRet, hlast]

theorem opRet_empty (h : th.hrs = []) (hht : th.st.toNat.testBit 7 = false) :
    opRet th = .goto { th with lk := 0xFFFFFFFC, st := th.st ||| 0x100 } th.lk 3 := by
  simp [opRet, h, stHT, stHU, isOn_bit, hht, setOn_bit, BitVec.twoPow_eq]

theorem opRet_empty_trap (h : th.hrs = []) (hht : th.st.toNat.testBit 7 = true) : opRet th = .trap 10 0 0 := by
  simp [opRet, h, stHT, isOn_bit, hht]

end

/-- CALL, and CALLR with an aligned register, call their target. -/
theorem exec_callTarget {s : State} {i : Instr} {g : ThreadNo} {x : Word} (h : callTarget s i = some (g, x)) :
    ∃ f, exec i s = .next (runOp g s f) ∧ f (s.thr g) = opCall x (s.thr g) := by
  unfold callTarget at h
  split at h
  case h_1 g off => cases h; exact ⟨_, rfl, rfl⟩
  case h_2 g r =>
    split at h
    case isTrue halign => cases h; exact ⟨_, rfl, if_pos halign⟩
    case isFalse => cases h
  case h_3 => cases h

theorem calls : partCalls := by
  unfold partCalls
  intro s i g x h hrun
  obtain ⟨f, hexec, hf⟩ := exec_callTarget h
  rw [hexec]
  refine ⟨fun hlen => ?_, fun hlen hht => ?_, fun hlen hht => ?_⟩
  · exact congrArg _ (runOp_goto hrun (hf.trans (opCall_not_full hlen)))
  · exact congrArg _ (runOp_goto hrun (hf.trans (opCall_full hlen hht)))
  · exact congrArg _ (runOp_trap hrun (hf.trans (opCall_full_trap hlen hht)))

theorem returns : partReturns := by
  unfold partReturns
  intro s g hrun
  refine ⟨fun hne => ?_, fun hnil hht => ?_, fun hnil hht => ?_⟩
  · exact congrArg _ (runOp_goto hrun (opRet_pop hne))
  · exact congrArg _ (runOp_goto hrun (opRet_empty hnil hht))
  · exact congrArg _ (runOp_trap hrun (opRet_empty_trap hnil hht))

/-! ### Bytes and little-endian words (R15) -/

theorem nth_of_lt {α : Type} (x : α) : ∀ (l : List α) (i : Nat) (h : i < l.length), nth x l i = l[i]
  | _ :: _, 0, _ => rfl
  | _ :: r, i + 1, h => nth_of_lt x r i (Nat.lt_of_succ_lt_succ h)

theorem nth_of_le {α : Type} (x : α) : ∀ (l : List α) (i : Nat), l.length ≤ i → nth x l i = x
  | [], _, _ => rfl
  | _ :: r, i + 1, h => nth_of_le x r i (Nat.le_of_succ_le_succ h)

@[simp] theorem bytesLE_length (n v : Nat) : (bytesLE n v).length = n := by
  induction n generalizing v with
  | zero => rfl
  | succ n ih => simp [bytesLE, ih]

theorem leBytes_bytesLE (n v : Nat) : leBytes (bytesLE n v) = v % 256 ^ n := by
  induction n generalizing v with
  | zero => simp [bytesLE, leBytes, Nat.mod_one]
  | succ n ih => simp [bytesLE, leBytes, ih, Nat.pow_succ', Nat.mod_mul]

theorem flatMap_bytesLE_length (n : Nat) (l : List Nat) : (l.flatMap (bytesLE n)).length = n * l.length := by
  induction l with
  | nil => rfl
  | cons v r ih => rw [List.flatMap_cons, List.length_append, bytesLE_length, ih, List.length_cons, Nat.mul_succ, Nat.add_comm]

/-- The bytes of word `k` among words laid one after another. -/
theorem flatMap_bytesLE_word {n : Nat} : ∀ (l : List Nat) (k : Nat) (h : k < l.length),
    ((l.flatMap (bytesLE n)).drop (n * k)).take n = bytesLE n l[k]
  | v :: r, 0, _ => by simp
  | v :: r, k + 1, h => by
    have ih := flatMap_bytesLE_word (n := n) r k (by simpa using h)
    have hskip : (bytesLE n v).drop (n * k + n) = [] := List.drop_eq_nil_of_le (by simp)
    simpa [List.drop_append, Nat.mul_succ, hskip] using ih

/-! ### Reads of memory without an error, writes of whole ECC words (R158) -/

theorem goodByte_of_clean {s : State} {a : Nat} (h : s.synd (a / eccW a * eccW a) = .clean) :
    s.goodByte a = memByte s.mem a := by
  simp only [State.goodByte, h]

theorem readCheck_of_clean (s : State) (m : Nat) : ∀ l : List Nat, (∀ wb ∈ l, s.synd wb = .clean) →
    s.readCheck m l = (s, true)
  | [], _ => rfl
  | wb :: r, h => by
    simp only [State.readCheck, h wb (by simp)]
    exact readCheck_of_clean s m r fun x hx => h x (by simp [hx])

theorem mem_eccWords {a n i : Nat} (h : i < n) : (a + i) / eccW a * eccW a ∈ eccWords a n := by
  have hlo : a / eccW a ≤ (a + i) / eccW a := Nat.div_le_div_right (by omega)
  have hhi : (a + i) / eccW a ≤ (a + n - 1) / eccW a := Nat.div_le_div_right (by omega)
  rw [eccWords, if_neg (by omega)]
  refine List.mem_map.mpr ⟨(a + i) / eccW a - a / eccW a, List.mem_range.mpr (by omega), ?_⟩
  rw [Nat.add_sub_cancel' hlo]

/-- A read of bytes whose ECC words hold no error gives the stored bytes and changes nothing. -/
theorem memRead_of_clean {s : State} {m a n : Nat} (h : cleanAt s a n) (hw : ∀ i < n, eccW (a + i) = eccW a) :
    s.memRead m a n = (s, some (bytesAt s a n)) := by
  have hbytes : (List.range n).map (fun i => s.goodByte (a + i)) = bytesAt s a n := by
    refine List.map_congr_left fun i hi => goodByte_of_clean ?_
    rw [hw i (List.mem_range.mp hi)]
    exact h _ (mem_eccWords (List.mem_range.mp hi))
  simp only [State.memRead, readCheck_of_clean s m _ h, hbytes, if_true]

@[simp] theorem bytesAt_length (s : State) (a n : Nat) : (bytesAt s a n).length = n := by
  rw [bytesAt, List.length_map, List.length_range]

theorem bytesAt_drop_take {s : State} {a n k m : Nat} (h : k + m ≤ n) :
    ((bytesAt s a n).drop k).take m = bytesAt s (a + k) m := by
  have hlen : (((bytesAt s a n).drop k).take m).length = (bytesAt s (a + k) m).length := by
    rw [List.length_take, List.length_drop, bytesAt_length, bytesAt_length]
    omega
  refine List.ext_getElem hlen fun i _ _ => ?_
  simp only [bytesAt, List.getElem_take, List.getElem_drop, List.getElem_map, List.getElem_range, Nat.add_assoc]

/-- After a store the bytes at a part of its area are that part of what it wrote. -/
theorem bytesAt_of_storesOnly {s t : State} {a k n : Nat} {d : List Byte} (h : storesOnly s t a d) (hk : k + n ≤ d.length) :
    bytesAt t (a + k) n = (d.drop k).take n := by
  have hlen : (bytesAt t (a + k) n).length = ((d.drop k).take n).length := by
    rw [List.length_take, List.length_drop, bytesAt_length]
    omega
  refine List.ext_getElem hlen fun i hi _ => ?_
  have hin : i < n := by rwa [bytesAt_length] at hi
  have hbyte := h (a + k + i)
  have hidx : a + k + i - a = k + i := by omega
  rw [if_pos (by omega), hidx, nth_of_lt 0 d (k + i) (by omega)] at hbyte
  simp only [bytesAt, List.getElem_map, List.getElem_range, List.getElem_take, List.getElem_drop, hbyte]

theorem sameOutside_of_storesOnly {s t : State} {a : Nat} {d : List Byte} (h : storesOnly s t a d) :
    sameOutside s t a d.length := fun b hb => (h b).trans (if_neg (by omega))

/-- Above the spool view an ECC word has 8 bytes. -/
theorem eccW_above_spool {a : Nat} (h : 0x0C500000 ≤ a) : eccW a = 8 := by
  simp [eccW, inSpool, Nat.not_lt.mpr h]

theorem wordWrite_whole (s : State) (m : Nat) {wb a : Nat} {d : List Byte} (hlo : a ≤ wb) (hhi : wb + eccW wb ≤ a + d.length) :
    s.wordWrite m wb a d = ({ s with mem := memPuts s.mem wb ((d.drop (wb - a)).take (eccW wb)),
                                     syn := tput (fun _ => 0) s.syn wb 0 }, true) := by
  have hpart : ((d.drop (wb - a)).take (eccW wb)).length = eccW wb := by rw [List.length_take, List.length_drop]; omega
  simp [State.wordWrite, Nat.max_eq_right hlo, hpart]

/-- Bytes of a list laid in memory from the address that one of its positions has. -/
theorem memByte_memPuts_part (m : List Host.Cell) {a wb w b : Nat} {d : List Byte} (hlo : a ≤ wb) (hhi : wb + w ≤ a + d.length) :
    memByte (memPuts m wb ((d.drop (wb - a)).take w)) b = if wb ≤ b ∧ b < wb + w then nth 0 d (b - a) else memByte m b := by
  have hlen : ((d.drop (wb - a)).take w).length = w := by rw [List.length_take, List.length_drop]; omega
  split
  case isTrue hin =>
    obtain ⟨i, rfl⟩ := Nat.exists_eq_add_of_le hin.1
    have hidx : wb + i - a = wb - a + i := by omega
    rw [memByte_memPuts_in _ _ _ i (by omega), hidx, nth_of_lt 0 d _ (by omega), List.getElem_take, List.getElem_drop]
  case isFalse hout => exact memByte_memPuts_out _ _ _ _ (by omega)

theorem memByte_wordsWrite_whole (m : Nat) {a : Nat} {d : List Byte} (b : Nat) : ∀ (l : List Nat) (s : State),
    (∀ wb ∈ l, a ≤ wb ∧ wb + eccW wb ≤ a + d.length) →
    memByte (s.wordsWrite m a d l).1.mem b =
      if ∃ wb ∈ l, wb ≤ b ∧ b < wb + eccW wb then nth 0 d (b - a) else memByte s.mem b
  | [], s, _ => by simp [State.wordsWrite]
  | wb :: r, s, h => by
    obtain ⟨hlo, hhi⟩ := h wb (by simp)
    have ih := memByte_wordsWrite_whole m b r (s.wordWrite m wb a d).1 fun x hx => h x (by simp [hx])
    rw [wordWrite_whole s m hlo hhi, memByte_memPuts_part s.mem hlo hhi] at ih
    simp only [State.wordsWrite, wordWrite_whole s m hlo hhi, ih, List.mem_cons, exists_eq_or_imp]
    by_cases hr : ∃ x, x ∈ r ∧ x ≤ b ∧ b < x + eccW x
    · rw [if_pos hr, if_pos (Or.inr hr)]
    · simp only [hr, or_false, if_false]

/-- A write of whole ECC words above the spool view stores its bytes and no other, whatever errors the words held. -/
theorem memWrite_storesOnly (s : State) (m : Nat) {a : Nat} {d : List Byte} (ha : 0x0C500000 ≤ a) (hal : a % 8 = 0)
    (hlen : d.length % 8 = 0) : storesOnly s (s.memWrite m a d).1 a d := by
  have hw : eccW a = 8 := eccW_above_spool ha
  have hwithin : ∀ wb ∈ eccWords a d.length, a ≤ wb ∧ wb + eccW wb ≤ a + d.length := by
    intro wb hwb
    by_cases hnil : d.length = 0
    · simp [eccWords, hnil] at hwb
    · obtain ⟨i, hi, rfl⟩ : ∃ i, i < (a + d.length - 1) / 8 - a / 8 + 1 ∧ (a / 8 + i) * 8 = wb := by
        simpa [eccWords, hnil, hw] using hwb
      rw [eccW_above_spool (by omega)]
      omega
  intro b
  rw [State.memWrite, memByte_wordsWrite_whole m b _ _ hwithin]
  refine ite_congr (propext ⟨?_, fun hin => ?_⟩) (fun _ => rfl) fun _ => rfl
  · rintro ⟨wb, hwb, hlo, hhi⟩
    have := hwithin wb hwb
    omega
  · have hmem := mem_eccWords (a := a) (show b - a < d.length by omega)
    rw [hw, Nat.add_sub_cancel' hin.1] at hmem
    exact ⟨_, hmem, by rw [eccW_above_spool (by omega)]; omega⟩

/-! ### The return stack in memory (R88) -/

/-- The words that HSPILL stores: the depth, 0, and eight entries. -/
def spillWords (l : List Word) : List Nat := l.length :: 0 :: (padTo 8 0 l).map BitVec.toNat

theorem hrsBytes_eq_flatMap (l : List Word) : hrsBytes l = (spillWords l).flatMap (bytesLE 4) := by
  simp [hrsBytes, spillWords, List.flatMap_map]

theorem padTo_length {α : Type} (n : Nat) (x : α) (l : List α) : (padTo n x l).length = n := by
  rw [padTo, List.length_append, List.length_take, List.length_replicate]
  omega

theorem padTo_getElem {α : Type} {n i : Nat} (x : α) (l : List α) (h : i < (padTo n x l).length) :
    (padTo n x l)[i] = nth x l i := by
  have hi : i < n := by simpa [padTo_length] using h
  by_cases hl : i < l.length
  · have hleft : i < (l.take n).length := by rw [List.length_take]; omega
    simp only [padTo, List.getElem_append_left hleft, List.getElem_take, nth_of_lt x l i hl]
  · have hright : (l.take n).length ≤ i := by rw [List.length_take]; omega
    simp only [padTo, List.getElem_append_right hright, List.getElem_replicate, nth_of_le x l i (Nat.le_of_not_lt hl)]

@[simp] theorem spillWords_length (l : List Word) : (spillWords l).length = 10 := by simp [spillWords, padTo_length]

theorem hrsBytes_length (l : List Word) : (hrsBytes l).length = 40 := by
  rw [hrsBytes_eq_flatMap, flatMap_bytesLE_length, spillWords_length]

/-- The words of memory where the return stack has been spilled. -/
theorem wordAt_of_spill {s t : State} {a k : Nat} {l : List Word} (h : storesOnly s t a (hrsBytes l)) (hk : k < 10) :
    wordAt t (a + 4 * k) = ((spillWords l)[k]'(by rwa [spillWords_length])) % 2 ^ 32 := by
  rw [wordAt, bytesAt_of_storesOnly h (by rw [hrsBytes_length]; omega), hrsBytes_eq_flatMap,
    flatMap_bytesLE_word _ k (by rwa [spillWords_length])]
  exact leBytes_bytesLE 4 _

theorem wordAt_of_spill_entry {s t : State} {a i : Nat} {l : List Word} (h : storesOnly s t a (hrsBytes l)) (hi : i < 8) :
    wordAt t (a + 8 + 4 * i) = (nth 0 l i).toNat := by
  have hentry : (spillWords l)[i + 2]'(by rw [spillWords_length]; omega) = (nth 0 l i).toNat := by simp [spillWords, padTo_getElem]
  have hword := wordAt_of_spill (k := i + 2) h (by omega)
  rwa [hentry, Nat.mod_eq_of_lt (BitVec.isLt _), show a + 4 * (i + 2) = a + 8 + 4 * i by omega] at hword

/-- Bits [1:0] of a word cleared. -/
theorem wordOf_clear_low (n : Nat) : wordOf (n / 4 * 4) = BitVec.ofNat 32 n &&& 0xFFFFFFFC := by
  have hmask : ∀ i < 32, (0xFFFFFFFC : Word).getLsbD i = decide (2 ≤ i) := by decide
  have hshift : BitVec.ofNat 32 n &&& (0xFFFFFFFC : Word) = (BitVec.ofNat 32 n >>> 2) <<< 2 := by
    refine BitVec.eq_of_getLsbD_eq fun i hi => ?_
    rw [BitVec.getLsbD_and, hmask i hi, BitVec.getLsbD_shiftLeft, BitVec.getLsbD_ushiftRight]
    by_cases h2 : 2 ≤ i
    · simp [h2, hi, Nat.not_lt.mpr h2]
    · simp [h2, Nat.lt_of_not_le h2]
  rw [hshift]
  refine BitVec.eq_of_toNat_eq ?_
  simp only [wordOf, BitVec.toNat_ofNat, BitVec.toNat_shiftLeft, BitVec.toNat_ushiftRight, Nat.shiftRight_eq_div_pow,
    Nat.shiftLeft_eq]
  omega

/-- The return stack that HFILL reads from the words of memory. -/
theorem hrsOf_bytesAt (s : State) (a : Nat) :
    hrsOf (bytesAt s a 40) = (List.range (min 8 (wordAt s a % 16))).map fun i =>
      BitVec.ofNat 32 (wordAt s (a + 8 + 4 * i)) &&& 0xFFFFFFFC := by
  have hdepth : (bytesAt s a 40).take 4 = bytesAt s a 4 := by
    simpa using bytesAt_drop_take (s := s) (a := a) (n := 40) (k := 0) (m := 4) (by omega)
  simp only [hrsOf, hdepth]
  refine List.map_congr_left fun i hi => ?_
  have hi8 : i < 8 := Nat.lt_of_lt_of_le (List.mem_range.mp hi) (Nat.min_le_left _ _)
  rw [bytesAt_drop_take (by omega), wordOf_clear_low, ← Nat.add_assoc]
  rfl

theorem hrsOf_bytesAt_length (s : State) (a : Nat) : (hrsOf (bytesAt s a 40)).length = min 8 (wordAt s a % 16) := by
  simp [hrsOf_bytesAt]

theorem nth_hrsOf_bytesAt {s : State} {a i : Nat} (hi : i < min 8 (wordAt s a % 16)) :
    nth 0 (hrsOf (bytesAt s a 40)) i = BitVec.ofNat 32 (wordAt s (a + 8 + 4 * i)) &&& 0xFFFFFFFC := by
  rw [nth_of_lt 0 _ i (by rwa [hrsOf_bytesAt_length])]
  simp only [hrsOf_bytesAt, List.getElem_map, List.getElem_range]

@[simp] theorem Thread.advance_hrs (th : Thread) : th.advance.hrs = th.hrs := by
  unfold Thread.advance
  split
  · split <;> rfl
  · rfl

theorem lapBlk_above_spool (n a : Nat) : 0x0C500000 ≤ lapBlk n a := by unfold lapBlk; omega
theorem lapBlk_mod (n a : Nat) : lapBlk n a % 8 = a % 8 := by unfold lapBlk; omega

section
variable {s : State} {g : ThreadNo} {r : Reg} (hrun : s.runs g = true)
include hrun

theorem exec_hspill_stores (hal : ((s.thr g).get r).toNat % 8 = 0) (hend : ((s.thr g).get r).toNat + 40 ≤ 0x100000)
    (hmay : s.mayAccess g .write ((s.thr g).get r).toNat 40 = true) :
    exec (.hspill g r) s = .next ((s.memWrite (g / 32) (lapBlk (g / 32) ((s.thr g).get r).toNat) (hrsBytes (s.thr g).hrs)).1.setThr g
      { s.thr g with hrs := [], owed := 4 }.advance) := by
  refine congrArg _ ((issue_runs hrun _).trans ?_)
  simp [hal, hmay, Nat.not_lt.mpr hend]

theorem exec_hfill_loads (hal : ((s.thr g).get r).toNat % 8 = 0) (hend : ((s.thr g).get r).toNat + 40 ≤ 0x100000)
    (hmay : s.mayAccess g .read ((s.thr g).get r).toNat 40 = true)
    (hclean : cleanAt s (lapBlk (g / 32) ((s.thr g).get r).toNat) 40) :
    exec (.hfill g r) s = .next (s.setThr g
      { s.thr g with hrs := hrsOf (bytesAt s (lapBlk (g / 32) ((s.thr g).get r).toNat) 40), owed := 4 }.advance) := by
  have hblk := lapBlk_above_spool (g / 32) ((s.thr g).get r).toNat
  have hread := memRead_of_clean (m := g / 32) hclean fun i _ => by
    rw [eccW_above_spool hblk, eccW_above_spool (by omega)]
  refine congrArg _ ((issue_runs hrun _).trans ?_)
  simp [hal, hmay, hread, Nat.not_lt.mpr hend]

theorem exec_hspill_hfill_misaligned (hal : ((s.thr g).get r).toNat % 8 ≠ 0) :
    exec (.hspill g r) s = .next (s.trap g 3 0 ((s.thr g).get r)) ∧
      exec (.hfill g r) s = .next (s.trap g 3 0 ((s.thr g).get r)) :=
  ⟨congrArg _ ((issue_runs hrun _).trans (if_pos hal)), congrArg _ ((issue_runs hrun _).trans (if_pos hal))⟩

theorem exec_hspill_hfill_outside (hal : ((s.thr g).get r).toNat % 8 = 0) (hend : 0x100000 < ((s.thr g).get r).toNat + 40) :
    exec (.hspill g r) s = .next (s.trap g 5 0 ((s.thr g).get r)) ∧
      exec (.hfill g r) s = .next (s.trap g 4 0 ((s.thr g).get r)) :=
  ⟨congrArg _ ((issue_runs hrun _).trans ((if_neg (not_not_intro hal)).trans (if_pos (.inl hend)))),
    congrArg _ ((issue_runs hrun _).trans ((if_neg (not_not_intro hal)).trans (if_pos (.inl hend))))⟩

end

theorem returnStackSpill : partReturnStackSpill := by
  unfold partReturnStackSpill
  intro s g r hrun th a blk
  refine ⟨fun hal hend hmay => ?_, fun hal hend hmay hclean => ?_, fun hal => exec_hspill_hfill_misaligned hrun hal,
    fun hal hend => exec_hspill_hfill_outside hrun hal hend⟩
  · refine ⟨_, exec_hspill_stores hrun hal hend hmay, State.thr_setThr_self _ _ _, ?_⟩
    have hstore : storesOnly s (s.memWrite (g / 32) blk (hrsBytes th.hrs)).1 blk (hrsBytes th.hrs) :=
      memWrite_storesOnly s _ (lapBlk_above_spool _ _) ((lapBlk_mod _ _).trans hal) (by rw [hrsBytes_length])
    exact ⟨wordAt_of_spill (k := 0) hstore (by omega), wordAt_of_spill (k := 1) hstore (by omega),
      fun i hi => wordAt_of_spill_entry hstore hi, hrsBytes_length th.hrs ▸ sameOutside_of_storesOnly hstore⟩
  · refine ⟨_, exec_hfill_loads hrun hal hend hmay hclean, fun _ => rfl, ?_⟩
    simp only [State.thr_setThr_self, Thread.advance_hrs]
    exact ⟨rfl, hrsOf_bytesAt_length s blk, fun i hi => nth_hrsOf_bytesAt hi⟩

/-- Settles O18: CALL and RET as operations on their thread, HSPILL and HFILL by what ten whole words of memory hold. -/
theorem callsAndReturns : Obligations.CallsAndReturns := ⟨calls, returns, returnStackSpill⟩

end Sys2Proof.Machine
end
